-- ==== Sys2Proof/Word.lean ====
section
/-! DEFINITION. The word types of the device (R4, R5, R32, R60). -/

namespace Sys2Proof

/-- A 32-bit register value. -/
abbrev Word := BitVec 32

/-- A byte of memory. -/
abbrev Byte := BitVec 8

/-- A mask of the 32 lanes of a warp, bit `l` for lane `l`. -/
abbrev Mask := BitVec 32

/-- A whole instruction: bits [31:0] are word 0 (R32). -/
abbrev IWord := BitVec 96

end Sys2Proof
end

