-- ==== Sys2Proof/Machine/Flags.lean ====
section
/-! DEFINITION. The bits of %fpflags (R62, R80). -/

namespace Sys2Proof.Machine

/-- The five flags an instruction raises, in the layout of %fpflags. -/
abbrev FpFlags := BitVec 5

/-- No flag. -/
def flNone : FpFlags := 0

/-- invalid, %fpflags[0] (R62). -/
def flInvalid : FpFlags := 1

/-- divide-by-zero, %fpflags[1]. -/
def flDivZero : FpFlags := 2

/-- overflow, %fpflags[2]. -/
def flOverflow : FpFlags := 4

/-- underflow, %fpflags[3]. -/
def flUnderflow : FpFlags := 8

/-- inexact, %fpflags[4]. -/
def flInexact : FpFlags := 16

/-- A flag raised exactly when a condition holds. -/
def flIf (c : Bool) (f : FpFlags) : FpFlags := if c then f else flNone

/-- The flags of a rounding (R80): `excess` when the value rounded with an unbounded exponent range exceeds the largest finite one,
`inexact` when the delivered result differs from the exact one, `tiny` when the value rounded at the destination's precision with an
unbounded exponent range lies below the smallest normal, `flushed` when flush-to-zero replaced the result. -/
def flRounding (excess inexact tiny flushed : Bool) : FpFlags :=
  flIf excess (flOverflow ||| flInexact) ||| flIf inexact flInexact ||| flIf (tiny && inexact) flUnderflow
    ||| flIf flushed (flUnderflow ||| flInexact)

/-- Flags taken from those an instruction may raise (R109). -/
def flMask (allowed f : FpFlags) : FpFlags := allowed &&& f

end Sys2Proof.Machine
end

