-- ==== Sys2Proof/Syntax.lean ====
section
/-! DEFINITION. The instructions and the machine's other steps: one constructor for each row of the opcode table (R65, R63,
and the steps of 95_what_each_step_holds.md). Operand fields, type codes and modifiers are decoded here once (R35, R48 to R59). -/

namespace Sys2Proof

/-- The operand types of R58. -/
inductive Ty where
  | b32 | i8 | n8 | i16 | n16 | i32 | n32 | i64 | n64 | f16 | bf16 | f32 | f64 | e4m3 | e5m2 | e3m2 | e2m3 | e2m1
  | e8m0 | yk9 | yk6 | yk4 | mxi8 | f16x2 | bf16x2 | i8x4 | n8x4
  deriving DecidableEq, Repr

/-- The rounding codes of R59. -/
inductive Rnd where
  | rne | rtz | rdn | rup | rna | rsr | dyn
  deriving DecidableEq, Repr

/-- The next-address operations of R37. -/
inductive Nxt where
  | seq | jmp | call | ret | loop | exit
  deriving DecidableEq, Repr

/-- The header fields other than OPC (R35): guard G, N, P; NXT.OP, NXT.T; LA. -/
structure Hdr where
  g : Bool
  n : Bool
  p : BitVec 4
  nxt : Nxt
  t : BitVec 3
  la : BitVec 4
  deriving DecidableEq, Repr

/-- An operand field by its class (R53). -/
inductive Opnd where
  | v (n : BitVec 8)
  | s (n : BitVec 10)
  | sr (n : BitVec 9)
  | imm (k : BitVec 9)
  | p (n : BitVec 4)
  | bt (n : BitVec 3)
  | lc (n : BitVec 2)
  | cv (n : BitVec 3)
  | lk
  | pc
  | zr
  | acc (n : BitVec 5)
  deriving DecidableEq, Repr

/-- Format R with its MOD field (R48, R49). -/
structure RForm where
  dst : Opnd
  sa : Opnd
  sb : Opnd
  sc : Opnd
  ty : Ty
  rnd : Rnd
  sat : Bool
  ftz : Bool
  nega : Bool
  negb : Bool
  negc : Bool
  absa : Bool
  sub : BitVec 8
  deriving DecidableEq, Repr

/-- Format I with its MODI field (R48, R49). -/
structure IForm where
  dst : Opnd
  sa : Opnd
  ty : Ty
  rnd : Rnd
  sat : Bool
  sub : BitVec 5
  imm : Word
  deriving DecidableEq, Repr

/-- The address spaces of MODM (R49, R231). -/
inductive Space where
  | generic | global | scratch | window | constant | transient | priv
  deriving DecidableEq, Repr

/-- The access widths of MODM (R49). -/
inductive Width where
  | n8 | n16 | b32 | b64 | b128 | i8 | i16
  deriving DecidableEq, Repr

/-- The cache hints of MODM (R267). -/
inductive Cache where
  | dflt | stream | nol1 | keep
  deriving DecidableEq, Repr

/-- The full-empty codes of MODM (R266): ignore, wait-full keep, wait-full clear, wait-empty then set. -/
inductive Fe where
  | ignore | keep | clear | set
  deriving DecidableEq, Repr

/-- The order codes of MODM (R49). -/
inductive Ord where
  | plain | acq | rel | ar
  deriving DecidableEq, Repr

/-- The memory scopes (R236), in the order of their codes (R49). -/
inductive Scope where
  | thread | warp | core | gang | stack | card | fabric | system
  deriving DecidableEq, Repr

/-- Format M with its MODM field (R48, R49). -/
structure MForm where
  dst : Opnd
  base : Opnd
  index : Opnd
  space : Space
  width : Width
  cache : Cache
  fe : Fe
  ord : Ord
  scope : Scope
  scl : Bool
  ofs : BitVec 18
  deriving DecidableEq, Repr

/-- What an access needs of a page (R396): a read, a write, or an instruction fetch. -/
inductive AccKind where
  | read | write | fetch
  deriving DecidableEq, Repr

/-- A unit whose errors count toward retirement (R432); a Rueladom lane is numbered port × 8 + lane. -/
inductive RetUnit where
  | coreSram (cid : Nat)
  | column (cid : Nat)
  | channel (n : Nat)
  | lane (n : Nat)
  | other
  deriving DecidableEq, Repr

/-- Where a hardware error struck (R427 to R432). `unit` numbers the protected unit in its store class; `slot` is the
scoreboard slot or queue entry of classes 6 and 7, `tag` says that the entry's context tag itself is lost (R431), and `dirty` that an L2 unit,
class 4, holds data its home has not (R427). -/
structure ErrSite where
  cls : Nat
  stack : Nat
  loc : Nat
  unit : Nat
  slot : Nat
  tag : Bool
  dirty : Bool
  ret : RetUnit
  deriving DecidableEq, Repr

/-- One bank sensor reading, in whole degrees (R443). -/
structure BankReading where
  core : Nat
  bank : Nat
  temp : Int
  deriving DecidableEq, Repr

/-- What a peer card reports on a port at link training, and how many lanes of the port work (R432, R440). -/
structure PeerCard where
  port : Nat
  ncard : Nat
  card : Nat
  lanes : Nat
  deriving DecidableEq, Repr

/-- What the surroundings answer while boot leaves STAGE 2 (R436, R440, R441): whether memory training succeeds, the peers found, and the links
that other cards have trained with one another. -/
structure BootEnv where
  memoryOk : Bool
  peers : List PeerCard
  far : List (Nat × Nat)
  deriving DecidableEq, Repr

/-- What has a world (R391): a block; a region, which is 2 MiB of GDDR-7, the column of a core, or 64 MiB of the yard (stack × 2^12 + unit); or
a context slot, whose SECURE bit the secure firmware writes (R388). -/
inductive BlockId where
  | core (cid : Nat)
  | engine (stack : Nat) (k : Nat)
  | plane (n : Nat)
  | cutEngine (stack : Nat)
  | rasteriser (q : Nat)
  | gddr (k : Nat)
  | column (cid : Nat)
  | yard (k : Nat)
  | context (c : Nat)
  deriving DecidableEq, Repr

/-- One step of the machine: a machine instruction with its header and fields, or an event of the part (R65, R63, and 95). -/
inductive Instr where
  /-- NOP (R110): Does nothing except its NXT transfer. -/
  | nop (h : Hdr) (f : RForm)
  /-- MOV (R110): Copies a source to a destination bit for bit. -/
  | mov (h : Hdr) (f : RForm)
  /-- MOVI (R110): Writes a 32-bit immediate, or its 64-bit extension, to a destination. -/
  | movi (h : Hdr) (f : IForm)
  /-- SEL (R110): Selects one of two sources by a predicate. -/
  | sel (h : Hdr) (f : RForm)
  /-- ADD (R111): Integer addition, wrapped or saturated. -/
  | add (h : Hdr) (f : RForm)
  /-- ADDI (R111): Integer addition of an immediate. -/
  | addi (h : Hdr) (f : IForm)
  /-- SUB (R111): Integer subtraction. -/
  | subOp (h : Hdr) (f : RForm)
  /-- MUL (R111): Integer multiplication. -/
  | mul (h : Hdr) (f : RForm)
  /-- MULI (R111): Integer multiplication by an immediate. -/
  | muli (h : Hdr) (f : IForm)
  /-- MULHI (R111): High half of an integer product. -/
  | mulhi (h : Hdr) (f : RForm)
  /-- MAD (R111): Integer multiply-add. -/
  | mad (h : Hdr) (f : RForm)
  /-- MADW (R111): Widening 32-bit multiply-add into a 64-bit pair. -/
  | madw (h : Hdr) (f : RForm)
  /-- ABS (R111): Integer absolute value. -/
  | absOp (h : Hdr) (f : RForm)
  /-- MIN (R111): Lesser of two integers. -/
  | minOp (h : Hdr) (f : RForm)
  /-- MAX (R111): Greater of two integers. -/
  | maxOp (h : Hdr) (f : RForm)
  /-- AND (R112): Bitwise AND, optionally with b inverted. -/
  | andOp (h : Hdr) (f : RForm)
  /-- ANDI (R112): Bitwise AND with an immediate. -/
  | andi (h : Hdr) (f : IForm)
  /-- OR (R112): Bitwise OR. -/
  | orOp (h : Hdr) (f : RForm)
  /-- ORI (R112): Bitwise OR with an immediate. -/
  | ori (h : Hdr) (f : IForm)
  /-- XOR (R112): Bitwise XOR. -/
  | xorOp (h : Hdr) (f : RForm)
  /-- XORI (R112): Bitwise XOR with an immediate. -/
  | xori (h : Hdr) (f : IForm)
  /-- TERN (R112): Three-input bitwise function by truth table. -/
  | tern (h : Hdr) (f : RForm)
  /-- SHL (R113): Shift left. -/
  | shl (h : Hdr) (f : RForm)
  /-- SHR (R113): Logical shift right. -/
  | shr (h : Hdr) (f : RForm)
  /-- SAR (R113): Arithmetic shift right. -/
  | sar (h : Hdr) (f : RForm)
  /-- ROT (R113): Rotate left or right. -/
  | rot (h : Hdr) (f : RForm)
  /-- FSH (R113): Funnel shift of two joined registers. -/
  | fsh (h : Hdr) (f : RForm)
  /-- BFX (R114): Extracts a bit field. -/
  | bfx (h : Hdr) (f : RForm)
  /-- BFI (R114): Inserts a bit field. -/
  | bfi (h : Hdr) (f : RForm)
  /-- POPC (R114): Counts 1 bits. -/
  | popc (h : Hdr) (f : RForm)
  /-- CLZ (R114): Counts leading zero bits. -/
  | clz (h : Hdr) (f : RForm)
  /-- CTZ (R114): Counts trailing zero bits. -/
  | ctz (h : Hdr) (f : RForm)
  /-- BREV (R114): Reverses bit order. -/
  | brev (h : Hdr) (f : RForm)
  /-- BSEL (R115): Byte select with sign fill, clear and invert. -/
  | bsel (h : Hdr) (f : RForm)
  /-- LEA (R116): Adds a shifted index to a base address. -/
  | lea (h : Hdr) (f : RForm)
  /-- CMP (R117): Integer compare into a predicate, optionally combined. -/
  | cmp (h : Hdr) (f : RForm)
  /-- CMPI (R117): Integer compare with an immediate into a predicate. -/
  | cmpi (h : Hdr) (f : IForm)
  /-- PLOP (R118): Three-input predicate logic by truth table. -/
  | plop (h : Hdr) (f : RForm)
  /-- P2V (R118): Packs p0-p15 into a register. -/
  | p2v (h : Hdr) (f : RForm)
  /-- V2P (R118): Writes selected predicates from register bits. -/
  | v2p (h : Hdr) (f : RForm)
  /-- CVTI (R119): Converts between integer types. -/
  | cvti (h : Hdr) (f : RForm)
  /-- DP4 (R120): Four-way 8-bit dot product with addend. -/
  | dp4 (h : Hdr) (f : RForm)
  /-- TGT (R121): Loads a branch-target register from an immediate. -/
  | tgt (h : Hdr) (f : IForm)
  /-- MOVBT (R121): Loads a branch-target register from a source. -/
  | movbt (h : Hdr) (f : RForm)
  /-- SETLC (R121): Loads a loop counter from an immediate. -/
  | setlc (h : Hdr) (f : IForm)
  /-- BRK (R420): Raises BRK for each lane of M. -/
  | brk (h : Hdr) (f : RForm)
  /-- FADD (R122): Floating addition rounded once. -/
  | fadd (h : Hdr) (f : RForm)
  /-- FADDI (R122): Floating addition of an .f32 immediate. -/
  | faddi (h : Hdr) (f : IForm)
  /-- FMUL (R122): Floating multiplication. -/
  | fmul (h : Hdr) (f : RForm)
  /-- FMULI (R122): Floating multiplication by an .f32 immediate. -/
  | fmuli (h : Hdr) (f : IForm)
  /-- FMA (R122): Fused multiply-add rounded once. -/
  | fma (h : Hdr) (f : RForm)
  /-- FMIN (R123): Floating minimum with selectable NaN rule. -/
  | fmin (h : Hdr) (f : RForm)
  /-- FMAX (R123): Floating maximum with selectable NaN rule. -/
  | fmax (h : Hdr) (f : RForm)
  /-- FCMP (R124): Floating compare into a predicate. -/
  | fcmp (h : Hdr) (f : RForm)
  /-- FCLASS (R125): Writes a one-hot class mask of a float. -/
  | fclass (h : Hdr) (f : RForm)
  /-- FRND (R126): Rounds a float to an integral value. -/
  | frnd (h : Hdr) (f : RForm)
  /-- FCVT (R127): Converts between floating formats. -/
  | fcvt (h : Hdr) (f : RForm)
  /-- F2I (R127): Converts a float to a saturated integer. -/
  | f2i (h : Hdr) (f : RForm)
  /-- I2F (R127): Converts an integer to a float. -/
  | i2f (h : Hdr) (f : RForm)
  /-- FSCALE (R122): Multiplies a float by a power of two. -/
  | fscale (h : Hdr) (f : RForm)
  /-- FDIV (R122): Floating division. -/
  | fdiv (h : Hdr) (f : RForm)
  /-- FSQRT (R122): Floating square root. -/
  | fsqrt (h : Hdr) (f : RForm)
  /-- RCP (R128): Approximate reciprocal. -/
  | rcp (h : Hdr) (f : RForm)
  /-- RSQ (R128): Approximate reciprocal square root. -/
  | rsq (h : Hdr) (f : RForm)
  /-- EXP2 (R128): Approximate power of two. -/
  | exp2 (h : Hdr) (f : RForm)
  /-- LOG2 (R128): Approximate base-2 logarithm. -/
  | log2 (h : Hdr) (f : RForm)
  /-- SIN (R128): Approximate sine. -/
  | sin (h : Hdr) (f : RForm)
  /-- COS (R128): Approximate cosine. -/
  | cos (h : Hdr) (f : RForm)
  /-- TANH (R128): Approximate hyperbolic tangent. -/
  | tanh (h : Hdr) (f : RForm)
  /-- FMA2 (R129): Packed two-element fused multiply-add. -/
  | fma2 (h : Hdr) (f : RForm)
  /-- FADD2 (R129): Packed two-element addition. -/
  | fadd2 (h : Hdr) (f : RForm)
  /-- FMUL2 (R129): Packed two-element multiplication. -/
  | fmul2 (h : Hdr) (f : RForm)
  /-- FDOT2 (R130): Two-element dot product plus .f32 addend, rounded once. -/
  | fdot2 (h : Hdr) (f : RForm)
  /-- QNT (R133): Warp-wide quantisation into an MX or YK block. -/
  | qnt (h : Hdr) (f : RForm)
  /-- DQNT (R134): Warp-wide dequantisation of an MX or YK block. -/
  | dqnt (h : Hdr) (f : RForm)
  /-- PACK (R131): Converts or places two values into fields of a word. -/
  | pack (h : Hdr) (f : RForm)
  /-- UNPK (R132): Widens one field of a packed word to .f32. -/
  | unpk (h : Hdr) (f : RForm)
  /-- SPX (R135): Packs one N:4 sparse group. -/
  | spx (h : Hdr) (f : RForm)
  /-- SPEXP (R136): Expands one N:4 sparse group. -/
  | spexp (h : Hdr) (f : RForm)
  /-- CVSET (R138): Writes a convergence register. -/
  | cvset (h : Hdr) (f : RForm)
  /-- CVGET (R138): Reads a convergence register. -/
  | cvget (h : Hdr) (f : RForm)
  /-- SHFL (R139): Warp-wide exchange of values between lanes. -/
  | shfl (h : Hdr) (f : RForm)
  /-- VOTE (R140): Warp-wide vote over predicates. -/
  | vote (h : Hdr) (f : RForm)
  /-- BALLOT (R140): Warp-wide mask of true predicates. -/
  | ballot (h : Hdr) (f : RForm)
  /-- MATCH (R140): Warp-wide mask of lanes holding equal values. -/
  | matchOp (h : Hdr) (f : RForm)
  /-- REDUX (R141): Warp-wide integer reduction. -/
  | redux (h : Hdr) (f : RForm)
  /-- FREDUX (R142): Warp-wide floating reduction by a fixed tree. -/
  | fredux (h : Hdr) (f : RForm)
  /-- PREFIX (R141): Warp-wide inclusive or exclusive prefix combination. -/
  | prefixOp (h : Hdr) (f : RForm)
  /-- ACTMASK (R143): Writes the mask of M. -/
  | actmask (h : Hdr) (f : RForm)
  /-- YIELD (R368): Lowers the warp's selection priority and forces a rotation slot. -/
  | yield (h : Hdr) (f : RForm)
  /-- PAUSE (R369): Demotes the warp until a memory event or timeout. -/
  | pause (h : Hdr) (f : RForm)
  /-- NNSEND (R302): Sends one entry over a neighbour link. -/
  | nnsend (h : Hdr) (f : RForm)
  /-- NNRECV (R302): Removes the oldest entry of a neighbour receive queue. -/
  | nnrecv (h : Hdr) (f : RForm)
  /-- LRES (R162): Takes a loft reservation from a record. -/
  | lres (h : Hdr) (f : RForm)
  /-- LREL (R163): Releases a loft reservation after its matrix work completes. -/
  | lrel (h : Hdr) (f : RForm)
  /-- LLD (R165): Copies bytes from memory into a loft reservation. -/
  | lld (h : Hdr) (f : RForm)
  /-- LDT4 (R167): Warp-wide transposing load of A from scratch. -/
  | ldt4 (h : Hdr) (f : RForm)
  /-- MMA (R170): Unscaled matrix multiply-accumulate into a tile. -/
  | mma (h : Hdr) (f : RForm)
  /-- MMAQ (R170): Block-scaled matrix multiply-accumulate into a tile. -/
  | mmaq (h : Hdr) (f : RForm)
  /-- ACCZ (R174): Zeroes a run of accumulator tiles. -/
  | accz (h : Hdr) (f : RForm)
  /-- ACCRD (R175): Reads raw tile columns into registers. -/
  | accrd (h : Hdr) (f : RForm)
  /-- ACCWR (R175): Writes raw register values into tile columns. -/
  | accwr (h : Hdr) (f : RForm)
  /-- ACCOUT (R176): Converts tile columns to a narrow or block format in registers. -/
  | accout (h : Hdr) (f : RForm)
  /-- ACCIN (R177): Converts register values into tile columns, optionally adding. -/
  | accin (h : Hdr) (f : RForm)
  /-- LSTAT (R164): Samples loft, tile or latch state. -/
  | lstat (h : Hdr) (f : RForm)
  /-- LD (R265): Loads from memory, optionally waiting on a full-empty bit. -/
  | ld (h : Hdr) (f : MForm)
  /-- ST (R265): Stores to memory, optionally waiting on a full-empty bit. -/
  | st (h : Hdr) (f : MForm)
  /-- LDMC (R285): Asks for a line of a multicast group. -/
  | ldmc (h : Hdr) (f : MForm)
  /-- ATOM (R273): Atomic read-modify-write returning the old value. -/
  | atom (h : Hdr) (f : RForm)
  /-- RED (R273): Atomic read-modify-write without result. -/
  | red (h : Hdr) (f : RForm)
  /-- CAS (R273): Atomic compare and swap. -/
  | cas (h : Hdr) (f : RForm)
  /-- FENCE (R275): Release, acquire or both at a scope. -/
  | fence (h : Hdr) (f : RForm)
  /-- PRFM (R269): Prefetches a line into L2 or L1 and L2. -/
  | prfm (h : Hdr) (f : MForm)
  /-- CCTL (R270): Writes back or invalidates L1 lines. -/
  | cctl (h : Hdr) (f : RForm)
  /-- FESET (R276): Sets full-empty bits of a run of granules. -/
  | feset (h : Hdr) (f : RForm)
  /-- FEQRY (R276): Reads a mask of 32 full-empty bits. -/
  | feqry (h : Hdr) (f : RForm)
  /-- MCJOIN (R284): Joins or creates a multicast group generation. -/
  | mcjoin (h : Hdr) (f : RForm)
  /-- MCLEAVE (R287): Leaves a multicast group. -/
  | mcleave (h : Hdr) (f : RForm)
  /-- ACINIT (R279): Allocates an arrival counter. -/
  | acinit (h : Hdr) (f : RForm)
  /-- ARRIVE (R280): Adds arrivals to a counter and completes it at its target. -/
  | arrive (h : Hdr) (f : RForm)
  /-- ACFREE (R282): Frees an arrival counter. -/
  | acfree (h : Hdr) (f : RForm)
  /-- CPY (R291): Issues a copy engine job. -/
  | cpy (h : Hdr) (f : RForm)
  /-- XFORM (R294): Issues a tensor transform engine job. -/
  | xform (h : Hdr) (f : RForm)
  /-- TLD (R298): Loads tensor elements through a layout record. -/
  | tld (h : Hdr) (f : RForm)
  /-- TST (R298): Stores tensor elements through a layout record. -/
  | tst (h : Hdr) (f : RForm)
  /-- PKLD (R301): Loads and expands one packed tile. -/
  | pkld (h : Hdr) (f : RForm)
  /-- PKST (R300): Packs and appends one tile to a packed-tile store. -/
  | pkst (h : Hdr) (f : RForm)
  /-- GLAUNCH (R329): Submits a graph to the context's launch queue. -/
  | glaunch (h : Hdr) (f : RForm)
  /-- TDONE (R325): Retires a taken pass tile. -/
  | tdone (h : Hdr) (f : RForm)
  /-- RACQ (R359): Acquires an empty stage-ring slot. -/
  | racq (h : Hdr) (f : RForm)
  /-- RFILL (R359): Marks a stage-ring slot full. -/
  | rfill (h : Hdr) (f : RForm)
  /-- RTAKE (R359): Takes a full stage-ring slot. -/
  | rtake (h : Hdr) (f : RForm)
  /-- RFREE (R359): Frees a stage-ring slot and flips its phase. -/
  | rfree (h : Hdr) (f : RForm)
  /-- REORD (R229): Deposits the lane in the reorder unit and ends it. -/
  | reord (h : Hdr) (f : RForm)
  /-- RTNEXT (R351): Takes the next pass tile index for the workgroup. -/
  | rtnext (h : Hdr) (f : RForm)
  /-- CUTSEL (R189): Sends a cut-selection job to the engine. -/
  | cutsel (h : Hdr) (f : RForm)
  /-- SHDEC (R196): Decodes one item of a sheet. -/
  | shdec (h : Hdr) (f : RForm)
  /-- TEX (R223): Samples a texture at a level of detail. -/
  | tex (h : Hdr) (f : RForm)
  /-- TEXG (R223): Samples a texture with gradients and anisotropy. -/
  | texg (h : Hdr) (f : RForm)
  /-- TEXQ (R223): Queries a texture level's size and format. -/
  | texq (h : Hdr) (f : RForm)
  /-- TEXLD (R223): Loads one texel of a level. -/
  | texld (h : Hdr) (f : RForm)
  /-- IATTR (R210): Interpolates a triangle attribute quad at the lane's pixel. -/
  | iattr (h : Hdr) (f : RForm)
  /-- FOUT (R211): Writes a fragment's colour to raster tile memory. -/
  | fout (h : Hdr) (f : RForm)
  /-- RAYQ (R228): Sends a ray query to the ray engine. -/
  | rayq (h : Hdr) (f : RForm)
  /-- PRIMEMIT (R197): Hands one triangle per lane to the rasteriser set-up. -/
  | primemit (h : Hdr) (f : RForm)
  /-- RDSR (R407): Reads a special register, directly or by number. -/
  | rdsr (h : Hdr) (f : RForm)
  /-- WRSR (R408): Writes a writable special register. -/
  | wrsr (h : Hdr) (f : RForm)
  /-- TRAP (R420): Raises SWT with a code. -/
  | trap (h : Hdr) (f : RForm)
  /-- RFT (R422): Returns from the trap handler by advancing or retrying. -/
  | rft (h : Hdr) (f : RForm)
  /-- WRIR (R421): Writes a register of the interrupted code. -/
  | wrir (h : Hdr) (f : RForm)
  /-- RDIR (R421): Reads a register of the interrupted code. -/
  | rdir (h : Hdr) (f : RForm)
  /-- IDIV (R145): Emulated integer division; the device raises EMU and the handler computes the quotient. -/
  | idiv (w : IWord)
  /-- IREM (R145): Emulated integer remainder; the device raises EMU and the handler computes it. -/
  | irem (w : IWord)
  /-- UNASSIGNED_OPCODE (R63): A fetched word that is no instruction raises RESV, EMU or ENC. -/
  | unassignedOpcode (w : IWord)
  /-- ROTATION_SLOT (R365): Every 16th issue slot of a warp serves the lane set above the rotation mark. -/
  | rotationSlot (w : Nat)
  /-- WARP_AGED (R367): A ready warp unselected for 64 cc becomes aged and is preferred. -/
  | warpAged (w : Nat)
  /-- YIELD_PERIOD_END (R368): The 16 cc low-priority period after YIELD ends. -/
  | yieldPeriodEnd (w : Nat)
  /-- DEMOTION_END (R369): A PAUSE demotion ends on timeout, selection or a memory event. -/
  | demotionEnd (w : Nat)
  /-- LANE_EXIT (R41): A lane exits once its long-latency instructions have completed. -/
  | laneExit (w : Nat) (l : Nat)
  /-- LOAD_COMPLETION (R268): A long-latency access completes and writes its pending registers. -/
  | loadCompletion (op : Nat)
  /-- FULL_EMPTY_WAIT_END (R266): A lane waiting on a full-empty bit proceeds when the bit changes. -/
  | fullEmptyWaitEnd (op : Nat) (l : Nat)
  /-- LLD_COMPLETION (R165): An LLD completes when its last byte is in the loft. -/
  | lldCompletion (op : Nat)
  /-- MATRIX_SLICE_START (R146): A queued matrix instruction starts when its slice frees. -/
  | matrixSliceStart (cid : Nat) (q : Nat)
  /-- MMA_COMPLETION (R173): A matrix instruction writes its tile and completes. -/
  | mmaCompletion (cid : Nat) (q : Nat)
  /-- RING_WAIT_END (R359): A waiting RACQ or RTAKE proceeds when its slot changes. -/
  | ringWaitEnd (op : Nat)
  /-- TILE_INDEX_TAKE (R318): A workgroup takes a released pass tile index once its slots exist. -/
  | tileIndexTake (op : Nat)
  /-- ENGINE_JOB_ACCEPT (R289): The engine queue accepts a CPY or XFORM job. -/
  | engineJobAccept (op : Nat)
  /-- ENGINE_LINE_WRITE (R250): An engine job writes a destination line, releasing lanes waiting on it. -/
  | engineLineWrite (job : Nat)
  /-- ENGINE_JOB_COMPLETION (R290): An engine job ends and writes its status word as a release. -/
  | engineJobCompletion (job : Nat)
  /-- COLLECTIVE_REDUCTION (R296): The collective engine combines all members' XFORM.red jobs. -/
  | collectiveReduction (ctx : Nat) (gid : Nat)
  /-- CUTSEL_JOB_ACCEPT (R189): The cut-selection engine accepts a job. -/
  | cutselJobAccept (op : Nat)
  /-- CUTSEL_JOB_END (R190): A cut-selection job writes its list, hierarchy, requests and status. -/
  | cutselJobEnd (job : Nat)
  /-- RAY_QUERY_COMPLETION (R228): The ray engine writes a query's hit record. -/
  | rayQueryCompletion (op : Nat) (l : Nat)
  /-- MULTICAST_ASK (R286): An ask reaches its home slice and joins or creates a hold record. -/
  | multicastAsk (op : Nat) (l : Nat)
  /-- HOLD_TIMER_EXPIRY (R286): A hold record's timer expires and the line is read. -/
  | holdTimerExpiry (rec : Nat)
  /-- MULTICAST_HELD_PART_LAND (R286): A fill part held at the slice lands once its granule is emptied. -/
  | multicastHeldPartLand (rec : Nat)
  /-- MCJOIN_DRAIN_END (R284): A waiting MCJOIN creates a new generation once fills drain. -/
  | mcjoinDrainEnd (op : Nat)
  /-- NEIGHBOUR_ENTRY_ARRIVAL (R21): An entry arrives in a neighbour receive queue. -/
  | neighbourEntryArrival (cid : Nat) (dir : Nat)
  /-- REORDER_DRAIN (R230): The reorder unit drains its entries into relaunched warps. -/
  | reorderDrain (cid : Nat)
  /-- REORDER_TIMER_EXPIRY (R230): 4,096 cc since the last deposit trigger a drain. -/
  | reorderTimerExpiry (cid : Nat)
  /-- TRIANGLE_SETUP (R200): The set-up snaps, culls and bins a triangle. -/
  | triangleSetup (stack : Nat)
  /-- TILE_LIST_ENTRY (R203): A triangle entry reaches its rasteriser's tile-list ring. -/
  | tileListEntry (q : Nat)
  /-- RASTER_TILE_PROCESS (R204): A rasteriser processes a raster tile once geometry is complete. -/
  | rasterTileProcess (graph : Nat) (pass : Nat) (tile : Nat)
  /-- COLOUR_TILE_WRITEBACK (R450): A raster tile's colour is written back after its fragment warps exit. -/
  | colourTileWriteback (graph : Nat) (pass : Nat) (tile : Nat)
  /-- DISPLAY_DEADLINE (R330): At vertical blanking the engine chooses the resource to scan out. -/
  | displayDeadline (plane : Nat)
  /-- QUEUE_NOP (R328): A NOP queue entry is consumed. -/
  | queueNop (q : Nat)
  /-- QUEUE_SUBMIT (R328): A SUBMIT entry admits a graph and writes its status. -/
  | queueSubmit (q : Nat)
  /-- QUEUE_WAIT (R328): A WAIT entry is consumed once its token reaches the value. -/
  | queueWait (q : Nat)
  /-- QUEUE_SIGNAL (R328): A SIGNAL entry writes its token once earlier graphs complete. -/
  | queueSignal (q : Nat)
  /-- GRAPH_ADMISSION (R313): Admission checks a graph, reserves space and writes its status. -/
  | graphAdmission (adm : Nat)
  /-- LAUNCH_QUEUE_ACCEPT (R329): The launch queue accepts a waiting GLAUNCH. -/
  | launchQueueAccept (op : Nat)
  /-- QUEUE_DOORBELL (R326): A QTAIL write rings the doorbell and is checked for overrun. -/
  | queueDoorbell (q : Nat) (v : Word)
  /-- QUEUE_ENABLE (R326): Setting ENABLE starts a queue at QTAIL. -/
  | queueEnable (q : Nat) (v : Word)
  /-- QUEUE_DISABLE (R326): Clearing ENABLE ends consumption. -/
  | queueDisable (q : Nat) (v : Word)
  /-- CONTEXT_CREATE (R388): VALID 0 to 1 steps GEN and makes the context live. -/
  | contextCreate (c : Nat) (v : Word)
  /-- CONTEXT_END (R389): VALID 1 to 0 ends the context and discards its work. -/
  | contextEnd (c : Nat) (v : Word)
  /-- CONTEXT_TEARDOWN_COMPLETE (R389): Teardown completes and LIVE reads 0. -/
  | contextTeardownComplete (c : Nat)
  /-- INVALIDATION_START (R398): An IGO write starts a translation invalidation. -/
  | invalidationStart (serial : Word)
  /-- INVALIDATION_COMPLETE (R398): An invalidation completes and IDONE shows its serial. -/
  | invalidationComplete
  /-- PAGE_WALK (R393): A translation walk completes with a translation or a fault. -/
  | pageWalk (ctx : Nat) (va : Nat) (acc : AccKind)
  /-- FAULT_RECORD_WRITE (R399): A waiting fault record is written once the buffer has room. -/
  | faultRecordWrite
  /-- FAULT_BUFFER_TAIL (R399): An FBTAIL write consumes fault records. -/
  | faultBufferTail (v : Word)
  /-- REPLAY_RETRY (R400): A REPLAY with FAIL 0 walks parked accesses again. -/
  | replayRetry (v : BitVec 64)
  /-- REPLAY_FAIL (R400): A REPLAY with FAIL 1 raises PAGE or ends jobs. -/
  | replayFail (v : BitVec 64)
  /-- ERROR_BUFFER_TAIL (R430): An EBTAIL write consumes error reports. -/
  | errorBufferTail (v : Word)
  /-- CORRECTABLE_ERROR (R428): A corrected error is counted and may be reported. -/
  | correctableError (e : ErrSite)
  /-- UNCORRECTABLE_ERROR (R429): Uncorrectable data is marked poisoned and reported. -/
  | uncorrectableError (e : ErrSite)
  /-- TRAP_ENTRY (R416): Trapped lanes enter the handler after earlier work completes. -/
  | trapEntry (w : Nat)
  /-- WAIT_WATCHDOG_FIRE (R377): A counted wait exceeding %wdog raises WAITTO. -/
  | waitWatchdogFire (w : Nat)
  /-- PREEMPT_REQUEST (R439): A PRQ write requests pre-emption of a context slot. -/
  | preemptRequest (v : Word)
  /-- RESUME_REQUEST (R439): A PRQ write requests resumption of a context slot. -/
  | resumeRequest (v : Word)
  /-- PREEMPT_HALT (R384): A context's lanes halt at instruction boundaries. -/
  | preemptHalt (c : Nat)
  /-- MAILBOX_REPORT (R437): Mailbox request 1 writes an attestation report. -/
  | mailboxReport
  /-- MAILBOX_IDENTITY_KEY (R437): Mailbox request 2 writes the identity public key. -/
  | mailboxIdentityKey
  /-- MAILBOX_RETIREMENT_LIST (R437): Mailbox request 3 passes a retirement list. -/
  | mailboxRetirementList
  /-- MAILBOX_PROCEED (R437): Mailbox request 4 lets boot proceed from STAGE 2. -/
  | mailboxProceed (env : BootEnv)
  /-- POWER_ON (R436): Power-on starts the boot sequence. -/
  | powerOn (images : List (List Byte))
  /-- CONFIGURATION_TIMEOUT (R436): 2 s in STAGE 2 without request 4 lets boot proceed. -/
  | configurationTimeout (env : BootEnv)
  /-- FUNDAMENTAL_RESET (R433): A fundamental reset discards all state and reboots. -/
  | fundamentalReset
  /-- FUNCTION_LEVEL_RESET (R433): A function-level reset discards all state and reboots. -/
  | functionLevelReset
  /-- MODEBOOT_WRITE (R438): A MODEBOOT write sets boot modes in STAGE 2 only. -/
  | modebootWrite (v : Word)
  /-- MODERUN_WRITE (R438): A MODERUN write sets fabric coherence and power mode. -/
  | moderunWrite (v : Word)
  /-- LINK_DROP (R441): A Rueladom link drops at run time and reroutes. -/
  | linkDrop (port : Nat)
  /-- LINK_RETRAIN (R441): A dropped link retrains and in-flight flits are retried. -/
  | linkRetrain (port : Nat)
  /-- BANK_SENSOR_READ (R443): DRAM bank sensors are read and refresh tiers updated. -/
  | bankSensorRead (stack : Nat) (reads : List BankReading)
  /-- HOTSPOT_SENSOR_READ (R443): Compute-die hotspot sensors are read. -/
  | hotspotSensorRead (stack : Nat) (reads : List (Nat × Int))
  /-- POWER_LOSS (R446): Removal of power loses all device state. -/
  | powerLoss
  /-- BANK_REFRESH (R443): A bank's refresh interval expires and refresh begins. -/
  | bankRefresh (cid : Nat) (bank : Nat)
  /-- REFRESH_END (R443): A refresh ends after 128 cc and waiting accesses proceed. -/
  | refreshEnd (cid : Nat) (bank : Nat)
  /-- GOVERNOR_STEP (R444): Every 100 us the governor samples power and sets B. -/
  | governorStep (watts : Nat)
  /-- PROMOTION_EPOCH_END (R401): A promotion epoch of 2^20 sc ends and miss counts restart. -/
  | promotionEpochEnd (stack : Nat)
  /-- PAGE_PROMOTION (R401): A hot GDDR-7 frame starts being copied into the yard. -/
  | pagePromotion (stack : Nat) (frame : Nat)
  /-- PROMOTION_SWITCH (R401): A copied frame's home switches indivisibly to the yard. -/
  | promotionSwitch (stack : Nat) (frame : Nat)
  /-- PAGE_DEMOTION (R401): A promoted frame is demoted when rings need its space. -/
  | pageDemotion (stack : Nat) (frame : Nat)
  /-- BLOCK_WORLD_CHANGE (R391): An idle block changes world and is cleared. -/
  | blockWorldChange (b : BlockId) (secure : Bool)
  /-- HOST_BAR2_ACCESS (R434): A host access through BAR2 reaches GDDR-7 at system scope. -/
  | hostBar2Access (write : Bool) (addr : Nat) (n : Nat) (data : List Byte)
  /-- L1_EVICTION (R239): An evicted L1 line writes back its written bytes. -/
  | l1Eviction (cid : Nat) (line : Nat)
  /-- REGISTER_WRITE (R434): A write to a BAR0 register without behaviour of its own. -/
  | registerWrite (off : Nat) (v : BitVec 64) (wide : Bool)
  /-- FETCH_BEYOND_CODE_SEGMENT (R33): A lane set whose pc lies at or beyond the length of its code segment fetches nothing and raises PROT with that pc. -/
  | fetchBeyondCodeSegment
  deriving DecidableEq, Repr

end Sys2Proof
end

