-- ==== Sys2Proof/Machine/Float.lean ====
section
/-! DEFINITION. The number formats of R73 to R92, decoding, exact arithmetic and rounding (R78 to R89). -/

namespace Sys2Proof.Machine

/-- A binary floating format (R75, R76): width, fraction bits, bias, largest finite magnitude `maxM × 2^maxE`, whether it has
infinities, and its canonical NaN. -/
structure FFmt where
  w : Nat
  fb : Nat
  bias : Nat
  maxM : Nat
  maxE : Int
  hasInf : Bool
  nan : Option Nat
  deriving DecidableEq, Repr

/-- The formats of R75. A packed type gives its element's format; other types give .f32's. -/
def ffmt (t : Ty) : FFmt :=
  match t with
  | .f64 => ⟨64, 52, 1023, 2 ^ 53 - 1, 971, true, some 0x7FF8000000000000⟩
  | .f16 | .f16x2 => ⟨16, 10, 15, 2047, 5, true, some 0x7E00⟩
  | .bf16 | .bf16x2 => ⟨16, 7, 127, 255, 120, true, some 0x7FC0⟩
  | .e4m3 => ⟨8, 3, 7, 14, 5, false, some 0x7F⟩
  | .e5m2 => ⟨8, 2, 15, 7, 13, true, some 0x7E⟩
  | .e3m2 => ⟨6, 2, 3, 7, 2, false, none⟩
  | .e2m3 => ⟨6, 3, 1, 15, -1, false, none⟩
  | .e2m1 => ⟨4, 1, 1, 3, 1, false, none⟩
  | _ => ⟨32, 23, 127, 2 ^ 24 - 1, 104, true, some 0x7FC00000⟩

/-- The unit of the subnormals: the smallest subnormal is `2^eMin` (R75). -/
def FFmt.eMin (f : FFmt) : Int := 1 - (f.bias : Int) - (f.fb : Int)

/-- The bits of a magnitude `m × 2^u` of the format, sign excluded; `m` may be one past the top of its binade. -/
def FFmt.magBits (f : FFmt) (m : Nat) (u : Int) : Nat :=
  if m = 0 then 0
  else if u = f.eMin then m
  else (u - f.eMin).toNat * 2 ^ f.fb + m

/-- The bits of the largest finite magnitude. -/
def FFmt.maxBits (f : FFmt) : Nat := f.magBits f.maxM f.maxE

/-- The bits of infinity, sign excluded (R76). -/
def FFmt.infBits (f : FFmt) : Nat := 2 ^ (f.w - 1) - 2 ^ f.fb

/-- The sign bit's weight. -/
def FFmt.signBit (f : FFmt) (neg : Bool) : Nat := if neg then 2 ^ (f.w - 1) else 0

/-- A floating value: NaN (signalling or not), infinity, or `±m × 2^e`. -/
inductive Fv where
  | nan (sig : Bool)
  | inf (neg : Bool)
  | fin (neg : Bool) (m : Nat) (e : Int)
  deriving DecidableEq, Repr

/-- The value of an encoding (R75, R76). -/
def FFmt.decode (f : FFmt) (x : Nat) : Fv :=
  let neg := x.testBit (f.w - 1)
  let mag := x % 2 ^ (f.w - 1)
  let e := mag / 2 ^ f.fb
  let fr := mag % 2 ^ f.fb
  if f.hasInf && decide (f.infBits ≤ mag) then
    if fr = 0 then .inf neg else .nan (f.fb > 2 && !fr.testBit (f.fb - 1))
  else if !f.hasInf && f.nan.isSome && mag = 2 ^ (f.w - 1) - 1 then .nan false
  else if e = 0 then .fin neg fr f.eMin
  else .fin neg (2 ^ f.fb + fr) (f.eMin + (e : Int) - 1)

/-- Flush-to-zero of an input (R79): a subnormal becomes the zero of its sign. -/
def FFmt.flushIn (f : FFmt) (ftz : Bool) (v : Fv) : Fv :=
  match v with
  | .fin neg m e => if ftz && decide (m < 2 ^ f.fb) && e = f.eMin then .fin neg 0 0 else v
  | _ => v

/-- NEG and ABS on the bits of a floating operand (R51). -/
def FFmt.modBits (f : FFmt) (neg abs : Bool) (x : Nat) : Nat :=
  let x := x % 2 ^ f.w
  let a := if abs then x % 2 ^ (f.w - 1) else x
  if neg then (if a.testBit (f.w - 1) then a - 2 ^ (f.w - 1) else a + 2 ^ (f.w - 1)) else a

/-- Floor of the base-two logarithm of `num / den × 2^e`, for positive `num` and `den`. -/
def ratLog2 (num den : Nat) (e : Int) : Int :=
  let k := (num.log2 : Int) - (den.log2 : Int)
  let below : Bool := if 0 ≤ k then decide (num < den * 2 ^ k.toNat) else decide (num * 2 ^ (-k).toNat < den)
  (if below then k - 1 else k) + e

/-- `num / den × 2^e` split in units of `2^u`: the whole units, and the remainder as a fraction `rn / rd` of a unit. -/
def ratSplit (num den : Nat) (e u : Int) : Nat × Nat × Nat :=
  if u ≤ e then
    let n := num * 2 ^ (e - u).toNat
    (n / den, n % den, den)
  else
    let d := den * 2 ^ (u - e).toNat
    (num / d, num % d, d)

/-- The choice of R81 between `a` and `a + 1` units, for a remainder `rn / rd` of a unit. -/
def rndUp (rnd : Rnd) (g : Word) (neg : Bool) (a rn rd : Nat) : Bool :=
  if rn = 0 then false
  else match rnd with
    | .rne => decide (rd < 2 * rn) || (2 * rn = rd && a % 2 = 1)
    | .rna => decide (rd ≤ 2 * rn)
    | .rtz => false
    | .rdn => neg
    | .rup => !neg
    | .rsr => decide (g.toNat < 2 ^ 32 * rn / rd)
    | .dyn => decide (rd < 2 * rn) || (2 * rn = rd && a % 2 = 1)

/-- The result of a rounding: bits and flags. -/
structure FRes where
  bits : Nat
  fl : FpFlags
  deriving DecidableEq, Repr

/-- The overflow result of R82 and R89. -/
def FFmt.overflow (f : FFmt) (rnd : Rnd) (sat neg : Bool) : Nat :=
  if sat then f.signBit neg + f.maxBits
  else if f.hasInf then
    match rnd with
    | .rtz => f.signBit neg + f.maxBits
    | .rdn => if neg then f.signBit neg + f.infBits else f.maxBits
    | .rup => if neg then f.signBit neg + f.maxBits else f.infBits
    | _ => f.signBit neg + f.infBits
  else match f.nan with
    | some n => n
    | none => f.signBit neg + f.maxBits

/-- Round of R81 with R79, R80, R82, R84 and R89, of the positive magnitude `num / den × 2^e`. -/
def FFmt.roundMag (f : FFmt) (rnd : Rnd) (g : Word) (sat ftz neg : Bool) (num den : Nat) (e : Int) : FRes :=
  let k0 := ratLog2 num den e
  -- a magnitude far below the least subnormal rounds as any other such magnitude does
  let far : Bool := k0 < f.eMin - 40
  let num := if far then 1 else num
  let den := if far then 1 else den
  let e := if far then f.eMin - 40 else e
  let k := if far then f.eMin - 40 else k0
  let uFree := k - (f.fb : Int)
  let u := if uFree < f.eMin then f.eMin else uFree
  let (a, rn, rd) := ratSplit num den e u
  let m := if rndUp rnd g neg a rn rd then a + 1 else a
  let excess : Bool := decide (f.maxE < u) || (u = f.maxE && decide (f.maxM < m))
  if excess then ⟨f.overflow rnd sat neg, flRounding true true false false⟩
  else
    let (a', rn', rd') := ratSplit num den e uFree
    let m' := if rndUp rnd g neg a' rn' rd' then a' + 1 else a'
    let tiny : Bool := decide (uFree < f.eMin) && !(uFree = f.eMin - 1 && m' = 2 ^ (f.fb + 1))
    let sub : Bool := u = f.eMin && decide (0 < m ∧ m < 2 ^ f.fb)
    let flush : Bool := ftz && sub
    ⟨f.signBit neg + (if flush then 0 else f.magBits m u), flRounding false (rn ≠ 0) tiny flush⟩

/-- The canonical NaN of a destination, or +0 with invalid where it has none (R78, R89). -/
def FFmt.nanRes (f : FFmt) (sig : Bool) : FRes :=
  match f.nan with
  | some n => ⟨n, flIf sig flInvalid⟩
  | none => ⟨0, flInvalid⟩

/-- An infinity delivered to a destination (R82, R85, R89). Where SAT replaces the exact infinity by ±max the delivered result
differs from it, so inexact is raised (R80); the conversions of R89 raise invalid instead. -/
def FFmt.infRes (f : FFmt) (sat neg : Bool) : FRes :=
  if f.hasInf then
    if sat then ⟨f.signBit neg + f.maxBits, if f.w < 16 then flInvalid else flInexact⟩ else ⟨f.signBit neg + f.infBits, flNone⟩
  else if sat then ⟨f.signBit neg + f.maxBits, flInvalid⟩
  else match f.nan with
    | some n => ⟨n, flInvalid⟩
    | none => ⟨f.signBit neg + f.maxBits, flInvalid⟩

/-- A value delivered to a destination with one rounding (R78, R79, R81, R82, R85, R89). -/
def FFmt.deliver (f : FFmt) (rnd : Rnd) (g : Word) (sat ftz : Bool) (v : Fv) : FRes :=
  match v with
  | .nan sig => f.nanRes sig
  | .inf neg => f.infRes sat neg
  | .fin neg m e => if m = 0 then ⟨f.signBit neg, flNone⟩ else f.roundMag rnd g sat ftz neg m 1 e

/-- Whether delivering a value rounds a number, and so steps the generator under rsr (R81, R83; log entry 8). -/
def Fv.rounds (v : Fv) : Bool :=
  match v with
  | .fin _ _ _ => true
  | _ => false

/-- One step of a lane's generator (R83). -/
def rngStep (s : Word) : Word :=
  let s := s ^^^ (s <<< 13)
  let s := s ^^^ (s >>> 17)
  s ^^^ (s <<< 5)

/-- A value with the flags raised in forming it. -/
structure FvFl where
  v : Fv
  fl : FpFlags
  deriving DecidableEq, Repr

def Fv.isNan (v : Fv) : Bool := match v with | .nan _ => true | _ => false

def Fv.isSig (v : Fv) : Bool := match v with | .nan s => s | _ => false

def Fv.isInf (v : Fv) : Bool := match v with | .inf _ => true | _ => false

def Fv.isZero (v : Fv) : Bool := match v with | .fin _ m _ => m = 0 | _ => false

def Fv.neg (v : Fv) : Bool := match v with | .nan _ => false | .inf n => n | .fin n _ _ => n

/-- The exact sum of two finite values; an exact zero has the sign of R81, where `dn` says that the mode is rdn. -/
def addFin (dn n1 : Bool) (m1 : Nat) (e1 : Int) (n2 : Bool) (m2 : Nat) (e2 : Int) : Fv :=
  if m1 = 0 && m2 = 0 then .fin (if n1 = n2 then n1 else dn) 0 0
  else if m1 = 0 then .fin n2 m2 e2
  else if m2 = 0 then .fin n1 m1 e1
  else
    let e := min e1 e2
    let x1 : Int := (m1 : Int) * 2 ^ (e1 - e).toNat
    let x2 : Int := (m2 : Int) * 2 ^ (e2 - e).toNat
    let x := (if n1 then -x1 else x1) + (if n2 then -x2 else x2)
    if x = 0 then .fin dn 0 0 else .fin (decide (x < 0)) x.natAbs e

/-- The exact sum of two values (R78, R80, R81). NaN results are quiet; a signalling operand and ∞ − ∞ raise invalid. -/
def fvAdd (dn : Bool) (a b : Fv) : FvFl :=
  let sig := flIf (a.isSig || b.isSig) flInvalid
  match a, b with
  | .nan _, _ => ⟨.nan false, sig⟩
  | _, .nan _ => ⟨.nan false, sig⟩
  | .inf n1, .inf n2 => if n1 = n2 then ⟨.inf n1, sig⟩ else ⟨.nan false, flInvalid⟩
  | .inf n, _ => ⟨.inf n, sig⟩
  | _, .inf n => ⟨.inf n, sig⟩
  | .fin n1 m1 e1, .fin n2 m2 e2 => ⟨addFin dn n1 m1 e1 n2 m2 e2, sig⟩

/-- The exact product of two values (R80). -/
def fvMul (a b : Fv) : FvFl :=
  let sig := flIf (a.isSig || b.isSig) flInvalid
  let n := a.neg != b.neg
  match a, b with
  | .nan _, _ => ⟨.nan false, sig⟩
  | _, .nan _ => ⟨.nan false, sig⟩
  | .fin _ m1 e1, .fin _ m2 e2 => ⟨.fin n (m1 * m2) (e1 + e2), sig⟩
  | .inf _, .fin _ m _ => if m = 0 then ⟨.nan false, flInvalid⟩ else ⟨.inf n, sig⟩
  | .fin _ m _, .inf _ => if m = 0 then ⟨.nan false, flInvalid⟩ else ⟨.inf n, sig⟩
  | .inf _, .inf _ => ⟨.inf n, sig⟩

/-- The exact `a × b + c` (R100). -/
def fvFma (dn : Bool) (a b c : Fv) : FvFl :=
  let p := fvMul a b
  let r := fvAdd dn p.v c
  ⟨r.v, p.fl ||| r.fl⟩

/-- A quotient delivered with one rounding (R80, R122). -/
def FFmt.divide (f : FFmt) (rnd : Rnd) (g : Word) (sat ftz : Bool) (a b : Fv) : FRes :=
  let sig := flIf (a.isSig || b.isSig) flInvalid
  let n := a.neg != b.neg
  match a, b with
  | .nan _, _ => ⟨(f.nanRes false).bits, sig⟩
  | _, .nan _ => ⟨(f.nanRes false).bits, sig⟩
  | .inf _, .inf _ => f.nanRes true
  | .inf _, .fin _ _ _ => f.infRes sat n
  | .fin _ _ _, .inf _ => ⟨f.signBit n, flNone⟩
  | .fin _ m1 e1, .fin _ m2 e2 =>
    if m2 = 0 then
      if m1 = 0 then f.nanRes true else ⟨(f.infRes false n).bits, flDivZero⟩
    else if m1 = 0 then ⟨f.signBit n, flNone⟩
    else f.roundMag rnd g sat ftz n m1 m2 (e1 - e2)

/-- Whether a quotient is a number that is rounded. -/
def divRounds (a b : Fv) : Bool :=
  match a, b with
  | .fin _ _ _, .fin _ m2 _ => decide (m2 ≠ 0)
  | .fin _ _ _, .inf _ => true
  | _, _ => false

/-- The integer square root by trial of bits from `k` down. -/
def isqrtFrom (k n r : Nat) : Nat :=
  match k with
  | 0 => if (r + 1) * (r + 1) ≤ n then r + 1 else r
  | j + 1 =>
    let t := r + 2 ^ (j + 1)
    isqrtFrom j n (if t * t ≤ n then t else r)

/-- The integer square root. -/
def isqrt (n : Nat) : Nat := isqrtFrom (n.log2 / 2 + 1) n 0

/-- The square root of `m × 2^e`, `m` positive, as a magnitude `num / 2 × 2^e'` that lies strictly between the same neighbours of
any grid of up to 100 bits as the exact root does, and is exact when the root is. -/
def sqrtMag (m : Nat) (e : Int) : Nat × Int :=
  let odd : Bool := e % 2 ≠ 0
  let m := if odd then 2 * m else m
  let e := if odd then e - 1 else e
  let n := m * 2 ^ 240
  let r := isqrt n
  (if r * r = n then 2 * r else 2 * r + 1, e / 2 - 121)

/-- The square root delivered with one rounding (R122): √(−0) is −0, and a number below −0 raises invalid (R80). -/
def FFmt.sqrt (f : FFmt) (rnd : Rnd) (g : Word) (ftz : Bool) (a : Fv) : FRes :=
  match a with
  | .nan sig => f.nanRes sig
  | .inf neg => if neg then f.nanRes true else f.infRes false false
  | .fin neg m e =>
    if m = 0 then ⟨f.signBit neg, flNone⟩
    else if neg then f.nanRes true
    else
      let (r, e') := sqrtMag m e
      f.roundMag rnd g false ftz false r 1 e'

def sqrtRounds (a : Fv) : Bool :=
  match a with
  | .fin neg m _ => m = 0 || !neg
  | _ => false

/-- A magnitude rounded to an integer (R86, R126): the integer, and whether the rounding changed the value. -/
def roundInt (rnd : Rnd) (g : Word) (neg : Bool) (m : Nat) (e : Int) : Nat × Bool :=
  if m = 0 then (0, false)
  else if 0 ≤ e then (m * 2 ^ e.toNat, false)
  else
    -- a value below 2^-40 rounds as 2^-40 does
    let far : Bool := (m.log2 : Int) + e < -40
    let (a, rn, rd) := ratSplit (if far then 1 else m) 1 (if far then -40 else e) 0
    (if rndUp rnd g neg a rn rd then a + 1 else a, rn ≠ 0)

/-- FRND (R126): the value rounded to an integral one, and whether it changed. -/
def fvIntegral (rnd : Rnd) (g : Word) (v : Fv) : Fv × Bool :=
  match v with
  | .fin neg m e => if 0 ≤ e then (v, false) else
      let (n, ch) := roundInt rnd g neg m e
      (.fin neg n 0, ch)
  | _ => (v, false)

/-- Conversion to an integer type (R86): result bits and flags. A value of 2^70 or more is beyond every range. -/
def toIntTy (lo hi : Int) (rnd : Rnd) (g : Word) (v : Fv) : Int × FpFlags :=
  match v with
  | .nan _ => (0, flInvalid)
  | .inf neg => (if neg then lo else hi, flInvalid)
  | .fin neg m e =>
    if m ≠ 0 && decide (70 < (m.log2 : Int) + e) then (if neg then lo else hi, flInvalid)
    else
      let (n, ch) := roundInt rnd g neg m e
      let x : Int := if neg then -(n : Int) else n
      if x < lo then (lo, flInvalid) else if hi < x then (hi, flInvalid) else (x, flIf ch flInexact)

/-- Conversion to .e8m0 (R88): code and flags. DEDUCED (log entry 94): an x that is itself 2^k stays 2^k under rup too, as R81 has it. -/
def toE8m0 (rnd : Rnd) (g : Word) (v : Fv) : Nat × FpFlags :=
  match v with
  | .nan _ => (0xFF, flInvalid)
  | .inf neg => if neg then (0xFF, flInvalid) else (0xFE, flInvalid)
  | .fin neg m e =>
    if neg || m = 0 then (0xFF, flInvalid)
    else
      let k := ratLog2 m 1 e
      -- x / 2^k - 1 as a fraction of 2^k
      let d := 2 ^ m.log2
      let rn := m - d
      let up : Bool := match rnd with
        | .rtz | .rdn => false
        | .rup => decide (0 < rn)
        | .rsr => decide (0 < rn) && decide (g.toNat < 2 ^ 32 * rn / d)
        | _ => decide (d ≤ 2 * rn)
      let k' := if up then k + 1 else k
      if k' < -127 then (0, flUnderflow ||| flInexact)
      else if 127 < k' then (0xFE, flOverflow ||| flInexact)
      else ((k' + 127).toNat, flIf (rn ≠ 0) flInexact)

/-- The value of an .e8m0 code (R90). -/
def fromE8m0 (c : Nat) : Fv := if c % 256 = 255 then .nan false else .fin false 1 ((c % 256 : Nat) - 127 : Int)

/-- The value of a floating or .e8m0 encoding of a type. -/
def fvOf (t : Ty) (x : Nat) : Fv := if t = .e8m0 then fromE8m0 x else (ffmt t).decode (x % 2 ^ (ffmt t).w)

/-- A conversion to a floating or .e8m0 type (R85, R88, R89). -/
def convTo (t : Ty) (rnd : Rnd) (g : Word) (sat ftz : Bool) (v : Fv) : FRes :=
  if t = .e8m0 then let (c, fl) := toE8m0 rnd g v; ⟨c, fl⟩ else (ffmt t).deliver rnd g sat ftz v

/-- The order of two numbers that are not NaN: `a < b`, with −0 below +0 when `signed0` holds. -/
def fvLt (signed0 : Bool) (a b : Fv) : Bool :=
  match a, b with
  | .nan _, _ => false
  | _, .nan _ => false
  | .inf n, .inf n' => n && !n'
  | .inf n, .fin _ _ _ => n
  | .fin _ _ _, .inf n => !n
  | .fin n1 m1 e1, .fin n2 m2 e2 =>
    match addFin false n1 m1 e1 (!n2) m2 e2 with
    | .fin neg m _ => if m = 0 then signed0 && m1 = 0 && n1 && !n2 else neg
    | _ => false

/-- Equality of numbers that are not NaN; +0 and −0 are equal (R124). -/
def fvEq (a b : Fv) : Bool := !a.isNan && !b.isNan && !fvLt false a b && !fvLt false b a

end Sys2Proof.Machine
end

