-- ==== Sys2Proof/Machine/Exact.lean ====
section
/-! DEFINITION. Exact rational arithmetic, and its one rounding (R80, R81). -/

namespace Sys2Proof.Machine

/-- A rational number `num / den`, not reduced; a denominator is never 0 in a value that these operations make of such values. -/
structure Q where
  num : Int
  den : Nat
  deriving DecidableEq, Repr

/-- An integer as a rational. -/
def qInt (n : Int) : Q := ⟨n, 1⟩

def qAdd (a b : Q) : Q := if a.num = 0 then b else if b.num = 0 then a else ⟨a.num * b.den + b.num * a.den, a.den * b.den⟩

def qNeg (a : Q) : Q := ⟨-a.num, a.den⟩

def qSub (a b : Q) : Q := qAdd a (qNeg b)

def qMul (a b : Q) : Q := ⟨a.num * b.num, a.den * b.den⟩

/-- A quotient; 0 where the divisor is 0. -/
def qDiv (a b : Q) : Q :=
  if b.num = 0 then ⟨0, 1⟩ else ⟨if b.num < 0 then -(a.num * b.den) else a.num * b.den, a.den * b.num.natAbs⟩

def qLt (a b : Q) : Bool := decide (a.num * b.den < b.num * a.den)

def qLe (a b : Q) : Bool := decide (a.num * b.den ≤ b.num * a.den)

def qEq (a b : Q) : Bool := decide (a.num * b.den = b.num * a.den)

def qMin (a b : Q) : Q := if qLe a b then a else b

def qMax (a b : Q) : Q := if qLe a b then b else a

def qSum (xs : List Q) : Q := xs.foldl qAdd (qInt 0)

/-- The greatest integer not above. -/
def qFloor (a : Q) : Int := a.num / (a.den : Int)

/-- The nearest integer, ties to even. -/
def qRound (a : Q) : Int :=
  let n := qFloor a
  let r := a.num - n * a.den
  if (a.den : Int) < 2 * r || ((a.den : Int) = 2 * r && n % 2 ≠ 0) then n + 1 else n

/-- A number `±m × 2^e` as a rational. -/
def qFin (neg : Bool) (m : Nat) (e : Int) : Q :=
  let x : Int := if neg then -(m : Int) else m
  if 0 ≤ e then ⟨x * 2 ^ e.toNat, 1⟩ else ⟨x, 2 ^ (-e).toNat⟩

/-- A finite floating value as a rational; none for a NaN or an infinity. -/
def qOf (v : Fv) : Option Q := match v with | .fin neg m e => some (qFin neg m e) | _ => none

/-- An .f32 encoding as a rational. -/
def qF32 (x : Word) : Option Q := qOf ((ffmt .f32).decode x.toNat)

/-- A rational rounded once to a format, ties to even (R81). -/
def qTo (t : Ty) (a : Q) : Nat :=
  if a.num = 0 then 0 else ((ffmt t).roundMag .rne 0 false false (decide (a.num < 0)) a.num.natAbs a.den 0).bits

end Sys2Proof.Machine
end

