-- ==== Sys2Proof/Machine/Legal.lean ====
section
/-! DEFINITION. Which encodings are instructions (R35, R38, R42, R50, R53 to R56, R63, R107): for each form the classes its operand
fields accept, the types and modifiers it honours, and the registers it names. An encoding outside these raises ENC. -/

namespace Sys2Proof.Machine

/-- The operand classes of R53. -/
inductive Kind where
  | v | s | sr | imm | p | bt | lc | cv | lk | pc | zr | acc
  deriving DecidableEq, Repr

/-- The class of an operand. -/
def opndKind (o : Opnd) : Kind :=
  match o with
  | .v _ => .v | .s _ => .s | .sr _ => .sr | .imm _ => .imm | .p _ => .p | .bt _ => .bt | .lc _ => .lc | .cv _ => .cv
  | .lk => .lk | .pc => .pc | .zr => .zr | .acc _ => .acc

/-- The type that a TYPE code names (R58). -/
def tyOfCode (c : Nat) : Option Ty :=
  match c with
  | 0 => some .b32 | 1 => some .i8 | 2 => some .n8 | 3 => some .i16 | 4 => some .n16 | 5 => some .i32 | 6 => some .n32
  | 7 => some .i64 | 8 => some .n64 | 9 => some .f16 | 10 => some .bf16 | 11 => some .f32 | 12 => some .f64
  | 13 => some .e4m3 | 14 => some .e5m2 | 15 => some .e3m2 | 16 => some .e2m3 | 17 => some .e2m1 | 18 => some .e8m0
  | 19 => some .yk9 | 20 => some .yk6 | 21 => some .yk4 | 22 => some .mxi8 | 23 => some .f16x2 | 24 => some .bf16x2
  | 25 => some .i8x4 | 26 => some .n8x4 | _ => none

/-- The TYPE code of a type (R58). -/
def tyCode (t : Ty) : Nat :=
  match t with
  | .b32 => 0 | .i8 => 1 | .n8 => 2 | .i16 => 3 | .n16 => 4 | .i32 => 5 | .n32 => 6 | .i64 => 7 | .n64 => 8 | .f16 => 9
  | .bf16 => 10 | .f32 => 11 | .f64 => 12 | .e4m3 => 13 | .e5m2 => 14 | .e3m2 => 15 | .e2m3 => 16 | .e2m1 => 17 | .e8m0 => 18
  | .yk9 => 19 | .yk6 => 20 | .yk4 => 21 | .mxi8 => 22 | .f16x2 => 23 | .bf16x2 => 24 | .i8x4 => 25 | .n8x4 => 26

/-- The registers an operand of a type takes: two for a 64-bit type (R56). -/
def tyRegs (t : Ty) : Nat :=
  match t with
  | .i64 | .n64 | .f64 => 2
  | _ => 1

/-- A number with its factors of two taken out, by up to `fuel` halvings. -/
def oddPart (fuel n : Nat) : Nat :=
  match fuel with
  | 0 => n
  | k + 1 => if n % 2 = 0 then oddPart k (n / 2) else n

/-- Whether a short immediate's value is exactly representable in the operand type (R54). -/
def immOk (t : Ty) (k : BitVec 9) : Bool :=
  let x := k.toInt
  let m := x.natAbs
  match t with
  | .i8 | .i8x4 => decide (-128 ≤ x ∧ x ≤ 127)
  | .n8 | .n8x4 => decide (0 ≤ x ∧ x ≤ 255)
  | .n16 | .n32 | .n64 => decide (0 ≤ x)
  | .e4m3 => m = 0 || decide (oddPart 9 m < 16)
  | .e5m2 => m = 0 || decide (oddPart 9 m < 8)
  | .e3m2 => decide (m ≤ 28) && (m = 0 || decide (oddPart 9 m < 8))
  | .e2m3 => decide (m ≤ 7)
  | .e2m1 => decide (m ≤ 6) && (m = 0 || decide (oddPart 9 m < 4))
  | .e8m0 => decide (0 < x) && oddPart 9 m = 1
  | .b32 | .i16 | .i32 | .i64 | .f16 | .bf16 | .f32 | .f64 | .f16x2 | .bf16x2 | .yk9 | .yk6 | .yk4 | .mxi8 => true

/-- Whether a special-register number is assigned (R62). -/
def srAssigned (n : Nat) : Bool :=
  decide (n ≤ 5) || decide (8 ≤ n ∧ n ≤ 0xE) || decide (0x10 ≤ n ∧ n ≤ 0x14) || decide (0x20 ≤ n ∧ n ≤ 0x22)
    || decide (0x30 ≤ n ∧ n ≤ 0x32) || decide (0x40 ≤ n ∧ n ≤ 0x42) || decide (0x50 ≤ n ∧ n ≤ 0x52)
    || decide (0x60 ≤ n ∧ n ≤ 0x6F)

/-- What a form accepts in one operand field: classes, registers taken, and the type a short immediate is converted to. -/
structure Fld where
  ks : List Kind
  n : Nat
  ty : Ty
  deriving DecidableEq, Repr

/-- An operand fits a field (R53, R54, R56). -/
def fldOk (q : Fld) (o : Opnd) : Bool :=
  q.ks.contains (opndKind o) &&
  match o with
  | .v n => n.toNat % q.n = 0
  | .s n => n.toNat % q.n = 0
  | .sr n => srAssigned n.toNat
  | .imm k => immOk q.ty k
  | _ => true

/-- An operand field not used: 0xF00 (R50). -/
def fNone : Fld := ⟨[.zr], 1, .b32⟩

/-- A destination of the default classes (R106) taking n registers. -/
def fDst (n : Nat) : Fld := ⟨[.v, .s, .zr], n, .b32⟩

/-- A source of the default classes (R106), of a type. -/
def fSrc (t : Ty) : Fld := ⟨[.v, .s, .sr, .imm, .zr], tyRegs t, t⟩

/-- A predicate or the zero register. -/
def fPred : Fld := ⟨[.p, .zr], 1, .b32⟩

/-- A field of named classes, one register, raw bits. -/
def fOf (ks : List Kind) : Fld := ⟨ks, 1, .b32⟩

/-- A field of named classes taking n registers. -/
def fOfN (ks : List Kind) (n : Nat) : Fld := ⟨ks, n, .b32⟩

/-- The modifiers a form honours (R107). -/
structure Mods where
  r : Bool := false
  s : Bool := false
  z : Bool := false
  na : Bool := false
  nb : Bool := false
  nc : Bool := false
  a : Bool := false
  deriving DecidableEq, Repr

/-- What a format-R form accepts. -/
structure RSpec where
  dst : Fld
  sa : Fld
  sb : Fld
  sc : Fld
  tys : List Ty
  mods : Mods
  sub : Bool
  deriving DecidableEq, Repr

/-- An operand that an instruction reads or writes: how many registers it takes, and whether it is only written. -/
structure Use where
  o : Opnd
  n : Nat
  wr : Bool
  deriving DecidableEq, Repr

/-- Whether a word is an instruction, and the registers it names. -/
structure Check where
  ok : Bool
  uses : List Use
  deriving DecidableEq, Repr

/-- The header's rules (R35, R37, R38, R41, R42). -/
def hdrOk (long : Bool) (h : Hdr) (dst : Opnd) : Bool :=
  (h.g || (!h.n && h.p = 0)) &&
  (match h.nxt with | .seq | .ret | .exit => decide (h.t = 0) | _ => true) &&
  (long || h.la = 0) &&
  (match h.nxt with | .exit => decide (h.la = 0) | _ => true) &&
  (match h.nxt, dst with
   | .call, .lk => false
   | .loop, .lc n => decide (n.toNat ≠ h.t.toNat % 4)
   | _, _ => true)

/-- The registers the header reads and writes: the guard, and what NXT consumes (R36, R37). -/
def hdrUses (h : Hdr) : List Use :=
  (if h.g then [⟨.p h.p, 1, false⟩] else []) ++
  (match h.nxt with
   | .jmp => [⟨.bt h.t, 1, false⟩]
   | .call => [⟨.bt h.t, 1, false⟩, ⟨.lk, 1, true⟩]
   | .ret => [⟨.lk, 1, false⟩]
   | .loop => [⟨.bt h.t, 1, false⟩, ⟨.lc (BitVec.ofNat 2 h.t.toNat), 1, false⟩]
   | _ => [])

/-- The modifiers set are honoured (R107), and FTZ does not meet .f64. -/
def modsOk (m : Mods) (f : RForm) : Bool :=
  (m.r || f.rnd = .rne) && (m.s || !f.sat) && ((m.z && f.ty ≠ .f64) || !f.ftz) && (m.na || !f.nega) && (m.nb || !f.negb)
    && (m.nc || !f.negc) && (m.a || !f.absa)

/-- A format-R instruction against its form. -/
def chkR (long : Bool) (h : Hdr) (f : RForm) (q : RSpec) : Check :=
  { ok := hdrOk long h f.dst && q.tys.contains f.ty && modsOk q.mods f && q.sub
      && fldOk q.dst f.dst && fldOk q.sa f.sa && fldOk q.sb f.sb && fldOk q.sc f.sc,
    uses := hdrUses h ++ [⟨f.dst, q.dst.n, true⟩, ⟨f.sa, q.sa.n, false⟩, ⟨f.sb, q.sb.n, false⟩, ⟨f.sc, q.sc.n, false⟩] }

/-- A format-I instruction against its form: fields, types, whether RND and SAT are honoured, and its SUB test. -/
def chkI (h : Hdr) (f : IForm) (dst sa : Fld) (tys : List Ty) (r s sub : Bool) : Check :=
  { ok := hdrOk false h f.dst && tys.contains f.ty && (r || f.rnd = .rne) && (s || !f.sat) && sub
      && fldOk dst f.dst && fldOk sa f.sa,
    uses := hdrUses h ++ [⟨f.dst, dst.n, true⟩, ⟨f.sa, sa.n, false⟩] }

/-- The list INT of R107. -/
def tysInt : List Ty := [.b32, .i8, .n8, .i16, .n16, .i32, .n32, .i64, .n64]

/-- The list FL of R107. -/
def tysFl : List Ty := [.f32, .f64, .f16, .bf16]

/-- INT with the packed integer types. -/
def tysIntPk : List Ty := tysInt ++ [.i8x4, .n8x4]

/-- A SUB field below a limit. -/
def subLt (f : RForm) (n : Nat) : Bool := decide (f.sub.toNat < n)

/-- Bits [hi:lo] of SUB. -/
def subBits (f : RForm) (hi lo : Nat) : Nat := f.sub.toNat / 2 ^ lo % 2 ^ (hi - lo + 1)

/-- NOP (R110), YIELD and PAUSE (R143), BRK (R420): no operands. -/
def qNone (f : RForm) : RSpec := ⟨fNone, fNone, fNone, fNone, [.b32], {}, f.sub = 0⟩

/-- MOV (R110). -/
def qMov (f : RForm) : RSpec :=
  if f.ty = .n64 then ⟨fDst 2, ⟨[.v, .s, .imm, .zr], 2, .n64⟩, fNone, fNone, [.n64], {}, f.sub = 0⟩
  else ⟨fOf [.v, .s, .zr, .lc, .lk], fOf [.v, .s, .sr, .imm, .zr, .bt, .lc, .lk, .pc], fNone, fNone, [.b32], {}, f.sub = 0⟩

/-- SEL (R110). -/
def qSel (f : RForm) : RSpec := ⟨fDst (tyRegs f.ty), fSrc f.ty, fSrc f.ty, fPred, [.b32, .n64], {}, subLt f 2⟩

/-- One, two or three sources of TYPE and a destination of TYPE. -/
def qA (f : RForm) (tys : List Ty) (m : Mods) (sub : Bool) : RSpec := ⟨fDst (tyRegs f.ty), fSrc f.ty, fNone, fNone, tys, m, sub⟩

def qAB (f : RForm) (tys : List Ty) (m : Mods) (sub : Bool) : RSpec := ⟨fDst (tyRegs f.ty), fSrc f.ty, fSrc f.ty, fNone, tys, m, sub⟩

def qABC (f : RForm) (tys : List Ty) (m : Mods) (sub : Bool) : RSpec := ⟨fDst (tyRegs f.ty), fSrc f.ty, fSrc f.ty, fSrc f.ty, tys, m, sub⟩

/-- The 64-bit type of the signedness of a 32-bit one (MADW, R111). -/
def tyWide (t : Ty) : Ty := if t = .i32 then .i64 else .n64

def qMadw (f : RForm) : RSpec :=
  ⟨fDst 2, fSrc f.ty, fSrc f.ty, fSrc (tyWide f.ty), [.i32, .n32], { s := true, nc := true }, f.sub = 0⟩

/-- The shifts (R113): the count is .n32, in a pair when the type is 64-bit. -/
def qShift (f : RForm) (tys : List Ty) : RSpec :=
  ⟨fDst (tyRegs f.ty), fSrc f.ty, ⟨[.v, .s, .sr, .imm, .zr], tyRegs f.ty, .n32⟩, fNone, tys, {}, subLt f 2⟩

/-- A shift (R113): of a 64-bit count only the low register of the pair is read. -/
def chkShift (h : Hdr) (f : RForm) (tys : List Ty) : Check :=
  let q := qShift f tys
  { chkR false h f q with uses := hdrUses h ++ [⟨f.dst, q.dst.n, true⟩, ⟨f.sa, q.sa.n, false⟩, ⟨f.sb, 1, false⟩, ⟨f.sc, q.sc.n, false⟩] }

def qFsh (f : RForm) : RSpec := ⟨fDst 1, fSrc .b32, fSrc .b32, fSrc .n32, [.b32], {}, subLt f 4⟩

def qBfx (f : RForm) : RSpec := ⟨fDst (tyRegs f.ty), fSrc f.ty, fSrc .b32, fNone, [.i32, .n32, .i64, .n64], {}, f.sub = 0⟩

def qBfi (f : RForm) : RSpec := ⟨fDst (tyRegs f.ty), fSrc f.ty, fSrc f.ty, fSrc .b32, [.b32, .n64], {}, f.sub = 0⟩

/-- POPC, CLZ, CTZ (R114): a 32-bit result. -/
def qCount (f : RForm) : RSpec := ⟨fDst 1, fSrc f.ty, fNone, fNone, [.b32, .n64], {}, f.sub = 0⟩

def qLea (f : RForm) : RSpec := ⟨fDst (tyRegs f.ty), fSrc f.ty, fSrc .b32, fNone, [.n32, .n64, .i64], {}, subLt f 8⟩

/-- The predicate combined into a comparison (R117). -/
def cmpSc (f : RForm) : Fld := if subBits f 5 4 = 0 then fNone else fOf [.p]

def qCmp (f : RForm) : RSpec :=
  ⟨fPred, fSrc f.ty, fSrc f.ty, cmpSc f, tysInt, {},
    subBits f 7 6 = 0 && decide (subBits f 3 0 < 6) && (decide (subBits f 3 0 < 2) || f.ty ≠ .b32)⟩

def qFcmp (f : RForm) : RSpec :=
  ⟨fPred, fSrc f.ty, fSrc f.ty, cmpSc f, tysFl, { z := true, na := true, nb := true, a := true },
    subBits f 7 6 = 0 && decide (subBits f 3 0 < 8)⟩

def qPlop (_ : RForm) : RSpec := ⟨fPred, fPred, fPred, fPred, [.b32], {}, true⟩

def qP2v (f : RForm) : RSpec := ⟨fDst 1, fNone, fNone, fNone, [.b32], {}, f.sub = 0⟩

def qV2p (f : RForm) : RSpec := ⟨fNone, fSrc .b32, fSrc .b32, fNone, [.b32], {}, f.sub = 0⟩

/-- The source type that SUB[4:0] names in a conversion, when it is among those listed (R119, R127). -/
def subTy (f : RForm) : Option Ty := tyOfCode (subBits f 4 0)

/-- A conversion: destination TYPE among `dt`, source SUB[4:0] among `st` (R119, R127). -/
def qConv (f : RForm) (dt st : List Ty) (m : Mods) : RSpec :=
  match subTy f with
  | none => ⟨fNone, fNone, fNone, fNone, [], {}, false⟩
  | some t => ⟨fDst (tyRegs f.ty), fSrc t, fNone, fNone, dt, m, subBits f 7 5 = 0 && st.contains t⟩

/-- Types that flush-to-zero acts on (R79). -/
def tyFlushes (t : Ty) : Bool := [Ty.f32, .f16, .bf16, .f16x2, .bf16x2].contains t

/-- The conversions' own FTZ rule (R107): ENC only when neither side is .f32, .f16 or .bf16. -/
def chkConv (h : Hdr) (f : RForm) (q : RSpec) : Check :=
  let c := chkR false h { f with ftz := false } q
  { c with ok := c.ok && (!f.ftz || tyFlushes f.ty || (match subTy f with | some t => tyFlushes t | none => false)) }

def tysNarrow : List Ty := [.e4m3, .e5m2, .e3m2, .e2m3, .e2m1]

def qDp4 (f : RForm) : RSpec :=
  ⟨fDst 1, fSrc f.ty, fSrc (if f.sub = 1 then .i8x4 else .n8x4), fSrc .i32, [.i8x4, .n8x4], { s := true }, subLt f 2⟩

def qMovbt (f : RForm) : RSpec :=
  ⟨fOf [.bt], ⟨[.v, .s, .lk, .pc, .zr, .imm], 1, .n32⟩, fNone, fNone, [.b32], {}, f.sub = 0⟩

def mRZA : Mods := { r := true, z := true, a := true }

def qFscale (f : RForm) : RSpec :=
  ⟨fDst (tyRegs f.ty), fSrc f.ty, fSrc .i32, fNone, tysFl, { r := true, s := true, z := true, na := true, a := true }, f.sub = 0⟩

/-- FCLASS (R125): a 32-bit mask. -/
def qFclass (f : RForm) : RSpec := ⟨fDst 1, fSrc f.ty, fNone, fNone, tysFl, {}, f.sub = 0⟩

/-- The special functions (R128). -/
def qSfu (f : RForm) : RSpec := qA f [.f32] { z := true, na := true, a := true } (f.sub = 0)

def qFdot2 (f : RForm) : RSpec :=
  ⟨fDst 1, fSrc f.ty, fSrc f.ty, fSrc .f32, [.f16x2, .bf16x2],
    { r := true, s := true, z := true, na := true, nb := true, nc := true, a := true }, f.sub = 0⟩

/-- PACK (R131). -/
def qPack (f : RForm) : RSpec :=
  let wide : Bool := f.ty = .f16x2 || f.ty = .bf16x2
  let raw : Bool := subBits f 3 3 = 1
  let lim := if wide then 1 else if f.ty = .e2m1 then 4 else 2
  let conv : Mods := { r := !raw, s := !raw, z := !raw }
  ⟨fDst 1, fSrc .f32, fSrc .f32, if wide then fNone else fSrc .b32, [.f16x2, .bf16x2] ++ tysNarrow, conv,
    subBits f 7 4 = 0 && decide (subBits f 2 0 < lim) && !(wide && raw)⟩

/-- The width of an element field of PACK and UNPK (R131, R132). -/
def elemBits (t : Ty) : Nat :=
  match t with
  | .f16x2 | .bf16x2 | .f16 | .bf16 | .i16 | .n16 => 16
  | .e4m3 | .e5m2 | .e8m0 | .i8 | .n8 | .i8x4 | .n8x4 | .mxi8 | .yk9 => 8
  | .e3m2 | .e2m3 => 6
  | .yk6 => 5
  | .e2m1 => 4
  | .yk4 => 3
  | .b32 | .i32 | .n32 | .f32 => 32
  | .i64 | .n64 | .f64 => 64

def qUnpk (f : RForm) : RSpec :=
  ⟨fDst 1, fSrc .b32, fNone, fNone, [.f16x2, .bf16x2, .e8m0] ++ tysNarrow, {},
    subBits f 7 3 = 0 && decide (subBits f 2 0 < 32 / elemBits f.ty)⟩

def tysBlock : List Ty := tysNarrow ++ [.mxi8, .yk9, .yk6, .yk4]

/-- QNT and DQNT (R133, R134). -/
def qQnt (f : RForm) (src : Ty) : RSpec :=
  ⟨fDst 1, fSrc src, fNone, fNone, tysBlock, { r := true, z := true }, subBits f 7 3 = 0⟩

/-- SPX and SPEXP (R135, R136). -/
def qSpx (f : RForm) : RSpec :=
  let wide : Bool := f.ty = .f16 || f.ty = .bf16
  ⟨fDst (if wide then 2 else 1), fSrc .b32, if wide then fSrc .b32 else fNone, fNone,
    [.e4m3, .e5m2, .i8, .n8, .f16, .bf16], {}, subLt f 2⟩

def qCvset (f : RForm) : RSpec :=
  ⟨fOf [.cv], if subBits f 1 0 = 3 then fNone else fSrc .b32, fNone, fNone, [.b32], {}, subLt f 4⟩

def qCvget (f : RForm) : RSpec := ⟨fDst 1, fOf [.cv], fNone, fNone, [.b32], {}, f.sub = 0⟩

def qShfl (f : RForm) : RSpec :=
  ⟨fDst (tyRegs f.ty), fSrc f.ty, fSrc .n32, fPred, [.b32, .n64], {}, subBits f 7 5 = 0⟩

def qVote (f : RForm) : RSpec := ⟨fOf [.p, .v, .s, .zr], fPred, fNone, fNone, [.b32], {}, subBits f 7 6 = 0⟩

def qBallot (f : RForm) : RSpec :=
  ⟨fDst 1, fPred, fNone, fNone, [.b32], {}, subBits f 4 3 = 0 && decide (subBits f 7 7 = 0)⟩

def qMatch (f : RForm) : RSpec :=
  ⟨fDst 1, fSrc f.ty, fNone, fNone, [.b32, .n64], {}, subBits f 5 3 = 0 && decide (subBits f 7 7 = 0)⟩

/-- REDUX and PREFIX (R141); `pre` says PREFIX. -/
def qRedux (f : RForm) (pre : Bool) : RSpec :=
  qA f [.i32, .n32, .b32, .i64, .n64] { s := subBits f 5 3 = 0 }
    (subBits f 7 7 = 0 && (pre || subBits f 6 6 = 0) && decide (subBits f 5 3 < 6) &&
      !(f.ty = .b32 && (subBits f 5 3 = 1 || subBits f 5 3 = 2)))

def qFredux (f : RForm) : RSpec := qA f tysFl { z := true } (subBits f 7 6 = 0 && decide (subBits f 5 3 < 3))

def qActmask (f : RForm) : RSpec := ⟨fDst 1, fNone, fNone, fNone, [.b32], {}, f.sub = 0⟩

end Sys2Proof.Machine
end

