-- ==== Sys2Proof/Machine/LegalSys.lean ====
section
/-! DEFINITION. The forms of the system instructions (R406, R420, R421, R422). -/

namespace Sys2Proof.Machine

/-- RDSR (R406). -/
def qRdsr (f : RForm) : RSpec :=
  ⟨fDst (tyRegs f.ty), if f.sub = 0 then fOf [.sr] else ⟨[.v, .s, .imm], 1, .n32⟩, fNone, fNone, [.b32, .n64], {}, subLt f 2⟩

/-- The special registers of 64 bits (R62). -/
def srWide (n : Nat) : Bool := n = 0x40 || n = 0x50

/-- WRSR (R406): .b32 for a 32-bit target, .n64 for a 64-bit one. -/
def qWrsr (f : RForm) : RSpec :=
  let t : Ty := match f.sb with | .sr n => if srWide n.toNat then .n64 else .b32 | _ => .b32
  ⟨fNone, ⟨[.v, .s, .imm, .zr], tyRegs f.ty, f.ty⟩, fOf [.sr], fNone, [t], {}, f.sub = 0⟩

/-- TRAP (R420). -/
def qTrap (f : RForm) : RSpec := ⟨fNone, fOf [.v, .s, .imm, .zr], fNone, fNone, [.b32], {}, f.sub = 0⟩

/-- RFT (R422): NXT and LA are 0. -/
def chkRft (h : Hdr) (f : RForm) : Check :=
  let c := chkR false h f ⟨fNone, fNone, fNone, fNone, [.b32], {}, subLt f 2⟩
  { c with ok := c.ok && h.nxt = .seq && h.t = 0 }

/-- RDIR (R421). -/
def qRdir (f : RForm) : RSpec :=
  ⟨fOfN [.v, .s] (tyRegs f.ty), if f.sub = 1 then fNone else fOf [.v, .s], fNone, fNone, [.b32, .n64], {}, subLt f 2⟩

/-- WRIR (R421). -/
def qWrir (f : RForm) : RSpec :=
  ⟨fNone, ⟨[.v, .s, .imm, .zr], tyRegs f.ty, f.ty⟩, if f.sub = 1 then fNone else fOf [.v, .s], fNone, [.b32, .n64], {}, subLt f 2⟩

end Sys2Proof.Machine
end

