-- ==== Sys2Proof/Machine/LegalMem.lean ====
section
/-! DEFINITION. The forms of the memory instructions (R263 to R276). -/

namespace Sys2Proof.Machine

/-- The bytes of an access width (R49). -/
def widthBytes (w : Width) : Nat :=
  match w with
  | .n8 | .i8 => 1 | .n16 | .i16 => 2 | .b32 => 4 | .b64 => 8 | .b128 => 16

/-- The registers that data of a width takes (R265). -/
def widthRegs (w : Width) : Nat :=
  match w with
  | .b64 => 2 | .b128 => 4 | _ => 1

/-- The type to which a short immediate of a width is converted (R265). -/
def widthTy (w : Width) : Ty :=
  match w with
  | .n8 => .n8 | .i8 => .i8 | .n16 => .n16 | .i16 => .i16 | _ => .b32

/-- Whether a space takes 64-bit addresses (R263). -/
def spaceWide (x : Space) : Bool := x = .generic || x = .global || x = .window

/-- A format-M instruction: its DST field, whether it writes it, and the test of its MODM field (R263). -/
def chkM (h : Hdr) (f : MForm) (dst : Fld) (wr : Bool) (mod : Bool) : Check :=
  let base := fOfN [.v, .s, .zr] (if spaceWide f.space then 2 else 1)
  let idx : Fld := ⟨[.v, .s, .imm, .zr], 1, .i32⟩
  { ok := hdrOk true h f.dst && mod && (f.ord ≠ .plain || f.scope = .thread) && fldOk dst f.dst && fldOk base f.base && fldOk idx f.index,
    uses := hdrUses h ++ [⟨f.dst, dst.n, wr⟩, ⟨f.base, base.n, false⟩, ⟨f.index, 1, false⟩] }

/-- LD (R265, R266). -/
def chkLd (h : Hdr) (f : MForm) : Check :=
  chkM h f (fDst (widthRegs f.width)) true (f.fe ≠ .set && (f.ord = .plain || f.ord = .acq))

/-- ST (R265, R266); a store to constant space is none (R263). -/
def chkSt (h : Hdr) (f : MForm) : Check :=
  let small : Bool := widthRegs f.width = 1
  chkM h f ⟨[.v, .s, .zr] ++ (if small then [.imm] else []), widthRegs f.width, widthTy f.width⟩ false
    ((f.fe = .ignore || f.fe = .set) && (f.ord = .plain || f.ord = .rel) && f.space ≠ .constant)

/-- PRFM (R269). -/
def chkPrfm (h : Hdr) (f : MForm) : Check :=
  chkM h f fNone false (f.width = .n8 && f.fe = .ignore && f.ord = .plain && f.scope = .thread && !f.scl)

/-- The types of an atomic operation (R272). -/
def atomTys (op : Nat) : List Ty :=
  match op with
  | 0 | 1 | 2 => [.i32, .n32, .i64, .n64, .f32, .f64, .f16x2, .bf16x2]
  | 3 | 4 | 5 | 6 => [.b32, .n64]
  | _ => []

/-- A pair that holds a generic address. -/
def fAddr : Fld := fOfN [.v, .s] 2

/-- ATOM (R271, R272). -/
def qAtom (f : RForm) : RSpec :=
  ⟨fDst (tyRegs f.ty), fAddr, fSrc f.ty, fNone, atomTys (subBits f 2 0), {}, true⟩

/-- RED (R271, R272): ORD plain or release. -/
def qRed (f : RForm) : RSpec :=
  ⟨fNone, fAddr, fSrc f.ty, fNone, atomTys (subBits f 2 0), {}, subBits f 4 3 = 0 || subBits f 4 3 = 2⟩

/-- CAS (R271, R272). -/
def qCas (f : RForm) : RSpec :=
  ⟨fDst (tyRegs f.ty), fAddr, fSrc f.ty, fSrc f.ty, [.b32, .n64], {}, subBits f 2 0 = 0⟩

/-- FENCE (R271): LA is 0. -/
def qFence (f : RForm) : RSpec := ⟨fNone, fNone, fNone, fNone, [.b32], {}, subBits f 1 0 ≠ 0 && subBits f 7 5 = 0⟩

/-- CCTL (R270). -/
def qCctl (f : RForm) : RSpec :=
  ⟨fNone, if f.sub.toNat < 2 then fAddr else fNone, ⟨[.v, .s, .imm, .zr], 1, .n32⟩, fNone, [.b32], {}, subLt f 4⟩

/-- FESET (R276). -/
def qFeset (f : RForm) : RSpec := ⟨fNone, fSrc .b32, fSrc .n32, fNone, [.b32], {}, subLt f 2⟩

/-- FEQRY (R276). -/
def qFeqry (f : RForm) : RSpec := ⟨fOf [.v, .s], fSrc .b32, fNone, fNone, [.b32], {}, f.sub = 0⟩

end Sys2Proof.Machine
end

