-- ==== Sys2Proof/Machine/LegalEng.lean ====
section
/-! DEFINITION. The forms of links, counters, groups, engines and tensor access (R278 to R302), and of graph launch and tile retire
(R325, R329). -/

namespace Sys2Proof.Machine

/-- NNSEND (R302). -/
def qNnsend (f : RForm) : RSpec := ⟨fNone, fOf [.v, .s, .imm, .zr], fNone, fNone, [.b32], {}, subLt f 4⟩

/-- NNRECV (R302). -/
def qNnrecv (f : RForm) : RSpec := ⟨fOf [.v], fNone, fNone, fNone, [.b32], {}, subLt f 4⟩

/-- ACINIT (R278). -/
def qAcinit (f : RForm) : RSpec := ⟨fOf [.v, .s], fSrc .n32, fAddr, fNone, [.b32], {}, subLt f 4⟩

/-- ARRIVE (R278). -/
def qArrive (f : RForm) : RSpec := ⟨fDst 1, fSrc .b32, fNone, fNone, [.b32], {}, subBits f 4 0 = 0⟩

/-- ACFREE (R278). -/
def qAcfree (f : RForm) : RSpec := ⟨fNone, fSrc .b32, fNone, fNone, [.b32], {}, f.sub = 0⟩

/-- MCJOIN (R284). -/
def qMcjoin (f : RForm) : RSpec := ⟨fDst 1, fSrc .b32, fSrc .b32, fSrc .b32, [.b32], {}, f.sub = 0⟩

/-- MCLEAVE (R287). -/
def qMcleave (f : RForm) : RSpec := ⟨fNone, ⟨[.v, .s, .imm, .zr], 1, .n32⟩, fNone, fNone, [.b32], {}, f.sub = 0⟩

/-- LDMC (R285). -/
def chkLdmc (h : Hdr) (f : MForm) : Check :=
  chkM h f (fOf [.v, .s, .imm]) false
    ((f.space = .generic || f.space = .global) && f.width = .n8 && f.cache = .dflt && f.fe = .ignore && f.ord = .plain && f.scope = .thread)

/-- The completion scope of an engine instruction is core or wider (R289). -/
def engScopeOk (f : RForm) : Bool := decide (2 ≤ subBits f 7 5)

/-- CPY (R291): with .cdc SB is a quad, and the register after it is read too. -/
def chkCpy (h : Hdr) (f : RForm) : Check :=
  let cdc := f.sub.getLsbD 0
  let c := chkR true h f ⟨fOf [.s], fOfN [.s] 2, fOfN [.s] (if cdc then 4 else 2), ⟨[.s, .imm], 1, .n32⟩, [.b32], {},
    subBits f 4 1 = 0 && engScopeOk f⟩
  { c with uses := c.uses ++ (if cdc then [⟨f.sb, 5, false⟩] else []) }

/-- XFORM (R294): .cdec takes zr for SB, .pkst zr for SA; SC names twelve registers. -/
def chkXform (h : Hdr) (f : RForm) : Check :=
  let op := subBits f 3 0
  let c := chkR true h f ⟨fOf [.s], if op = 8 then fNone else fOfN [.s] 2, if op = 7 then fNone else fOfN [.s] 2, fOfN [.s] 4, [.b32], {},
    decide (op ≤ 9) && subBits f 4 4 = 0 && engScopeOk f⟩
  { c with uses := c.uses ++ [⟨f.sc, 12, false⟩] }

/-- Elements per lane of TLD and TST (R298). -/
def tldN (f : RForm) : Nat := 2 ^ subBits f 1 0

/-- TLD (R298). -/
def qTld (f : RForm) : RSpec := ⟨fOfN [.v] (tldN f), fOfN [.s] 2, fOfN [.v] 4, fNone, [.b32], {}, subLt f 3⟩

/-- TST (R298). -/
def qTst (f : RForm) : RSpec := ⟨fNone, fOfN [.s] 2, fOfN [.v] 4, fOfN [.v] (tldN f), [.b32], {}, subLt f 3⟩

/-- PKLD (R301). -/
def qPkld (f : RForm) : RSpec := ⟨fOf [.v], fSrc .b32, fSrc .b32, fNone, [.b32], {}, f.sub = 0⟩

/-- PKST (R300). -/
def qPkst (f : RForm) : RSpec := ⟨fDst 1, fSrc .b32, fSrc .b32, fOf [.v], [.b32], {}, f.sub = 0⟩

/-- GLAUNCH (R329). -/
def qGlaunch (f : RForm) : RSpec := ⟨fOf [.s], fOfN [.s] 2, fNone, fNone, [.b32], {}, f.sub = 0⟩

/-- TDONE (R325). -/
def qTdone (f : RForm) : RSpec := ⟨fNone, if f.sub = 1 then fNone else ⟨[.v, .s, .imm], 1, .n32⟩, fNone, fNone, [.b32], {}, subLt f 2⟩

end Sys2Proof.Machine
end

