-- ==== Sys2Proof/Machine/LegalMx.lean ====
section
/-! DEFINITION. The forms of the matrix engine's instructions (R153 to R155, R159, R160, R165, R168, R169, R175 to R177). -/

namespace Sys2Proof.Machine

/-- A source of the instructions that are not warp-wide (R159). -/
def fScal (t : Ty) : Fld := ⟨[.s, .imm, .zr], tyRegs t, t⟩

/-- The types of A of MMA and MMAQ (R153). -/
def tysA : List Ty := [.f16, .bf16, .e4m3, .e5m2, .e3m2, .e2m3, .e2m1, .i8, .n8, .mxi8, .yk9, .yk6, .yk4]

/-- Dense K positions of one step (R147). -/
def mxKs (t : Ty) : Nat :=
  match t with
  | .f16 | .bf16 => 32
  | .e2m1 | .yk4 => 128
  | _ => 64

/-- The K-block length (R97). -/
def mxL (t : Ty) : Nat :=
  match t with
  | .f16 | .bf16 | .yk9 | .yk6 | .yk4 => 16
  | _ => 32

/-- Registers of A (R153, R154). -/
def mxNa (t : Ty) : Nat := mxKs t * elemBits t / 32

/-- K-blocks of one step. -/
def mxNb (t : Ty) : Nat := mxKs t / mxL t

/-- Registers of A's scales (R155). -/
def mxNs (t : Ty) : Nat :=
  match t with
  | .yk9 | .yk6 => 2
  | .yk4 => 4
  | _ => 1

/-- LRES (R160). -/
def qLres (f : RForm) : RSpec := ⟨fOf [.v, .s], fScal .b32, fNone, fNone, [.b32], {}, f.sub = 0⟩

/-- LREL (R160). -/
def qLrel (f : RForm) : RSpec := ⟨fNone, fScal .n32, fNone, fNone, [.b32], {}, f.sub = 0⟩

/-- LLD (R159, R160, R165). R160 names a scalar pair for SA and a scalar for the control word; R159 gives SA, SB and SC the short
immediates and the zero register besides. -/
def qLld (f : RForm) : RSpec :=
  ⟨fNone, ⟨[.s, .imm, .zr], 2, .n64⟩, fScal .n32, fScal .b32, [.b32], {}, subBits f 4 0 = 0 && subBits f 7 7 = 0 && subBits f 6 5 ≠ 3⟩

/-- LDT4 (R160, R167, R168). -/
def qLdt4 (f : RForm) : RSpec :=
  ⟨fOfN [.v] 4, fSrc .n32, fSrc .n32, fNone, [.b32], {}, subBits f 7 7 = 0 && subBits f 6 5 ≠ 3⟩

/-- MMA and MMAQ (R153 to R155, R169); the tile is judged apart, because instructions chain on it (R152). DESIGN CHOICE (log entry
74): a TYPE that no row of R153 lists for either opcode is an invalid form and raises ENC (R63), while a listed one that the
reservation or the opcode does not combine with raises LOFT 0x07. -/
def chkMma (q : Bool) (h : Hdr) (f : RForm) : Check :=
  let reuse := f.sub.getLsbD 4
  let keep := f.sub.getLsbD 3
  let va : Fld := if reuse then fNone else fOfN [.v, .zr] 4
  let vs : Fld := if !q || reuse then fNone else fOfN [.v, .zr] (mxNs f.ty)
  let c := chkR true h f ⟨fOf [.acc], va, fSrc .n32, vs, tysA, {}, subBits f 7 5 = 0 && !(keep && reuse)⟩
  { c with uses := hdrUses h ++ [⟨f.sb, 1, false⟩] ++ (if reuse then [] else [⟨f.sa, mxNa f.ty, false⟩])
                     ++ (if !q || reuse then [] else [⟨f.sc, mxNs f.ty, false⟩]) }

/-- ACCZ (R160); its tiles are judged apart (R174). -/
def chkAccz (h : Hdr) (f : RForm) : Check :=
  let c := chkR true h f ⟨fOf [.acc], fScal .b32, fNone, fNone, [.b32], {}, f.sub = 0⟩
  { c with uses := hdrUses h ++ [⟨f.sa, 1, false⟩] }

/-- Columns that ACCRD and ACCWR move (R175). -/
def accN (f : RForm) : Nat := 4 * 2 ^ subBits f 4 3

/-- ACCRD (R175). -/
def chkAccrd (h : Hdr) (f : RForm) : Check :=
  let c := chkR true h f ⟨fOfN [.v] 4, fOf [.acc], fSrc .b32, fNone, [.b32], {}, subBits f 7 5 = 0 && subBits f 4 3 ≠ 3⟩
  { c with uses := c.uses ++ [⟨f.dst, accN f, true⟩] }

/-- ACCWR (R175). -/
def chkAccwr (h : Hdr) (f : RForm) : Check :=
  let c := chkR true h f ⟨fOf [.acc], fOfN [.v] 4, fSrc .b32, fNone, [.b32], {}, subBits f 7 5 = 0 && subBits f 4 3 ≠ 3⟩
  { c with uses := c.uses ++ [⟨f.sa, accN f, false⟩] }

/-- The types of ACCOUT and ACCIN (R176). -/
def tysAcc : List Ty := [.f16, .bf16, .e4m3, .e5m2, .e3m2, .e2m3, .e2m1, .mxi8, .yk9, .yk6, .yk4, .i8, .n8]

/-- Columns and registers of ACCOUT and ACCIN (R176). -/
def accCols (t : Ty) : Nat := if t = .f16 || t = .bf16 then 16 else 32

def accRegs (t : Ty) : Nat := accCols t * elemBits t / 32

/-- Whether a type is a YK format (R92), for the forms. -/
def isYkB (t : Ty) : Bool := t = .yk9 || t = .yk6 || t = .yk4

/-- Whether a form has scales (R176): .mx, MXINT8 and YK. -/
def accScaled (f : RForm) : Bool := f.sub.getLsbD 3 || f.ty = .mxi8 || isYkB f.ty

/-- What SUB and the scale register must be in ACCOUT and ACCIN (R176). -/
def accSubOk (f : RForm) : Bool :=
  (!f.sub.getLsbD 3 || tysNarrow.contains f.ty) && (subBits f 5 4 = 0 || f.sub.getLsbD 3 || f.ty = .mxi8)

def accVs (f : RForm) : Fld := if accScaled f then fOf [.v, .zr] else fNone

/-- ACCOUT (R176). The column is a number, .n32, since the type that TYPE names is the elements' (DEDUCED, log entry 17): a negative
short immediate raises ENC. -/
def chkAccout (h : Hdr) (f : RForm) : Check :=
  let int : Bool := f.ty = .i8 || f.ty = .n8
  let c := chkR true h f ⟨fOfN [.v] 4, fOf [.acc], fSrc .n32, accVs f, tysAcc, { r := !int, s := !accScaled f },
    subBits f 7 6 = 0 && accSubOk f⟩
  { c with uses := hdrUses h ++ [⟨f.dst, accRegs f.ty, true⟩, ⟨f.sa, 1, false⟩, ⟨f.sb, 1, false⟩, ⟨f.sc, 1, isYkB f.ty⟩, ⟨f.sc, 1, true⟩] }

/-- ACCIN (R177). The column is .n32, as in ACCOUT (DEDUCED, log entry 17). -/
def chkAccin (h : Hdr) (f : RForm) : Check :=
  let c := chkR true h f ⟨fOf [.acc], fOfN [.v] 4, fSrc .n32, accVs f, tysAcc, {}, subBits f 7 7 = 0 && accSubOk f⟩
  { c with uses := hdrUses h ++ [⟨f.dst, 1, true⟩, ⟨f.sa, accRegs f.ty, false⟩, ⟨f.sb, 1, false⟩, ⟨f.sc, 1, false⟩] }

/-- LSTAT (R160). -/
def qLstat (f : RForm) : RSpec := ⟨fOf [.v, .s], fScal .b32, fNone, fNone, [.b32], {}, f.sub = 0⟩

end Sys2Proof.Machine
end

