-- ==== Sys2Proof/Machine/LegalGraph.lean ====
section
/-! DEFINITION. The forms of the graph, ring, reorder, atlas, raster, texture and ray instructions (R189, R195, R197, R210, R211, R223,
R228, R229, R350, R359). -/

namespace Sys2Proof.Machine

/-- RACQ and RTAKE (R359). -/
def qRacq (f : RForm) : RSpec := ⟨fDst 1, ⟨[.v, .s, .imm], 1, .n32⟩, fNone, fNone, [.b32], {}, f.sub = 0⟩

/-- RFILL and RFREE (R359). -/
def qRfill (f : RForm) : RSpec := ⟨fNone, ⟨[.v, .s, .imm], 1, .n32⟩, fOf [.v, .s], fNone, [.b32], {}, f.sub = 0⟩

/-- RTNEXT (R350). -/
def qRtnext (f : RForm) : RSpec := ⟨fDst 1, fNone, fNone, fNone, [.b32], {}, f.sub = 0⟩

/-- The payload registers of REORD (R229). -/
def reordN (f : RForm) : Nat := subBits f 3 0

/-- REORD (R229): NXT and LA are 0; the payload block stays within v255. -/
def chkReord (h : Hdr) (f : RForm) : Check :=
  let n := reordN f
  let room : Bool := match f.sb with | .v k => decide (k.toNat + n ≤ 256) | _ => true
  let c := chkR false h f ⟨fNone, ⟨[.v, .s, .imm], 1, .b32⟩, if n = 0 then fNone else fOf [.v], fOf [.bt], [.b32], {}, subLt f 9 && room⟩
  { ok := c.ok && h.nxt = .seq && h.t = 0, uses := hdrUses h ++ [⟨f.sa, 1, false⟩, ⟨f.sb, n, false⟩, ⟨f.sc, 1, false⟩] }

/-- CUTSEL (R189). -/
def qCutsel (f : RForm) : RSpec := ⟨fOf [.s], fOfN [.s] 2, fOfN [.s] 2, fOfN [.s, .zr] 2, [.b32], {}, f.sub = 0⟩

/-- SHDEC (R195). -/
def qShdec (f : RForm) : RSpec :=
  ⟨fOfN [.v] (if f.sub = 2 then 1 else 4), fOfN [.v, .s] 2, ⟨[.v, .s, .imm], 1, .n32⟩, fNone, [.b32], {}, subLt f 4⟩

/-- TEX (R223). -/
def qTex (f : RForm) : RSpec :=
  ⟨fOfN [.v] 4, fOfN [.s] 2, fOfN [.v] 2, ⟨[.v, .s, .imm, .zr], 1, .f32⟩, [.b32], {}, f.sub = 0⟩

/-- TEXG (R223). -/
def qTexg (f : RForm) : RSpec := ⟨fOfN [.v] 4, fOfN [.s] 2, fOfN [.v] 2, fOfN [.v] 4, [.b32], {}, f.sub = 0⟩

/-- TEXLD (R223). -/
def qTexld (f : RForm) : RSpec :=
  ⟨fOfN [.v] 4, fOfN [.s] 2, fOfN [.v] 2, ⟨[.v, .s, .imm, .zr], 1, .n32⟩, [.b32], {}, f.sub = 0⟩

/-- TEXQ (R223). -/
def qTexq (f : RForm) : RSpec := ⟨fOfN [.v] 4, fOfN [.s] 2, ⟨[.v, .s, .imm], 1, .n32⟩, fNone, [.b32], {}, f.sub = 0⟩

/-- IATTR (R210). -/
def qIattr (f : RForm) : RSpec := ⟨fOfN [.v] 4, fNone, fNone, fNone, [.b32], {}, subLt f 8⟩

/-- FOUT (R211). -/
def qFout (f : RForm) : RSpec :=
  let replace : Bool := subBits f 2 1 = 0
  ⟨fNone, fOfN [.v, .zr] 4, if replace then fOfN [.v, .zr] 4 else fNone, fNone, [.b32], {},
    subLt f 8 && !(replace && f.sub.getLsbD 0)⟩

/-- RAYQ (R228). -/
def qRayq (f : RForm) : RSpec := ⟨fOfN [.v] 4, fOfN [.s] 2, fOfN [.v] 4, fOfN [.v] 4, [.b32], {}, subLt f 2⟩

/-- The attribute quads of a vertex in PRIMEMIT (R197). -/
def primNa (f : RForm) : Nat := subBits f 2 0

/-- PRIMEMIT (R197): a block of twelve position registers, and one of 12 × na attribute registers. -/
def chkPrimemit (h : Hdr) (f : RForm) : Check :=
  let na := primNa f
  let c := chkR true h f
    ⟨fNone, fOfN [.v] 4, ⟨[.v, .s, .imm], 1, .n32⟩, if na = 0 then fNone else fOfN [.v] 4, [.b32], {}, subLt f 5⟩
  { c with uses := hdrUses h ++ [⟨f.sa, 12, false⟩, ⟨f.sb, 1, false⟩] ++ (if na = 0 then [] else [⟨f.sc, 12 * na, false⟩]) }

end Sys2Proof.Machine
end

