-- ==== Sys2Proof/Machine/Forms.lean ====
section
/-! DEFINITION. The form of every machine instruction: `checkOf` says whether it is an instruction and which registers it names
(R63, R106, R107 and each description). -/

namespace Sys2Proof.Machine

/-- The form of an instruction. The machine's other steps, and the words of the emulation space, name no registers. -/
def checkOf (i : Instr) : Check :=
  match i with
  | .nop h f => chkR false h f (qNone f)
  | .mov h f => chkR false h f (qMov f)
  | .movi h f => chkI h f (if f.ty = .b32 then fOf [.v, .s, .lc, .lk] else fOfN [.v, .s] 2) fNone [.b32, .i64, .n64] false false (f.sub = 0)
  | .sel h f => chkR false h f (qSel f)
  | .add h f => chkR false h f (qAB f tysIntPk { s := true, na := true, nb := true } (f.sub = 0))
  | .addi h f => chkI h f (fDst (tyRegs f.ty)) (fSrc f.ty) [.i32, .n32, .i64, .n64] false true (f.sub = 0)
  | .subOp h f => chkR false h f (qAB f tysIntPk { s := true, na := true, nb := true } (f.sub = 0))
  | .mul h f => chkR false h f (qAB f tysInt { s := true } (f.sub = 0))
  | .muli h f => chkI h f (fDst (tyRegs f.ty)) (fSrc f.ty) [.i32, .n32, .i64, .n64] false true (f.sub = 0)
  | .mulhi h f => chkR false h f (qAB f [.i32, .n32, .i64, .n64] {} (f.sub = 0))
  | .mad h f => chkR false h f (qABC f [.i32, .n32, .i64, .n64] { s := true, nc := true } (f.sub = 0))
  | .madw h f => chkR false h f (qMadw f)
  | .absOp h f => chkR false h f (qA f [.i8, .i16, .i32, .i64, .i8x4] { s := true } (f.sub = 0))
  | .minOp h f => chkR false h f (qAB f tysIntPk {} (f.sub = 0))
  | .maxOp h f => chkR false h f (qAB f tysIntPk {} (f.sub = 0))
  | .andOp h f => chkR false h f (qAB f [.b32, .n64] {} (subLt f 2))
  | .andi h f => chkI h f (fDst 1) (fSrc .b32) [.b32] false false (f.sub = 0)
  | .orOp h f => chkR false h f (qAB f [.b32, .n64] {} (subLt f 2))
  | .ori h f => chkI h f (fDst 1) (fSrc .b32) [.b32] false false (f.sub = 0)
  | .xorOp h f => chkR false h f (qAB f [.b32, .n64] {} (subLt f 2))
  | .xori h f => chkI h f (fDst 1) (fSrc .b32) [.b32] false false (f.sub = 0)
  | .tern h f => chkR false h f (qABC f [.b32, .n64] {} true)
  | .shl h f => chkShift h f [.b32, .n32, .n64]
  | .shr h f => chkShift h f [.b32, .n32, .n64]
  | .sar h f => chkShift h f [.i32, .i64]
  | .rot h f => chkShift h f [.b32, .n64]
  | .fsh h f => chkR false h f (qFsh f)
  | .bfx h f => chkR false h f (qBfx f)
  | .bfi h f => chkR false h f (qBfi f)
  | .popc h f => chkR false h f (qCount f)
  | .clz h f => chkR false h f (qCount f)
  | .ctz h f => chkR false h f (qCount f)
  | .brev h f => chkR false h f (qA f [.b32, .n64] {} (f.sub = 0))
  | .bsel h f => chkR false h f (qABC f [.b32] {} (f.sub = 0))
  | .lea h f => chkR false h f (qLea f)
  | .cmp h f => chkR false h f (qCmp f)
  | .cmpi h f => chkI h f fPred (fSrc f.ty) tysInt false false (decide (f.sub.toNat < 6) && (decide (f.sub.toNat < 2) || f.ty ≠ .b32))
  | .plop h f => chkR false h f (qPlop f)
  | .p2v h f => chkR false h f (qP2v f)
  | .v2p h f => chkR false h f (qV2p f)
  | .cvti h f => chkR false h f (qConv f tysInt tysInt { s := true })
  | .dp4 h f => chkR false h f (qDp4 f)
  | .tgt h f => chkI h f (fOf [.bt]) fNone [.b32] false false (f.sub = 0)
  | .movbt h f => chkR false h f (qMovbt f)
  | .setlc h f => chkI h f (fOf [.lc]) fNone [.b32] false false (f.sub = 0)
  | .brk h f => chkR false h f (qNone f)
  | .fadd h f => chkR false h f (qAB f tysFl { r := true, s := true, z := true, na := true, nb := true, a := true } (f.sub = 0))
  | .faddi h f => chkI h f (fDst 1) (fSrc .f32) [.f32] true true (f.sub = 0)
  | .fmul h f => chkR false h f (qAB f tysFl { r := true, s := true, z := true, na := true, nb := true, a := true } (f.sub = 0))
  | .fmuli h f => chkI h f (fDst 1) (fSrc .f32) [.f32] true true (f.sub = 0)
  | .fma h f => chkR false h f (qABC f tysFl { r := true, s := true, z := true, na := true, nb := true, nc := true, a := true } (f.sub = 0))
  | .fmin h f => chkR false h f (qAB f tysFl { z := true, na := true, nb := true, a := true } (subLt f 2))
  | .fmax h f => chkR false h f (qAB f tysFl { z := true, na := true, nb := true, a := true } (subLt f 2))
  | .fcmp h f => chkR false h f (qFcmp f)
  | .fclass h f => chkR false h f (qFclass f)
  | .frnd h f => chkR false h f (qA f tysFl { r := true, z := true, na := true, a := true } (subLt f 2))
  | .fcvt h f => chkConv h f (qConv f (tysFl ++ tysNarrow ++ [.e8m0]) (tysFl ++ tysNarrow ++ [.e8m0]) { r := true, s := true, z := true })
  | .f2i h f => chkConv h f (qConv f [.i8, .n8, .i16, .n16, .i32, .n32, .i64, .n64] tysFl { r := true, z := true })
  | .i2f h f => chkConv h f (qConv f tysFl tysInt { r := true, s := true, z := true })
  | .fscale h f => chkR false h f (qFscale f)
  | .fdiv h f => chkR false h f (qAB f [.f32, .f64, .f16] { r := true, s := true, z := true, na := true, nb := true, a := true } (f.sub = 0))
  | .fsqrt h f => chkR false h f (qA f [.f32, .f64, .f16] mRZA (f.sub = 0))
  | .rcp h f => chkR false h f (qSfu f)
  | .rsq h f => chkR false h f (qSfu f)
  | .exp2 h f => chkR false h f (qSfu f)
  | .log2 h f => chkR false h f (qSfu f)
  | .sin h f => chkR false h f (qSfu f)
  | .cos h f => chkR false h f (qSfu f)
  | .tanh h f => chkR false h f (qSfu f)
  | .fma2 h f => chkR false h f (qABC f [.f16x2, .bf16x2] { r := true, s := true, z := true, na := true, nb := true, nc := true, a := true } (f.sub = 0))
  | .fadd2 h f => chkR false h f (qAB f [.f16x2, .bf16x2] { r := true, s := true, z := true, na := true, nb := true, a := true } (f.sub = 0))
  | .fmul2 h f => chkR false h f (qAB f [.f16x2, .bf16x2] { r := true, s := true, z := true, na := true, nb := true, a := true } (f.sub = 0))
  | .fdot2 h f => chkR false h f (qFdot2 f)
  | .qnt h f => chkR false h f (qQnt f .f32)
  | .dqnt h f => chkR false h f (qQnt f .b32)
  | .pack h f => chkR false h f (qPack f)
  | .unpk h f => chkR false h f (qUnpk f)
  | .spx h f => chkR false h f (qSpx f)
  | .spexp h f => chkR false h f (qSpx f)
  | .cvset h f => chkR false h f (qCvset f)
  | .cvget h f => chkR false h f (qCvget f)
  | .shfl h f => chkR false h f (qShfl f)
  | .vote h f => chkR false h f (qVote f)
  | .ballot h f => chkR false h f (qBallot f)
  | .matchOp h f => chkR false h f (qMatch f)
  | .redux h f => chkR false h f (qRedux f false)
  | .fredux h f => chkR false h f (qFredux f)
  | .prefixOp h f => chkR false h f (qRedux f true)
  | .actmask h f => chkR false h f (qActmask f)
  | .yield h f => chkR false h f (qNone f)
  | .pause h f => chkR false h f (qNone f)
  | .nnsend h f => chkR true h f (qNnsend f)
  | .nnrecv h f => chkR true h f (qNnrecv f)
  | .lres h f => chkR true h f (qLres f)
  | .lrel h f => chkR true h f (qLrel f)
  | .lld h f => chkR true h f (qLld f)
  | .ldt4 h f => chkR true h f (qLdt4 f)
  | .mma h f => chkMma false h f
  | .mmaq h f => chkMma true h f
  | .accz h f => chkAccz h f
  | .accrd h f => chkAccrd h f
  | .accwr h f => chkAccwr h f
  | .accout h f => chkAccout h f
  | .accin h f => chkAccin h f
  | .lstat h f => chkR true h f (qLstat f)
  | .ld h f => chkLd h f
  | .st h f => chkSt h f
  | .ldmc h f => chkLdmc h f
  | .atom h f => chkR true h f (qAtom f)
  | .red h f => chkR true h f (qRed f)
  | .cas h f => chkR true h f (qCas f)
  | .fence h f => chkR false h f (qFence f)
  | .prfm h f => chkPrfm h f
  | .cctl h f => chkR true h f (qCctl f)
  | .feset h f => chkR true h f (qFeset f)
  | .feqry h f => chkR true h f (qFeqry f)
  | .mcjoin h f => chkR true h f (qMcjoin f)
  | .mcleave h f => chkR true h f (qMcleave f)
  | .acinit h f => chkR true h f (qAcinit f)
  | .arrive h f => chkR true h f (qArrive f)
  | .acfree h f => chkR true h f (qAcfree f)
  | .cpy h f => chkCpy h f
  | .xform h f => chkXform h f
  | .tld h f => chkR true h f (qTld f)
  | .tst h f => chkR true h f (qTst f)
  | .pkld h f => chkR true h f (qPkld f)
  | .pkst h f => chkR true h f (qPkst f)
  | .glaunch h f => chkR true h f (qGlaunch f)
  | .tdone h f => chkR true h f (qTdone f)
  | .racq h f => chkR true h f (qRacq f)
  | .rfill h f => chkR true h f (qRfill f)
  | .rtake h f => chkR true h f (qRacq f)
  | .rfree h f => chkR true h f (qRfill f)
  | .reord h f => chkReord h f
  | .rtnext h f => chkR true h f (qRtnext f)
  | .cutsel h f => chkR true h f (qCutsel f)
  | .shdec h f => chkR true h f (qShdec f)
  | .tex h f => chkR true h f (qTex f)
  | .texg h f => chkR true h f (qTexg f)
  | .texq h f => chkR true h f (qTexq f)
  | .texld h f => chkR true h f (qTexld f)
  | .iattr h f => chkR true h f (qIattr f)
  | .fout h f => chkR true h f (qFout f)
  | .rayq h f => chkR true h f (qRayq f)
  | .primemit h f => chkPrimemit h f
  | .rdsr h f => chkR false h f (qRdsr f)
  | .wrsr h f => chkR false h f (qWrsr f)
  | .trap h f => chkR false h f (qTrap f)
  | .rft h f => chkRft h f
  | .wrir h f => chkR false h f (qWrir f)
  | .rdir h f => chkR false h f (qRdir f)
  | .idiv _ => ⟨true, []⟩
  | .irem _ => ⟨true, []⟩
  | .unassignedOpcode _ => ⟨true, []⟩
  | .rotationSlot _ => ⟨true, []⟩
  | .warpAged _ => ⟨true, []⟩
  | .yieldPeriodEnd _ => ⟨true, []⟩
  | .demotionEnd _ => ⟨true, []⟩
  | .laneExit _ _ => ⟨true, []⟩
  | .loadCompletion _ => ⟨true, []⟩
  | .fullEmptyWaitEnd _ _ => ⟨true, []⟩
  | .lldCompletion _ => ⟨true, []⟩
  | .matrixSliceStart _ _ => ⟨true, []⟩
  | .mmaCompletion _ _ => ⟨true, []⟩
  | .ringWaitEnd _ => ⟨true, []⟩
  | .tileIndexTake _ => ⟨true, []⟩
  | .engineJobAccept _ => ⟨true, []⟩
  | .engineLineWrite _ => ⟨true, []⟩
  | .engineJobCompletion _ => ⟨true, []⟩
  | .collectiveReduction _ _ => ⟨true, []⟩
  | .cutselJobAccept _ => ⟨true, []⟩
  | .cutselJobEnd _ => ⟨true, []⟩
  | .rayQueryCompletion _ _ => ⟨true, []⟩
  | .multicastAsk _ _ => ⟨true, []⟩
  | .holdTimerExpiry _ => ⟨true, []⟩
  | .multicastHeldPartLand _ => ⟨true, []⟩
  | .mcjoinDrainEnd _ => ⟨true, []⟩
  | .neighbourEntryArrival _ _ => ⟨true, []⟩
  | .reorderDrain _ => ⟨true, []⟩
  | .reorderTimerExpiry _ => ⟨true, []⟩
  | .triangleSetup _ => ⟨true, []⟩
  | .tileListEntry _ => ⟨true, []⟩
  | .rasterTileProcess _ _ _ => ⟨true, []⟩
  | .colourTileWriteback _ _ _ => ⟨true, []⟩
  | .displayDeadline _ => ⟨true, []⟩
  | .queueNop _ => ⟨true, []⟩
  | .queueSubmit _ => ⟨true, []⟩
  | .queueWait _ => ⟨true, []⟩
  | .queueSignal _ => ⟨true, []⟩
  | .graphAdmission _ => ⟨true, []⟩
  | .launchQueueAccept _ => ⟨true, []⟩
  | .queueDoorbell _ _ => ⟨true, []⟩
  | .queueEnable _ _ => ⟨true, []⟩
  | .queueDisable _ _ => ⟨true, []⟩
  | .contextCreate _ _ => ⟨true, []⟩
  | .contextEnd _ _ => ⟨true, []⟩
  | .contextTeardownComplete _ => ⟨true, []⟩
  | .invalidationStart _ => ⟨true, []⟩
  | .invalidationComplete => ⟨true, []⟩
  | .pageWalk _ _ _ => ⟨true, []⟩
  | .faultRecordWrite => ⟨true, []⟩
  | .faultBufferTail _ => ⟨true, []⟩
  | .replayRetry _ => ⟨true, []⟩
  | .replayFail _ => ⟨true, []⟩
  | .errorBufferTail _ => ⟨true, []⟩
  | .correctableError _ => ⟨true, []⟩
  | .uncorrectableError _ => ⟨true, []⟩
  | .trapEntry _ => ⟨true, []⟩
  | .waitWatchdogFire _ => ⟨true, []⟩
  | .preemptRequest _ => ⟨true, []⟩
  | .resumeRequest _ => ⟨true, []⟩
  | .preemptHalt _ => ⟨true, []⟩
  | .mailboxReport => ⟨true, []⟩
  | .mailboxIdentityKey => ⟨true, []⟩
  | .mailboxRetirementList => ⟨true, []⟩
  | .mailboxProceed _ => ⟨true, []⟩
  | .powerOn _ => ⟨true, []⟩
  | .configurationTimeout _ => ⟨true, []⟩
  | .fundamentalReset => ⟨true, []⟩
  | .functionLevelReset => ⟨true, []⟩
  | .modebootWrite _ => ⟨true, []⟩
  | .moderunWrite _ => ⟨true, []⟩
  | .linkDrop _ => ⟨true, []⟩
  | .linkRetrain _ => ⟨true, []⟩
  | .bankSensorRead _ _ => ⟨true, []⟩
  | .hotspotSensorRead _ _ => ⟨true, []⟩
  | .powerLoss => ⟨true, []⟩
  | .bankRefresh _ _ => ⟨true, []⟩
  | .refreshEnd _ _ => ⟨true, []⟩
  | .governorStep _ => ⟨true, []⟩
  | .promotionEpochEnd _ => ⟨true, []⟩
  | .pagePromotion _ _ => ⟨true, []⟩
  | .promotionSwitch _ _ => ⟨true, []⟩
  | .pageDemotion _ _ => ⟨true, []⟩
  | .blockWorldChange _ _ => ⟨true, []⟩
  | .hostBar2Access _ _ _ _ => ⟨true, []⟩
  | .l1Eviction _ _ => ⟨true, []⟩
  | .registerWrite _ _ _ => ⟨true, []⟩
  | .fetchBeyondCodeSegment => ⟨true, []⟩

end Sys2Proof.Machine
end

