-- ==== Sys2Proof/WellFormed.lean ====
section
/-! DEFINITION. A well-formed instruction: one whose encoding raises none of the causes of R63. -/

namespace Sys2Proof

/-- The instruction's fields fit its form (R63). -/
def Instr.wf (i : Instr) : Bool := (Machine.checkOf i).ok

end Sys2Proof
end

