-- ==== Sys2Proof/Decode.lean ====
section
/-! DEFINITION. The decoder, total on any word, and the encoder (R32, R35, R48, R49, R53, R58, R59, R65). A word that is no
instruction decodes to `unassignedOpcode`, whose cause `rejectCause` names (R63). -/

namespace Sys2Proof

open Sys2Proof.Machine (tyOfCode tyCode)

/-- The NXT.OP codes (R37); 110 and 111 are none. -/
def nxtOfCode (c : BitVec 3) : Option Nxt :=
  match c.toNat with
  | 0 => some .seq | 1 => some .jmp | 2 => some .call | 3 => some .ret | 4 => some .loop | 5 => some .exit | _ => none

def nxtCode (x : Nxt) : BitVec 3 :=
  match x with
  | .seq => 0 | .jmp => 1 | .call => 2 | .ret => 3 | .loop => 4 | .exit => 5

/-- The RND codes (R59); 111 is none. -/
def rndOfCode (c : BitVec 3) : Option Rnd :=
  match c.toNat with
  | 0 => some .rne | 1 => some .rtz | 2 => some .rdn | 3 => some .rup | 4 => some .rna | 5 => some .rsr | 6 => some .dyn | _ => none

def rndCode (x : Rnd) : BitVec 3 :=
  match x with
  | .rne => 0 | .rtz => 1 | .rdn => 2 | .rup => 3 | .rna => 4 | .rsr => 5 | .dyn => 6

/-- The SPACE codes (R49); 111 is none. -/
def spaceOfCode (c : BitVec 3) : Option Space :=
  match c.toNat with
  | 0 => some .generic | 1 => some .global | 2 => some .scratch | 3 => some .window | 4 => some .constant | 5 => some .transient
  | 6 => some .priv | _ => none

def spaceCode (x : Space) : BitVec 3 :=
  match x with
  | .generic => 0 | .global => 1 | .scratch => 2 | .window => 3 | .constant => 4 | .transient => 5 | .priv => 6

/-- The WIDTH codes (R49); 111 is none. -/
def widthOfCode (c : BitVec 3) : Option Width :=
  match c.toNat with
  | 0 => some .n8 | 1 => some .n16 | 2 => some .b32 | 3 => some .b64 | 4 => some .b128 | 5 => some .i8 | 6 => some .i16 | _ => none

def widthCode (x : Width) : BitVec 3 :=
  match x with
  | .n8 => 0 | .n16 => 1 | .b32 => 2 | .b64 => 3 | .b128 => 4 | .i8 => 5 | .i16 => 6

/-- The CACHE, FE, ORD and SCOPE codes (R49): every code is one. -/
def cacheOfCode (c : BitVec 2) : Cache :=
  match c.toNat with
  | 0 => .dflt | 1 => .stream | 2 => .nol1 | _ => .keep

def cacheCode (x : Cache) : BitVec 2 :=
  match x with
  | .dflt => 0 | .stream => 1 | .nol1 => 2 | .keep => 3

def feOfCode (c : BitVec 2) : Fe :=
  match c.toNat with
  | 0 => .ignore | 1 => .keep | 2 => .clear | _ => .set

def feCode (x : Fe) : BitVec 2 :=
  match x with
  | .ignore => 0 | .keep => 1 | .clear => 2 | .set => 3

def ordOfCode (c : BitVec 2) : Ord :=
  match c.toNat with
  | 0 => .plain | 1 => .acq | 2 => .rel | _ => .ar

def ordCode (x : Ord) : BitVec 2 :=
  match x with
  | .plain => 0 | .acq => 1 | .rel => 2 | .ar => 3

def scopeOfCode (c : BitVec 3) : Scope :=
  match c.toNat with
  | 0 => .thread | 1 => .warp | 2 => .core | 3 => .gang | 4 => .stack | 5 => .card | 6 => .fabric | _ => .system

def scopeCode (x : Scope) : BitVec 3 :=
  match x with
  | .thread => 0 | .warp => 1 | .core => 2 | .gang => 3 | .stack => 4 | .card => 5 | .fabric => 6 | .system => 7

/-- An operand field by its class bits (R53); an index beyond its limit is none. -/
def opndOf (x : BitVec 12) : Option Opnd :=
  let n := (x.extractLsb' 0 7).toNat
  match (x.extractLsb' 10 2).toNat with
  | 0 => if x.extractLsb' 8 2 = 0 then some (.v (x.extractLsb' 0 8)) else none
  | 1 => some (.s (x.extractLsb' 0 10))
  | 2 => if x.getLsbD 9 then some (.imm (x.extractLsb' 0 9)) else some (.sr (x.extractLsb' 0 9))
  | _ =>
    match (x.extractLsb' 7 3).toNat with
    | 0 => if n ≤ 15 then some (.p (x.extractLsb' 0 4)) else none
    | 1 => if n ≤ 7 then some (.bt (x.extractLsb' 0 3)) else none
    | 2 => if n ≤ 3 then some (.lc (x.extractLsb' 0 2)) else none
    | 3 => if n ≤ 7 then some (.cv (x.extractLsb' 0 3)) else none
    | 4 => if n = 0 then some .lk else none
    | 5 => if n = 0 then some .pc else none
    | 6 => if n = 0 then some .zr else none
    | _ => if n ≤ 31 then some (.acc (x.extractLsb' 0 5)) else none

/-- The field of an operand (R53). -/
def opndBits (o : Opnd) : BitVec 12 :=
  match o with
  | .v n => 0#4 ++ n
  | .s n => 1#2 ++ n
  | .sr n => 4#3 ++ n
  | .imm k => 5#3 ++ k
  | .p n => 0xC0#8 ++ n
  | .bt n => 0x190#9 ++ n
  | .lc n => 0x340#10 ++ n
  | .cv n => 0x1B0#9 ++ n
  | .lk => 0xE00#12
  | .pc => 0xE80#12
  | .zr => 0xF00#12
  | .acc n => 0x7C#7 ++ n

/-- The header fields (R35); none for NXT.OP 110 or 111. -/
def hdrOf (w : IWord) : Option Hdr :=
  match nxtOfCode (w.extractLsb' 77 3) with
  | none => none
  | some x => some { g := w.getLsbD 85, n := w.getLsbD 84, p := w.extractLsb' 80 4, nxt := x, t := w.extractLsb' 74 3,
                     la := w.extractLsb' 70 4 }

/-- Format R (R48, R49). -/
def rOf (w : IWord) : Option RForm :=
  match opndOf (w.extractLsb' 58 12), opndOf (w.extractLsb' 46 12), opndOf (w.extractLsb' 34 12), opndOf (w.extractLsb' 22 12),
      tyOfCode (w.extractLsb' 17 5).toNat, rndOfCode (w.extractLsb' 14 3) with
  | some d, some a, some b, some c, some t, some r =>
    some { dst := d, sa := a, sb := b, sc := c, ty := t, rnd := r, sat := w.getLsbD 13, ftz := w.getLsbD 12, nega := w.getLsbD 11,
           negb := w.getLsbD 10, negc := w.getLsbD 9, absa := w.getLsbD 8, sub := w.extractLsb' 0 8 }
  | _, _, _, _, _, _ => none

/-- Format I (R48, R49). -/
def iOf (w : IWord) : Option IForm :=
  match opndOf (w.extractLsb' 58 12), opndOf (w.extractLsb' 46 12), tyOfCode (w.extractLsb' 41 5).toNat,
      rndOfCode (w.extractLsb' 38 3) with
  | some d, some a, some t, some r =>
    some { dst := d, sa := a, ty := t, rnd := r, sat := w.getLsbD 37, sub := w.extractLsb' 32 5, imm := w.extractLsb' 0 32 }
  | _, _, _, _ => none

/-- Format M (R48, R49). -/
def mOf (w : IWord) : Option MForm :=
  match opndOf (w.extractLsb' 58 12), opndOf (w.extractLsb' 46 12), opndOf (w.extractLsb' 34 12), spaceOfCode (w.extractLsb' 31 3),
      widthOfCode (w.extractLsb' 28 3) with
  | some d, some a, some b, some sp, some wd =>
    some { dst := d, base := a, index := b, space := sp, width := wd, cache := cacheOfCode (w.extractLsb' 26 2),
           fe := feOfCode (w.extractLsb' 24 2), ord := ordOfCode (w.extractLsb' 22 2), scope := scopeOfCode (w.extractLsb' 19 3),
           scl := w.getLsbD 18, ofs := w.extractLsb' 0 18 }
  | _, _, _, _, _ => none

/-- The constructor of an opcode of format R (R65). -/
def rOfOpc (opc : Nat) (h : Hdr) (f : RForm) : Option Instr :=
  match opc with
  | 0x000 => some (.nop h f)
  | 0x001 => some (.mov h f)
  | 0x003 => some (.sel h f)
  | 0x004 => some (.add h f)
  | 0x006 => some (.subOp h f)
  | 0x007 => some (.mul h f)
  | 0x009 => some (.mulhi h f)
  | 0x00A => some (.mad h f)
  | 0x00B => some (.madw h f)
  | 0x00C => some (.absOp h f)
  | 0x00D => some (.minOp h f)
  | 0x00E => some (.maxOp h f)
  | 0x010 => some (.andOp h f)
  | 0x012 => some (.orOp h f)
  | 0x014 => some (.xorOp h f)
  | 0x016 => some (.tern h f)
  | 0x017 => some (.shl h f)
  | 0x018 => some (.shr h f)
  | 0x019 => some (.sar h f)
  | 0x01A => some (.rot h f)
  | 0x01B => some (.fsh h f)
  | 0x01C => some (.bfx h f)
  | 0x01D => some (.bfi h f)
  | 0x01E => some (.popc h f)
  | 0x01F => some (.clz h f)
  | 0x020 => some (.ctz h f)
  | 0x021 => some (.brev h f)
  | 0x022 => some (.bsel h f)
  | 0x023 => some (.lea h f)
  | 0x024 => some (.cmp h f)
  | 0x026 => some (.plop h f)
  | 0x027 => some (.p2v h f)
  | 0x028 => some (.v2p h f)
  | 0x029 => some (.cvti h f)
  | 0x02A => some (.dp4 h f)
  | 0x02D => some (.movbt h f)
  | 0x02F => some (.brk h f)
  | 0x080 => some (.fadd h f)
  | 0x082 => some (.fmul h f)
  | 0x084 => some (.fma h f)
  | 0x085 => some (.fmin h f)
  | 0x086 => some (.fmax h f)
  | 0x087 => some (.fcmp h f)
  | 0x088 => some (.fclass h f)
  | 0x089 => some (.frnd h f)
  | 0x08A => some (.fcvt h f)
  | 0x08B => some (.f2i h f)
  | 0x08C => some (.i2f h f)
  | 0x08D => some (.fscale h f)
  | 0x08E => some (.fdiv h f)
  | 0x08F => some (.fsqrt h f)
  | 0x090 => some (.rcp h f)
  | 0x091 => some (.rsq h f)
  | 0x092 => some (.exp2 h f)
  | 0x093 => some (.log2 h f)
  | 0x094 => some (.sin h f)
  | 0x095 => some (.cos h f)
  | 0x096 => some (.tanh h f)
  | 0x097 => some (.fma2 h f)
  | 0x098 => some (.fadd2 h f)
  | 0x099 => some (.fmul2 h f)
  | 0x09A => some (.fdot2 h f)
  | 0x100 => some (.qnt h f)
  | 0x101 => some (.dqnt h f)
  | 0x102 => some (.pack h f)
  | 0x103 => some (.unpk h f)
  | 0x104 => some (.spx h f)
  | 0x105 => some (.spexp h f)
  | 0x140 => some (.cvset h f)
  | 0x141 => some (.cvget h f)
  | 0x142 => some (.shfl h f)
  | 0x143 => some (.vote h f)
  | 0x144 => some (.ballot h f)
  | 0x145 => some (.matchOp h f)
  | 0x146 => some (.redux h f)
  | 0x147 => some (.fredux h f)
  | 0x148 => some (.prefixOp h f)
  | 0x149 => some (.actmask h f)
  | 0x14A => some (.yield h f)
  | 0x14B => some (.pause h f)
  | 0x14C => some (.nnsend h f)
  | 0x14D => some (.nnrecv h f)
  | 0x180 => some (.lres h f)
  | 0x181 => some (.lrel h f)
  | 0x182 => some (.lld h f)
  | 0x183 => some (.ldt4 h f)
  | 0x184 => some (.mma h f)
  | 0x185 => some (.mmaq h f)
  | 0x186 => some (.accz h f)
  | 0x187 => some (.accrd h f)
  | 0x188 => some (.accwr h f)
  | 0x189 => some (.accout h f)
  | 0x18A => some (.accin h f)
  | 0x18B => some (.lstat h f)
  | 0x1C3 => some (.atom h f)
  | 0x1C4 => some (.red h f)
  | 0x1C5 => some (.cas h f)
  | 0x1C6 => some (.fence h f)
  | 0x1C8 => some (.cctl h f)
  | 0x1C9 => some (.feset h f)
  | 0x1CA => some (.feqry h f)
  | 0x1CB => some (.mcjoin h f)
  | 0x1CC => some (.mcleave h f)
  | 0x1CD => some (.acinit h f)
  | 0x1CE => some (.arrive h f)
  | 0x1CF => some (.acfree h f)
  | 0x1D0 => some (.cpy h f)
  | 0x1D1 => some (.xform h f)
  | 0x1D2 => some (.tld h f)
  | 0x1D3 => some (.tst h f)
  | 0x1D4 => some (.pkld h f)
  | 0x1D5 => some (.pkst h f)
  | 0x240 => some (.glaunch h f)
  | 0x241 => some (.tdone h f)
  | 0x242 => some (.racq h f)
  | 0x243 => some (.rfill h f)
  | 0x244 => some (.rtake h f)
  | 0x245 => some (.rfree h f)
  | 0x246 => some (.reord h f)
  | 0x247 => some (.rtnext h f)
  | 0x280 => some (.cutsel h f)
  | 0x281 => some (.shdec h f)
  | 0x282 => some (.tex h f)
  | 0x283 => some (.texg h f)
  | 0x284 => some (.texq h f)
  | 0x285 => some (.texld h f)
  | 0x286 => some (.iattr h f)
  | 0x287 => some (.fout h f)
  | 0x288 => some (.rayq h f)
  | 0x289 => some (.primemit h f)
  | 0x2C0 => some (.rdsr h f)
  | 0x2C1 => some (.wrsr h f)
  | 0x2C2 => some (.trap h f)
  | 0x2C3 => some (.rft h f)
  | 0x2C4 => some (.wrir h f)
  | 0x2C5 => some (.rdir h f)
  | _ => none

/-- The constructor of an opcode of format I (R65). -/
def iOfOpc (opc : Nat) (h : Hdr) (f : IForm) : Option Instr :=
  match opc with
  | 0x002 => some (.movi h f)
  | 0x005 => some (.addi h f)
  | 0x008 => some (.muli h f)
  | 0x011 => some (.andi h f)
  | 0x013 => some (.ori h f)
  | 0x015 => some (.xori h f)
  | 0x025 => some (.cmpi h f)
  | 0x02C => some (.tgt h f)
  | 0x02E => some (.setlc h f)
  | 0x081 => some (.faddi h f)
  | 0x083 => some (.fmuli h f)
  | _ => none

/-- The constructor of an opcode of format M (R65). -/
def mOfOpc (opc : Nat) (h : Hdr) (f : MForm) : Option Instr :=
  match opc with
  | 0x1C0 => some (.ld h f)
  | 0x1C1 => some (.st h f)
  | 0x1C2 => some (.ldmc h f)
  | 0x1C7 => some (.prfm h f)
  | _ => none

/-- The opcodes of format I (R65). -/
def isFmtI (opc : Nat) : Bool := opc = 0x002 || opc = 0x005 || opc = 0x008 || opc = 0x011 || opc = 0x013 || opc = 0x015 || opc = 0x025 || opc = 0x02C || opc = 0x02E || opc = 0x081 || opc = 0x083

/-- The opcodes of format M (R65). -/
def isFmtM (opc : Nat) : Bool := opc = 0x1C0 || opc = 0x1C1 || opc = 0x1C2 || opc = 0x1C7

/-- The opcodes that R65 assigns. -/
def opcAssigned (opc : Nat) : Bool :=
  decide (0x000 ≤ opc ∧ opc ≤ 0x00E) ||
    decide (0x010 ≤ opc ∧ opc ≤ 0x02A) ||
    decide (0x02C ≤ opc ∧ opc ≤ 0x02F) ||
    decide (0x080 ≤ opc ∧ opc ≤ 0x09A) ||
    decide (0x100 ≤ opc ∧ opc ≤ 0x105) ||
    decide (0x140 ≤ opc ∧ opc ≤ 0x14D) ||
    decide (0x180 ≤ opc ∧ opc ≤ 0x18B) ||
    decide (0x1C0 ≤ opc ∧ opc ≤ 0x1D5) ||
    decide (0x240 ≤ opc ∧ opc ≤ 0x247) ||
    decide (0x280 ≤ opc ∧ opc ≤ 0x289) ||
    decide (0x2C0 ≤ opc ∧ opc ≤ 0x2C5)

/-- The opcode of a word (R35). -/
def opcOf (w : IWord) : Nat := (w.extractLsb' 86 10).toNat

/-- A word's fields as an instruction, before its form is checked (R48 to R59). -/
def decodeFields (w : IWord) : Option Instr :=
  match hdrOf w with
  | none => none
  | some h =>
    if isFmtI (opcOf w) then (iOf w).bind (iOfOpc (opcOf w) h)
    else if isFmtM (opcOf w) then (mOf w).bind (mOfOpc (opcOf w) h)
    else (rOf w).bind (rOfOpc (opcOf w) h)

/-- GRD's own rule, the one the device checks in the emulation space: G = 0 requires N = P = 0 (R63). -/
def grdOk (w : IWord) : Bool := w.getLsbD 85 || (!w.getLsbD 84 && w.extractLsb' 80 4 = 0)

/-- The instruction that a word is; a word that is none is `unassignedOpcode` (R63, R144). -/
def decode (w : IWord) : Instr :=
  if opcOf w = 0x3C0 && grdOk w then .idiv w
  else if opcOf w = 0x3C1 && grdOk w then .irem w
  else
    match decodeFields w with
    | none => .unassignedOpcode w
    | some i => if i.wf then i else .unassignedOpcode w

/-- Twelve bytes in memory as a word: three little-endian words, word 0 first (R32). -/
def wordOfBytes (bs : List Byte) : IWord := BitVec.ofNat 96 (bs.foldr (fun b acc => b.toNat + 256 * acc) 0)

/-- The bytes of a word in memory (R32). -/
def bytesOfWord (w : IWord) : List Byte := (List.range 12).map (fun k => w.extractLsb' (8 * k) 8)

/-- The instruction at the head of a list of bytes, with the rest; none when fewer than twelve stand there. -/
def decodeBytes (bs : List Byte) : Option (Instr × List Byte) :=
  if bs.length < 12 then none else some (decode (wordOfBytes (bs.take 12)), bs.drop 12)

/-- The header's bits (R35). -/
def hdrBits (h : Hdr) : BitVec 16 := BitVec.ofBool h.g ++ BitVec.ofBool h.n ++ h.p ++ nxtCode h.nxt ++ h.t ++ h.la

/-- A word of format R (R48, R49). -/
def encR (opc : BitVec 10) (h : Hdr) (f : RForm) : IWord :=
  opc ++ hdrBits h ++ opndBits f.dst ++ opndBits f.sa ++ opndBits f.sb ++ opndBits f.sc ++ BitVec.ofNat 5 (tyCode f.ty)
    ++ rndCode f.rnd ++ BitVec.ofBool f.sat ++ BitVec.ofBool f.ftz ++ BitVec.ofBool f.nega ++ BitVec.ofBool f.negb
    ++ BitVec.ofBool f.negc ++ BitVec.ofBool f.absa ++ f.sub

/-- A word of format I (R48, R49). -/
def encI (opc : BitVec 10) (h : Hdr) (f : IForm) : IWord :=
  opc ++ hdrBits h ++ opndBits f.dst ++ opndBits f.sa ++ BitVec.ofNat 5 (tyCode f.ty) ++ rndCode f.rnd ++ BitVec.ofBool f.sat
    ++ f.sub ++ f.imm

/-- A word of format M (R48, R49). -/
def encM (opc : BitVec 10) (h : Hdr) (f : MForm) : IWord :=
  opc ++ hdrBits h ++ opndBits f.dst ++ opndBits f.base ++ opndBits f.index ++ spaceCode f.space ++ widthCode f.width
    ++ cacheCode f.cache ++ feCode f.fe ++ ordCode f.ord ++ scopeCode f.scope ++ BitVec.ofBool f.scl ++ f.ofs

/-- The word of an instruction; the machine's other steps have none. -/
def encode (i : Instr) : Option IWord :=
  match i with
  | .nop h f => some (encR 0x000 h f)
  | .mov h f => some (encR 0x001 h f)
  | .movi h f => some (encI 0x002 h f)
  | .sel h f => some (encR 0x003 h f)
  | .add h f => some (encR 0x004 h f)
  | .addi h f => some (encI 0x005 h f)
  | .subOp h f => some (encR 0x006 h f)
  | .mul h f => some (encR 0x007 h f)
  | .muli h f => some (encI 0x008 h f)
  | .mulhi h f => some (encR 0x009 h f)
  | .mad h f => some (encR 0x00A h f)
  | .madw h f => some (encR 0x00B h f)
  | .absOp h f => some (encR 0x00C h f)
  | .minOp h f => some (encR 0x00D h f)
  | .maxOp h f => some (encR 0x00E h f)
  | .andOp h f => some (encR 0x010 h f)
  | .andi h f => some (encI 0x011 h f)
  | .orOp h f => some (encR 0x012 h f)
  | .ori h f => some (encI 0x013 h f)
  | .xorOp h f => some (encR 0x014 h f)
  | .xori h f => some (encI 0x015 h f)
  | .tern h f => some (encR 0x016 h f)
  | .shl h f => some (encR 0x017 h f)
  | .shr h f => some (encR 0x018 h f)
  | .sar h f => some (encR 0x019 h f)
  | .rot h f => some (encR 0x01A h f)
  | .fsh h f => some (encR 0x01B h f)
  | .bfx h f => some (encR 0x01C h f)
  | .bfi h f => some (encR 0x01D h f)
  | .popc h f => some (encR 0x01E h f)
  | .clz h f => some (encR 0x01F h f)
  | .ctz h f => some (encR 0x020 h f)
  | .brev h f => some (encR 0x021 h f)
  | .bsel h f => some (encR 0x022 h f)
  | .lea h f => some (encR 0x023 h f)
  | .cmp h f => some (encR 0x024 h f)
  | .cmpi h f => some (encI 0x025 h f)
  | .plop h f => some (encR 0x026 h f)
  | .p2v h f => some (encR 0x027 h f)
  | .v2p h f => some (encR 0x028 h f)
  | .cvti h f => some (encR 0x029 h f)
  | .dp4 h f => some (encR 0x02A h f)
  | .tgt h f => some (encI 0x02C h f)
  | .movbt h f => some (encR 0x02D h f)
  | .setlc h f => some (encI 0x02E h f)
  | .brk h f => some (encR 0x02F h f)
  | .fadd h f => some (encR 0x080 h f)
  | .faddi h f => some (encI 0x081 h f)
  | .fmul h f => some (encR 0x082 h f)
  | .fmuli h f => some (encI 0x083 h f)
  | .fma h f => some (encR 0x084 h f)
  | .fmin h f => some (encR 0x085 h f)
  | .fmax h f => some (encR 0x086 h f)
  | .fcmp h f => some (encR 0x087 h f)
  | .fclass h f => some (encR 0x088 h f)
  | .frnd h f => some (encR 0x089 h f)
  | .fcvt h f => some (encR 0x08A h f)
  | .f2i h f => some (encR 0x08B h f)
  | .i2f h f => some (encR 0x08C h f)
  | .fscale h f => some (encR 0x08D h f)
  | .fdiv h f => some (encR 0x08E h f)
  | .fsqrt h f => some (encR 0x08F h f)
  | .rcp h f => some (encR 0x090 h f)
  | .rsq h f => some (encR 0x091 h f)
  | .exp2 h f => some (encR 0x092 h f)
  | .log2 h f => some (encR 0x093 h f)
  | .sin h f => some (encR 0x094 h f)
  | .cos h f => some (encR 0x095 h f)
  | .tanh h f => some (encR 0x096 h f)
  | .fma2 h f => some (encR 0x097 h f)
  | .fadd2 h f => some (encR 0x098 h f)
  | .fmul2 h f => some (encR 0x099 h f)
  | .fdot2 h f => some (encR 0x09A h f)
  | .qnt h f => some (encR 0x100 h f)
  | .dqnt h f => some (encR 0x101 h f)
  | .pack h f => some (encR 0x102 h f)
  | .unpk h f => some (encR 0x103 h f)
  | .spx h f => some (encR 0x104 h f)
  | .spexp h f => some (encR 0x105 h f)
  | .cvset h f => some (encR 0x140 h f)
  | .cvget h f => some (encR 0x141 h f)
  | .shfl h f => some (encR 0x142 h f)
  | .vote h f => some (encR 0x143 h f)
  | .ballot h f => some (encR 0x144 h f)
  | .matchOp h f => some (encR 0x145 h f)
  | .redux h f => some (encR 0x146 h f)
  | .fredux h f => some (encR 0x147 h f)
  | .prefixOp h f => some (encR 0x148 h f)
  | .actmask h f => some (encR 0x149 h f)
  | .yield h f => some (encR 0x14A h f)
  | .pause h f => some (encR 0x14B h f)
  | .nnsend h f => some (encR 0x14C h f)
  | .nnrecv h f => some (encR 0x14D h f)
  | .lres h f => some (encR 0x180 h f)
  | .lrel h f => some (encR 0x181 h f)
  | .lld h f => some (encR 0x182 h f)
  | .ldt4 h f => some (encR 0x183 h f)
  | .mma h f => some (encR 0x184 h f)
  | .mmaq h f => some (encR 0x185 h f)
  | .accz h f => some (encR 0x186 h f)
  | .accrd h f => some (encR 0x187 h f)
  | .accwr h f => some (encR 0x188 h f)
  | .accout h f => some (encR 0x189 h f)
  | .accin h f => some (encR 0x18A h f)
  | .lstat h f => some (encR 0x18B h f)
  | .ld h f => some (encM 0x1C0 h f)
  | .st h f => some (encM 0x1C1 h f)
  | .ldmc h f => some (encM 0x1C2 h f)
  | .atom h f => some (encR 0x1C3 h f)
  | .red h f => some (encR 0x1C4 h f)
  | .cas h f => some (encR 0x1C5 h f)
  | .fence h f => some (encR 0x1C6 h f)
  | .prfm h f => some (encM 0x1C7 h f)
  | .cctl h f => some (encR 0x1C8 h f)
  | .feset h f => some (encR 0x1C9 h f)
  | .feqry h f => some (encR 0x1CA h f)
  | .mcjoin h f => some (encR 0x1CB h f)
  | .mcleave h f => some (encR 0x1CC h f)
  | .acinit h f => some (encR 0x1CD h f)
  | .arrive h f => some (encR 0x1CE h f)
  | .acfree h f => some (encR 0x1CF h f)
  | .cpy h f => some (encR 0x1D0 h f)
  | .xform h f => some (encR 0x1D1 h f)
  | .tld h f => some (encR 0x1D2 h f)
  | .tst h f => some (encR 0x1D3 h f)
  | .pkld h f => some (encR 0x1D4 h f)
  | .pkst h f => some (encR 0x1D5 h f)
  | .glaunch h f => some (encR 0x240 h f)
  | .tdone h f => some (encR 0x241 h f)
  | .racq h f => some (encR 0x242 h f)
  | .rfill h f => some (encR 0x243 h f)
  | .rtake h f => some (encR 0x244 h f)
  | .rfree h f => some (encR 0x245 h f)
  | .reord h f => some (encR 0x246 h f)
  | .rtnext h f => some (encR 0x247 h f)
  | .cutsel h f => some (encR 0x280 h f)
  | .shdec h f => some (encR 0x281 h f)
  | .tex h f => some (encR 0x282 h f)
  | .texg h f => some (encR 0x283 h f)
  | .texq h f => some (encR 0x284 h f)
  | .texld h f => some (encR 0x285 h f)
  | .iattr h f => some (encR 0x286 h f)
  | .fout h f => some (encR 0x287 h f)
  | .rayq h f => some (encR 0x288 h f)
  | .primemit h f => some (encR 0x289 h f)
  | .rdsr h f => some (encR 0x2C0 h f)
  | .wrsr h f => some (encR 0x2C1 h f)
  | .trap h f => some (encR 0x2C2 h f)
  | .rft h f => some (encR 0x2C3 h f)
  | .wrir h f => some (encR 0x2C4 h f)
  | .rdir h f => some (encR 0x2C5 h f)
  | .idiv w => some w
  | .irem w => some w
  | .unassignedOpcode w => some w
  | .rotationSlot _ => none
  | .warpAged _ => none
  | .yieldPeriodEnd _ => none
  | .demotionEnd _ => none
  | .laneExit _ _ => none
  | .loadCompletion _ => none
  | .fullEmptyWaitEnd _ _ => none
  | .lldCompletion _ => none
  | .matrixSliceStart _ _ => none
  | .mmaCompletion _ _ => none
  | .ringWaitEnd _ => none
  | .tileIndexTake _ => none
  | .engineJobAccept _ => none
  | .engineLineWrite _ => none
  | .engineJobCompletion _ => none
  | .collectiveReduction _ _ => none
  | .cutselJobAccept _ => none
  | .cutselJobEnd _ => none
  | .rayQueryCompletion _ _ => none
  | .multicastAsk _ _ => none
  | .holdTimerExpiry _ => none
  | .multicastHeldPartLand _ => none
  | .mcjoinDrainEnd _ => none
  | .neighbourEntryArrival _ _ => none
  | .reorderDrain _ => none
  | .reorderTimerExpiry _ => none
  | .triangleSetup _ => none
  | .tileListEntry _ => none
  | .rasterTileProcess _ _ _ => none
  | .colourTileWriteback _ _ _ => none
  | .displayDeadline _ => none
  | .queueNop _ => none
  | .queueSubmit _ => none
  | .queueWait _ => none
  | .queueSignal _ => none
  | .graphAdmission _ => none
  | .launchQueueAccept _ => none
  | .queueDoorbell _ _ => none
  | .queueEnable _ _ => none
  | .queueDisable _ _ => none
  | .contextCreate _ _ => none
  | .contextEnd _ _ => none
  | .contextTeardownComplete _ => none
  | .invalidationStart _ => none
  | .invalidationComplete => none
  | .pageWalk _ _ _ => none
  | .faultRecordWrite => none
  | .faultBufferTail _ => none
  | .replayRetry _ => none
  | .replayFail _ => none
  | .errorBufferTail _ => none
  | .correctableError _ => none
  | .uncorrectableError _ => none
  | .trapEntry _ => none
  | .waitWatchdogFire _ => none
  | .preemptRequest _ => none
  | .resumeRequest _ => none
  | .preemptHalt _ => none
  | .mailboxReport => none
  | .mailboxIdentityKey => none
  | .mailboxRetirementList => none
  | .mailboxProceed _ => none
  | .powerOn _ => none
  | .configurationTimeout _ => none
  | .fundamentalReset => none
  | .functionLevelReset => none
  | .modebootWrite _ => none
  | .moderunWrite _ => none
  | .linkDrop _ => none
  | .linkRetrain _ => none
  | .bankSensorRead _ _ => none
  | .hotspotSensorRead _ _ => none
  | .powerLoss => none
  | .bankRefresh _ _ => none
  | .refreshEnd _ _ => none
  | .governorStep _ => none
  | .promotionEpochEnd _ => none
  | .pagePromotion _ _ => none
  | .promotionSwitch _ _ => none
  | .pageDemotion _ _ => none
  | .blockWorldChange _ _ => none
  | .hostBar2Access _ _ _ _ => none
  | .l1Eviction _ _ => none
  | .registerWrite _ _ _ => none
  | .fetchBeyondCodeSegment => none

/-- Whether an instruction's word is read field by field: not the words of the emulation space, nor unassigned ones (R63). -/
def hasFields (i : Instr) : Bool :=
  match i with
  | .idiv _ | .irem _ | .unassignedOpcode _ => false
  | _ => true

/-- The instruction that the decoder reads from a word whose bits are `w`, bit 0 the least significant bit of word 0. -/
def decodeTableWord (nbits w : Nat) : Option Instr :=
  if nbits ≤ 96 then some (decode (wordOfBytes (bytesOfWord (BitVec.ofNat 96 w)))) else none

end Sys2Proof
end

