-- ==== Sys2Proof/Config.lean ====
section
/-! DEFINITION. What one part fixes, and the free values: constants that the manual leaves open. A free value has no body,
so that nothing can be proved of it but what the manual bounds. -/

namespace Sys2Proof

/-- A special function named by its opcode (R104). -/
inductive Sfu where
  | rcp | rsq | exp2 | log2 | sin | cos | tanh
  deriving DecidableEq, Repr

/-- The bits a special function returns for an input and a flush-to-zero setting, before they are held within the bound of
R104 (the manual gives the bound and the exact cases of R105 only; log entry 5). -/
opaque Config.specialFn : Sfu → Word → Bool → Word

/-- A fresh value where the manual leaves one open, applied to the counter of free values (log entry 4). -/
opaque Config.freeWord : Nat → Word

/-- A byte an engine or queue leaves open (R190, R191, R253): old or new, by the counter of free values (log entry 4). -/
opaque Config.freeBit : Nat → Bool

/-- SHAKE256 to 64 bytes, named and not given by R409 to R411 (log entry 6). -/
opaque Config.shake256 : List Byte → List Byte

/-- The output of SHAKE256 of any length, used as randomness by R410 (log entry 6). -/
opaque Config.shake256Stream : List Byte → Nat → Byte

/-- Falcon-1024 verification of a padded signature over a digest under a public key (R409; log entry 6). -/
opaque Config.falconVerify : List Byte → List Byte → List Byte → Bool

/-- Falcon-1024 key generation from randomness: public key of 1,793 bytes and private key (R410; log entry 6). -/
opaque Config.falconKeygen : (Nat → Byte) → List Byte × List Byte

/-- A Falcon-1024 padded signature of 1,280 bytes over a digest with a private key (R411; log entry 6). -/
opaque Config.falconSign : List Byte → List Byte → List Byte

/-- The SHAKE256 digest of a save area, from the cells that stand in it (R390; log entry 6). -/
opaque Config.saveDigest : List (Nat × Byte) → Nat

/-- What a save writes at one place of a save area: its format and length belong to the device (R390; log entry 55). -/
opaque Config.saveImage : Nat → List Byte

/-- The fused digest of the public key of a key slot (R409). -/
opaque Config.fusedKeyDigest : Nat → List Byte

/-- Whether a key slot is revoked in the fuses (R409). -/
opaque Config.fusedRevoked : Nat → Bool

/-- The fused minimum security version for a KIND (R409). -/
opaque Config.fusedMinSvn : Nat → Nat

/-- The 32-byte fused seed (R410). -/
opaque Config.fusedSeed : List Byte

/-- The 64-bit fused unique identifier (R435). -/
opaque Config.fusedUid : BitVec 64

/-- The context in whose addresses a display plane's PBASE lies: R447 calls it a global address and names no context (log entry 50). -/
opaque Config.planeContext : Nat → Nat

/-- The size of the picture of a display output, none while it is disabled, by output and the counter of free values: R447 to R449 speak of an
output's mode and give no register of it (log entry 50). -/
opaque Config.outputMode : Nat → Nat → Option (Nat × Nat)

/-- How many triangles the set-up's input queue holds (R197 and R203 name the queue and give no size; log entry 7). -/
opaque Config.setupQueueLen : Nat

/-- The spare core sites of a stack (R432 steers one onto a retired stop while one remains, and gives no number; log entry 11). -/
opaque Config.spareSites : Nat → Nat

/-- The L2 misses that reach a frame of GDDR-7 from a stack within a promotion epoch (R401): the contents of L2 are no state of the model
(log entry 12). -/
opaque Config.l2Misses : Nat → Nat → Nat → Nat

/-- Stacks of a card and cores of a stack (R14, R16). -/
def Config.stacks : Nat := 4

def Config.coresPerStack : Nat := 48

/-- Cores of a card. -/
def Config.cores : Nat := 192

/-- Warp slots of a core (R233). -/
def Config.slots : Nat := 64

/-- The value of %wdog at launch (R62, R377). -/
def Config.wdogAtLaunch : Word := 0x04000000#32

/-- The pc of an exited or never-launched lane (R33). -/
def Config.exitedPc : Word := 0xFFFFFFFF#32

end Sys2Proof
end

