-- ==== Sys2Proof/Machine/Map.lean ====
section
/-! DEFINITION. Sparse stores keyed by a number, in one canonical form: keys strictly rising, and in a store with a default
value no entry equal to it. Every memory and register file of the model is one of these. -/

namespace Sys2Proof.Machine

/-- A list of (key, value) pairs. -/
abbrev NMap (α : Type) := List (Nat × α)

/-- The value listed for a key, if any. -/
def nmapFind {α : Type} (m : NMap α) (k : Nat) : Option α :=
  match m with
  | [] => none
  | (k', v) :: t => if k' = k then some v else nmapFind t k

/-- Every entry for a key taken out. -/
def nmapErase {α : Type} (m : NMap α) (k : Nat) : NMap α :=
  m.filter (fun e => decide (e.1 ≠ k))

/-- An entry put before the first larger key. -/
def nmapInsert {α : Type} (m : NMap α) (k : Nat) (v : α) : NMap α :=
  match m with
  | [] => [(k, v)]
  | (k', v') :: t => if k < k' then (k, v) :: (k', v') :: t else (k', v') :: nmapInsert t k v

/-- The store with `k` holding `v`. -/
def nmapSet {α : Type} (m : NMap α) (k : Nat) (v : α) : NMap α :=
  nmapInsert (nmapErase m k) k v

/-- The value at a key of a store whose unlisted keys read as `d`. -/
def dmapGet {α : Type} (d : α) (m : NMap α) (k : Nat) : α :=
  (nmapFind m k).getD d

/-- The store with `k` reading as `v`, where unlisted keys read as `d`: writing `d` removes the entry. -/
def dmapSet {α : Type} [DecidableEq α] (d : α) (m : NMap α) (k : Nat) (v : α) : NMap α :=
  if v = d then nmapErase m k else nmapSet m k v

/-- The entries with keys in [lo, hi). -/
def nmapRange {α : Type} (m : NMap α) (lo hi : Nat) : NMap α :=
  m.filter (fun e => decide (lo ≤ e.1 ∧ e.1 < hi))

/-- The store with every key in [lo, hi) taken out (reading as the default again). -/
def nmapClear {α : Type} (m : NMap α) (lo hi : Nat) : NMap α :=
  m.filter (fun e => decide (e.1 < lo ∨ hi ≤ e.1))

/-- The store overlaid with the entries of another. -/
def nmapMerge {α : Type} (m : NMap α) (n : NMap α) : NMap α :=
  n.foldl (fun acc e => nmapSet acc e.1 e.2) m

/-- A store with default `d` overlaid with the entries of another. -/
def dmapMerge {α : Type} [DecidableEq α] (d : α) (m : NMap α) (n : NMap α) : NMap α :=
  n.foldl (fun acc e => dmapSet d acc e.1 e.2) m

/-- Keys strictly rising from above `lo`. -/
def nmapSorted {α : Type} (lo : Option Nat) (m : NMap α) : Bool :=
  match m with
  | [] => true
  | (k, _) :: t => (match lo with | none => true | some b => decide (b < k)) && nmapSorted (some k) t

/-- The canonical form of a store with a default: keys strictly rising, and no entry equal to the default. -/
def dmapWf {α : Type} [DecidableEq α] (d : α) (m : NMap α) : Bool :=
  nmapSorted none m && m.all (fun e => decide (e.2 ≠ d))

/-- A record changed in place, if it is there. -/
def nmapModify {α : Type} (m : NMap α) (k : Nat) (f : α → α) : NMap α :=
  m.map (fun e => if e.1 = k then (e.1, f e.2) else e)

/-- A value put in a rising list of numbers, once. -/
def insertNat (n : Nat) (ls : List Nat) : List Nat :=
  match ls with
  | [] => [n]
  | m :: t => if n < m then n :: m :: t else if n = m then m :: t else m :: insertNat n t

end Sys2Proof.Machine
end

