-- ==== Sys2Proof/Machine/State.lean ====
section
/-! DEFINITION. The state of the part as plain data, and the state right after reset. A core is named by
`cid = stack × 48 + %coreid`, a warp by `w = cid × 64 + slot` (R233), a lane by `w × 32 + lane`. -/

namespace Sys2Proof.Machine

/-- Why the machine stops with a fault. No instruction of this part stops the machine: a cause goes to a handler or ends its
context (R413). -/
inductive Fault where
  /-- Never raised by a meaning; kept so that the type is not empty. Safe. -/
  | stuck
  deriving DecidableEq, Repr

/-- Why a step has no meaning. -/
inductive Refusal where
  /-- Raised by an arm of `exec` whose instruction has no meaning yet. Safe: nothing is claimed of it. -/
  | notModelled (mnemonic : String)
  deriving DecidableEq, Repr

/-- The causes of R412, in the order of their codes. -/
inductive Cause where
  | enc | resv | emu | priv | lav | rega | spad | align | cvmis | cvexit | role | feuns | page | prot | secv | poison
  | waitto | swt | brk | loft | acca | ring | mcg | tile | arr | rayh | texh
  deriving DecidableEq, Repr

/-- One register value to be written: the lane is a lane of the warp concerned (R57, R60). -/
inductive RegWrite where
  | v (l n : Nat) (x : Word)
  | hv (l n : Nat) (x : Word)
  | s (n : Nat) (x : Word)
  | hs (n : Nat) (x : Word)
  | p (l n : Nat) (b : Bool)
  | bt (l n : Nat) (x : Word)
  | lc (l n : Nat) (x : Word)
  | lk (l : Nat) (x : Word)
  | cv (n : Nat) (x : Word)
  | rng (l : Nat) (x : Word)
  | tile (k i j : Nat) (x : Word)
  | fpctl (x : Word)
  | fpflags (x : Word)
  | trapbase (x : BitVec 64)
  | traphandler (x : Word)
  | wdog (x : Word)
  deriving DecidableEq, Repr

/-- A register that an outstanding instruction writes at completion (R44): of one lane, or shared by the warp (R45), or a tile
shared by the workgroup on the core (R151). -/
inductive PendReg where
  | v (l n : Nat)
  | hv (l n : Nat)
  | p (l n : Nat)
  | s (n : Nat)
  | hs (n : Nat)
  | cv (n : Nat)
  | tile (cid frame : Nat)
  deriving DecidableEq, Repr

/-- The operand values a lane read at issue, and what its memory part names (R385, R418); whether it issued in handler mode, and the
pass tile its workgroup then held, plus one (R312, R419); `data` holds, 32 bits each, the registers that the slots have no room for;
`span` names the storage that the lane's access touches: its class (0: any storage), first byte and length (R238). -/
structure LaneRec where
  lane : Nat
  a : BitVec 64
  b : BitVec 64
  c : BitVec 128
  addr : BitVec 64
  rp : Word
  hm : Bool
  aux : Nat
  data : Nat
  span : Nat × Nat × Nat := (0, 0, 0)
  deriving DecidableEq, Repr

/-- When an access of device memory reaches an L2 slice (R239, R244, R267): never, when L1 lacks a byte of it, or always. -/
inductive L2Use where
  | never | miss | always
  deriving DecidableEq, Repr

/-- How the accesses of an instruction are ordered with those of the same lane (R20, R238, R243, R244): whether it accesses memory, writes
it or a full-empty bit, is an acquire, is a release, and when it reaches L2. -/
structure MemOrd where
  mem : Bool := false
  wr : Bool := false
  acq : Bool := false
  rel : Bool := false
  l2 : L2Use := .never
  deriving DecidableEq, Repr

/-- An entry of a neighbour link (R21, R303): the workgroup of the gang that sent it, its words, and whether it is poisoned (R427, R429). -/
structure LinkEntry where
  wg : Nat
  words : List Word
  bad : Bool
  deriving DecidableEq, Repr

/-- What is left of the window of an instruction that has completed before the window's end (R43, R44): the lane, the
instructions left, the registers that the instruction had pending, and whether it was an MMA or MMAQ (R152). -/
structure Window where
  lane : Nat
  left : Nat
  pend : List PendReg
  mma : Bool
  deriving DecidableEq, Repr

/-- A raised cause with what entering the handler needs: cause and sub-cause, lanes, instruction word, slots (R415 to R418); and the
lanes that were at their exit when they entered (R41). -/
structure Trap where
  cause : Cause
  sub : Nat
  lanes : Mask
  word : IWord
  fav : Bool
  repl : Bool
  recs : List LaneRec
  op : Option Nat
  leaving : Mask := 0
  deriving DecidableEq, Repr

/-- The role of a warp (R344). -/
inductive Role where
  | none | copy | matrix | vector
  deriving DecidableEq, Repr

/-- How a warp came to run: in a workgroup of a pass or of a launch that is no pass, as a fragment warp (R208), or relaunched by
the reorder unit (R230). -/
inductive WarpKind where
  | group | fragment | relaunched
  deriving DecidableEq, Repr

/-- A triangle handed over by PRIMEMIT (R197): key, attribute count, clip coordinates of the three vertices, attribute words. -/
structure Tri where
  ctx : Nat
  graph : Option Nat
  pass : Nat
  stack : Nat
  key : Word
  na : Nat
  pos : List Word
  attr : List Word
  deriving DecidableEq, Repr

/-- What a fragment warp knows of its triangle and block (R208 to R210). -/
structure Frag where
  tri : Tri
  tile : Nat
  x0 : Nat
  y0 : Nat
  covered : Mask
  deriving DecidableEq, Repr

/-- The captured operand A of a matrix instruction: rows of words, scale words, its type, and whether MMAQ captured it
(R154, R155, R171). -/
structure ARows where
  rows : List (Nat × List Word)
  scales : List (Nat × List Word)
  ty : Ty
  block : Bool
  deriving DecidableEq, Repr

/-- A resident warp (R60, R62, R344 to R370, R415, R416). `cvsetWait` keeps the register and watchdog count of each lane that waits
at CVSET (R138), `wins` what is left of the windows of completed instructions (R44). -/
structure Warp where
  ctx : Nat
  wg : Nat
  warpid : Nat
  kind : WarpKind
  role : Role
  launched : Mask
  exited : Mask
  leaving : Mask
  nv : Nat
  ns : Nat
  hmode : Mask
  latch : Option Trap
  holds : List Trap
  fpflags : BitVec 5
  fpctl : BitVec 4
  trapbase : BitVec 64
  traphandler : Word
  wdog : Word
  rotMark : Word
  slotCount : Nat
  rotNext : Bool
  yieldLeft : Nat
  demotedLeft : Nat
  waited : Nat
  aged : Bool
  halted : Bool
  k : Nat
  tile : Option Nat
  latchA : Option ARows
  frag : Option Frag
  order : Nat
  cvsetWait : NMap (Nat × Nat)
  wins : List Window
  deriving DecidableEq, Repr

/-- The registers of every warp slot (R60, R233), as sparse stores with the defaults named at each accessor. -/
structure RegFile where
  v : NMap Word
  p : NMap (BitVec 16)
  bt : NMap Word
  lc : NMap Word
  lk : NMap Word
  pc : NMap Word
  rng : NMap Word
  s : NMap Word
  cv : NMap Word
  hv : NMap Word
  hs : NMap Word
  deriving DecidableEq, Repr

/-- The signatures open at a convergence register (R371): signed lanes, those with a true guard, the recorded pc, word and
instruction, the watchdog count of each signer, the signers that went on from a handler without waiting (`passed`), the operand values of each
signer as it signed (R418), and whether a pre-emption suspended them (R385). -/
structure Sign where
  signed : Mask
  guard : Mask
  pc : Word
  word : IWord
  instr : Option Instr
  count : NMap Nat
  passed : Mask
  recs : List LaneRec
  susp : Bool
  deriving DecidableEq, Repr

/-- A cached translation (R397), tagged with its context: the first address and the size of what it covers, and its leaf entry; or, at
a level below 6, the table of that level for those addresses. `unit` is the cache: a core's by its number, a stack's at 192 and above. -/
structure TlbEntry where
  ctx : Nat
  va : Nat
  size : Nat
  frame : Nat
  host : Bool
  w : Bool
  x : Bool
  unit : Nat
  level : Nat
  deriving DecidableEq, Repr

/-- A loft reservation (R157). -/
structure Resv where
  offset : Nat
  size : Nat
  ty : Ty
  blk : Nat
  sparse : Nat
  scaleOfs : Nat
  indexOfs : Nat
  deriving DecidableEq, Repr

/-- The part of a workgroup on one core: what %sat0 to %sat3 describe (R261), and its reservations (R149). -/
structure WgCore where
  cid : Nat
  slot0 : Nat
  nwarp : Nat
  sbase : Nat
  ssize : Nat
  cbase : Nat
  csize : Nat
  loftb : Nat
  lsize : Nat
  acc0 : Nat
  accn : Nat
  resv : NMap Resv
  deriving DecidableEq, Repr

/-- A launch record (R333). -/
structure LaunchRec where
  codebase : Nat
  codelen : Nat
  constbase : Nat
  constlen : Nat
  seed : Word
  handler : Word
  trapofs : Nat
  privsize : Nat
  privbase : Nat
  deriving DecidableEq, Repr

/-- A workgroup's current range [lo, hi) and its next untaken index (R346, R349). -/
structure WgRange where
  lo : Nat
  next : Nat
  hi : Nat
  deriving DecidableEq, Repr

/-- A workgroup (R337 to R340, R346, R351): `list` holds the indices that RTNEXT returned, `owed` the entry whose index is decided and not
yet taken, `parents` the workgroups whose reorder entries its warp holds (R230). -/
structure Wg where
  ctx : Nat
  graph : Option Nat
  pass : Nat
  serial : Nat
  kind : WarpKind
  gangw : Nat
  gangh : Nat
  warps : Nat
  wgx : Nat
  wgy : Nat
  wgz : Nat
  nv : Nat
  ns : Nat
  cores : List WgCore
  range : Option WgRange
  taken : List Nat
  list : List (Option Nat)
  owed : Option (Nat × Nat)
  launch : LaunchRec
  parents : List Nat
  deriving DecidableEq, Repr

/-- What a matrix instruction carries from its execution to its completion (R170, R173): its tile, A, the reservation and step, the
lanes of C, and the loft's data, scale and index bytes of the step as they stood at its execution (R166). -/
structure MmaJob where
  cid : Nat
  frame : Nat
  a : ARows
  resv : Resv
  loftBase : Nat
  step : Nat
  lanes : Mask
  snap : List Byte × List Byte × List Byte
  deriving DecidableEq, Repr

/-- Why an outstanding instruction has not been performed for the lanes of its `todo` mask: the counted waits of R376, the parked
parts of R378, and the waits of R375. -/
inductive OpWait where
  | none
  | fullEmpty
  | ring
  | lag
  | tile
  | slotFree
  | drain
  | holdRecord
  | engineQueue
  | launchQueue
  | linkFull
  | linkEmpty
  | reorder
  | sliceQueue
  | cutQueue
  | setupQueue
  | rayQueue
  | release
  | order
  | record
  deriving DecidableEq, Repr

/-- An outstanding long-latency instruction (R43 to R47, R268, R378 to R385): the lanes that issued it, those not yet performed,
whether one part stands for all of them (`once`), the instructions left in each lane's window, the values and registers pending, what the part
of each waiting lane waits for with the object of R426, the watchdog count of each waiting lane, the reservation it names (R163), a number
that it has taken (R224, R351, R359), and for each parked lane the faulting address and KIND. `ord` is how its accesses are ordered, `late` says that its registers are written after its completion (R46), `undo` holds what its NXT writes replaced (R39), and `susp`
that a pre-emption suspended it (R385). -/
structure Op where
  w : Nat
  pc : Word
  word : IWord
  instr : Instr
  lanes : Mask
  todo : Mask
  once : Bool
  win : NMap Nat
  recs : List LaneRec
  writes : List RegWrite
  pend : List PendReg
  waits : NMap (OpWait × Nat)
  count : NMap Nat
  seq : Nat
  resv : Option Nat
  mark : Option Nat
  mma : Option MmaJob
  job : Option Nat
  accepted : Bool
  parked : NMap (Nat × Nat)
  ord : MemOrd
  late : Bool
  undo : List RegWrite
  susp : Bool
  deriving DecidableEq, Repr

/-- An arrival counter (R277); `wg` is the workgroup that created it, whose lanes are enrolled (R279). -/
structure Counter where
  ctx : Nat
  serial : Nat
  count : Nat
  target : Nat
  round : Nat
  cid : Nat
  granule : Nat
  addr : BitVec 64
  wg : Nat
  exit : Bool
  auto : Bool
  complete : Bool
  enrolled : List Nat
  arrived : List Nat
  deriving DecidableEq, Repr

/-- A member of a multicast group: the part of one workgroup on one core (R283). -/
structure McMember where
  rank : Nat
  wg : Nat
  cid : Nat
  live : Bool
  deriving DecidableEq, Repr

/-- One generation of a multicast group (R283, R284); `spent` lists the ranks whose job ended without a part in the reduction that the others
wait for (R290, R296). -/
structure McGroup where
  gen : Nat
  n : Nat
  base : Nat
  slot : Nat
  hold : Nat
  anchor : Nat
  members : List McMember
  spent : List Nat
  deriving DecidableEq, Repr

/-- A hold record at a home slice (R286): its key, the physical line (2^60 and above for host memory), its slice, the ranks that have
asked, the timer since completion, the fill's bytes once read with its poisoned granules, and the parts of the fill that have not
landed (rank, granule); whether it stands for asks that wait at the slice for a free record, and the watchdog count of each member whose
parts are held (R376). -/
structure HoldRec where
  ctx : Nat
  gid : Nat
  gen : Nat
  ea : Nat
  pa : Nat
  ofs : Nat
  slice : Nat
  asks : List Nat
  timer : Option Nat
  fill : Option (List Byte)
  bad : List Nat
  held : List (Nat × Nat)
  waiting : Bool
  count : NMap Nat
  deriving DecidableEq, Repr

/-- An engine job (R289 to R297), numbered as the instruction that issued it: who issued it, its operands as read at issue, the
updates of its destination still to be made (each the destination bytes it counts for, and the bytes written in one step, by target:
a fabric physical address, 2^60 and above a host address, 2^61 and above a core's block offset, plus 2^40 through the window), its error, bytes written and progress.
`red` is the group, generation and rank of a collective reduction, `fault` a translation fault it is parked on, `wg` and `home` the workgroup that
issued it, `owns` the runs of memory whose lines it took at acceptance (R249), and `order` its place in acceptance order (R251). `redo` keeps a combined
reduction's updates, all of them, while a member of it may still have to write them again (R297), and `recs` are the two records of a
reduction once read. -/
structure Job where
  ctx : Nat
  stack : Nat
  cid : Nat
  w : Nat
  src : LaneRec
  xform : Bool
  sub : BitVec 8
  out : List (Nat × List (Nat × List Byte))
  err : Nat
  done : Nat
  red : Option (Nat × Nat × Nat)
  scope : Scope
  started : Bool
  fault : Option (Nat × Nat)
  wg : Nat
  home : Wg
  owns : List (Nat × Nat)
  order : Nat
  redo : List (Nat × List (Nat × List Byte))
  recs : Option (Nat × Nat)
  deriving DecidableEq, Repr

/-- A cut-selection job (R189): the addresses of its records, its range, its two records once read, the runs of memory it owns (R193), a
translation fault it is parked on, the workgroup that issued it, the lane that did (R335), and its place in acceptance order (R251). -/
structure CutJob where
  ctx : Nat
  stack : Nat
  cid : Nat
  w : Nat
  atlas : Nat
  view : Nat
  range : Option (Nat × Nat)
  words : Option (Nat × Nat)
  owns : List (Nat × Nat)
  fault : Option (Nat × Nat)
  home : Wg
  lane : Nat
  order : Nat
  deriving DecidableEq, Repr

/-- A resource record (R306). -/
structure ResRec where
  ovbase : Nat
  mta : Nat
  base : Nat
  clear : Word
  tbytes : Nat
  ovslots : Nat
  lowm : Nat
  highm : Nat
  slots : Nat
  ht : Nat
  wt : Nat
  ty : Nat
  cdc : Bool
  trans : Bool
  kind : Nat
  deriving DecidableEq, Repr

/-- An input block of a pass (R309). -/
structure PassIn where
  res : Nat
  k : Int
  all : Bool
  stencil : List (Int × Int)
  deriving DecidableEq, Repr

/-- A pass record (R308, R310). -/
structure PassRec where
  entry : Word
  frag : Word
  gw : Nat
  gh : Nat
  tlog : Nat
  grain : Nat
  vregs : Nat
  sregs : Nat
  scratch : Nat
  column : Nat
  loft : Nat
  acc : Nat
  wgx : Nat
  wgy : Nat
  wgz : Nat
  tlist : Nat
  depth : Nat
  rvec : Nat
  rmat : Nat
  rcpy : Nat
  dispout : Bool
  gangh : Nat
  gangw : Nat
  prio : Nat
  pclass : Nat
  ins : List PassIn
  outs : List (Nat × Int)
  deriving DecidableEq, Repr

/-- An outstanding range of a pass (R346): owned by a workgroup, or unowned. -/
structure RangeRec where
  pass : Nat
  next : Nat
  hi : Nat
  deriving DecidableEq, Repr

/-- A fragment's pixel in a raster tile: stored depth, key, and the two colour outputs (R206, R211). -/
structure Pixel where
  z : Word
  key : Word
  c0 : BitVec 64
  c1 : BitVec 64
  deriving DecidableEq, Repr

/-- An entry of a tile list (R203): the triangle and the raster tile it touches. -/
structure TileEntry where
  graph : Nat
  pass : Nat
  tile : Nat
  tri : Tri
  deriving DecidableEq, Repr

/-- The raster state of one raster tile of a pass (R204, R206, R450): its pixels by y × 64 + x once loaded, the fragment warps that wait
for room (R356), and whether its last processing is over and its colour written back. -/
structure RasterTile where
  pixels : NMap Pixel
  pend : List Frag
  processed : Bool
  written : Bool
  deriving DecidableEq, Repr

/-- An admitted graph (R304 to R324, R346): its yard areas are runs of bytes by resource × 4 + stack. Tile keys are pass × 2^24 + index, resource tile keys resource × 2^24 + index, raster
tile keys pass × 2^24 + index. `tokWait` is a translation fault on which its token write is parked (R324), `stall` those on which accesses to its
raster tiles are (R399). -/
structure Graph where
  ctx : Nat
  stack : Nat
  prio : Nat
  disp : Bool
  dplane : Nat
  dres : Nat
  submit : Word
  tokaddr : Nat
  tokval : BitVec 64
  queue : Option Nat
  launch : LaunchRec
  passes : List PassRec
  ress : List ResRec
  yard : NMap (List (Nat × Nat))
  released : NMap Unit
  taken : NMap Unit
  retired : NMap Unit
  resRetired : NMap Unit
  counts : NMap Nat
  slots : NMap Nat
  freed : NMap Unit
  ranges : List RangeRec
  serials : NMap Nat
  geomDone : NMap Unit
  raster : NMap RasterTile
  listBytes : NMap Nat
  score : Nat
  slot : Nat
  tokWait : Option (Nat × Nat)
  stall : NMap (Nat × Nat)
  deriving DecidableEq, Repr

/-- A graph that waits for admission (R313, R316, R329): from a queue, or from a GLAUNCH; once its checks are done and it waits for
space, the graph and when it began to wait; the queue entry's index and where its status goes; a translation fault it is parked on. `submit` is
the header's SUBMIT once read (R304), `reading` the pass and resource of the record being read (R317). -/
structure AdmReq where
  submit : Word := 0
  reading : Nat × Nat := (0x3F, 0xFF)
  ctx : Nat
  addr : Nat
  queue : Option Nat
  op : Option Nat
  graph : Option Graph
  since : Nat
  entry : Word
  host : Bool
  status : Nat
  fault : Option (Nat × Nat)
  deriving DecidableEq, Repr

/-- A reorder-unit entry (R229): `drain` numbers the drain that has taken it, 0 before one has (R230). -/
structure ReEntry where
  key : BitVec 16
  target : Word
  payload : List Word
  ctx : Nat
  wg : Nat
  drain : Nat
  deriving DecidableEq, Repr

/-- The agent of a parked access (R399). -/
inductive FaultAgent where
  | lane | job | cut | queue
  deriving DecidableEq, Repr

/-- A fault record (R399) that waits to be written, or is outstanding; `op` is the first instruction that parked on it, 0 for another agent, and
`done` says that a reply came before it was written (R400). -/
structure FaultRec where
  serial : Word
  ctx : Nat
  kind : Nat
  level : Nat
  agent : FaultAgent
  va : Nat
  entry : BitVec 64
  ptag : Word
  loc : Nat
  op : Nat
  lanes : Mask
  written : Bool
  done : Bool
  deriving DecidableEq, Repr

/-- An error report (R430). -/
structure ErrRec where
  type : Nat
  store : Nat
  cause : Nat
  flags : Nat
  pa : Nat
  va : Nat
  ctx : Nat
  ptag : Word
  submit : Word
  loc : Nat
  count : Nat
  deriving DecidableEq, Repr

/-- Where the work of a context slot stands: none, running, halting for a pre-emption, saved, or ended and being torn down. -/
inductive CtxPhase where
  | free | running | halting | saved | ending
  deriving DecidableEq, Repr

/-- A context slot (R388); `swapped` lists the column units, by core × 512 + MiB, whose bytes are in its save area (R390, R405). -/
structure Ctx where
  root : BitVec 64
  valid : Bool
  secure : Bool
  gen : BitVec 6
  live : Bool
  ptag : Word
  savebase : BitVec 64
  savelen : Word
  phase : CtxPhase
  launchQ : List Nat
  replies : List (BitVec 64)
  swapped : List Nat
  deriving DecidableEq, Repr

/-- What is kept of a pre-empted context (R386), moved out of the cores, and the digest of its save area (R390). -/
structure Saved where
  warps : NMap Warp
  regs : RegFile
  signs : NMap Sign
  scratch : NMap Byte
  fe : NMap Bool
  loft : NMap Byte
  acc : NMap Word
  links : NMap (List LinkEntry)
  reorder : NMap (List ReEntry)
  ops : NMap Op
  wgs : NMap Wg
  jobs : NMap Job
  cuts : NMap CutJob
  holds : NMap HoldRec
  adms : NMap AdmReq
  draining : List (Nat × Nat × Nat × Nat)
  poison : NMap Unit
  digest : Nat
  deriving DecidableEq, Repr

/-- A submission queue (R326), the admitted graphs that have not completed, and a translation fault it is parked on with the stop cause that a
FAIL reply gives it (R328). -/
structure Queue where
  qbase : BitVec 64
  qctl : Word
  stat : Nat
  cause : Nat
  qhead : Word
  qtail : Word
  graphs : List Nat
  fault : Option (Nat × Nat)
  fcause : Nat
  deriving DecidableEq, Repr

/-- A display plane (R447, R330): registers, the values latched at the last deadline, the completed graphs not yet shown, the
resource shown, that of PBASE while no graph has completed, and the size of its output's picture, none while the output is disabled (R449). -/
structure Plane where
  pctl : Word
  ppos : Word
  pbase : BitVec 64
  pvbl : Word
  ctlNow : Word
  posNow : Word
  done : List (Nat × ResRec)
  shown : Option (Nat × ResRec)
  first : Option (Nat × ResRec)
  mode : Option (Nat × Nat)
  deriving DecidableEq, Repr

/-- The registers of BAR0 that stand for the card as a whole (R398, R399, R430, R434 to R439), with the mailbox request in progress; whether each
link between other cards is up, by card × 4 + card (R441); its retirement list, measurements and identity
key (R409 to R411, R432); the thermal trip signal (R446); and the firmware images that boot finds (R409). -/
structure CardRegs where
  stage : Nat
  fail : Nat
  fkind : Nat
  ports : BitVec 4
  dropped : BitVec 4
  far : NMap Bool
  modeboot : Word
  moderun : Word
  power : Nat
  mbaddr : BitVec 64
  mblen : Word
  mbstat : Nat
  mbcmd : Nat
  prstat : Word
  prdrop : Word
  prqueue : List Word
  iva : BitVec 64
  inum : Word
  ictx : Word
  idone : Word
  igo : List (Word × Nat × Nat × Nat)
  fbbase : BitVec 64
  fbctl : Word
  fbhead : Word
  fbtail : Word
  fbserial : Word
  ebbase : BitVec 64
  ebctl : Word
  ebhead : Word
  ebtail : Word
  ebdrop : Word
  ebserial : Word
  msix : BitVec 16
  trip : Bool
  retired : List (Nat × Nat × Nat)
  meas : List (Nat × Nat × List Byte)
  idPub : List Byte
  idKey : List Byte
  images : List (List Byte)
  deriving DecidableEq, Repr

/-- The error block and promotion registers of a stack, the promotion epochs that have ended, and the slice cycles of this one (R7, R401,
R402, R428). -/
structure StackRegs where
  ce : NMap Word
  ue : Word
  mcstale : Word
  tagdrop : Word
  promctl : Word
  promabort : Word
  epoch : Nat
  sc : Nat
  deriving DecidableEq, Repr

/-- A promotion in progress (R401, R402): the frame, the yard unit that receives the copy, the lines written since, and the
context and page that triggered it. -/
structure Promo where
  stack : Nat
  frame : Nat
  yard : Nat
  marked : List Nat
  ctx : Nat
  page : Nat
  deriving DecidableEq, Repr

/-- The heat state (R443, R444): bank readings and tiers, hotspot readings, banks in refresh, %talw, the board allowance. -/
structure Thermal where
  bankTemp : NMap Int
  bankTier : NMap Nat
  hot : NMap Int
  refreshing : NMap Unit
  talw : NMap Nat
  b : Nat
  deriving DecidableEq, Repr

/-- Memory and caches: home memory by fabric physical address, host memory by bus address, L1 bytes by cid × 2^52 + physical
address, each with whether the core's lanes have written it and not yet written it back (R239), the translation caches, poison marks by class × 2^60 + unit, and
the words of code that the instruction cache keeps by launch × 2^61 + address / 4 (R24, R34, R239, R242, R397, R429). -/
structure Memory where
  home : List Host.Cell
  host : List Host.Cell
  l1 : NMap (Byte × Bool)
  tlb : List TlbEntry
  poison : NMap Unit
  moved : NMap Nat
  promos : List Promo
  icache : NMap Word
  deriving DecidableEq, Repr

/-- The cores' stores (R149, R231, R254): scratch bytes by cid × 2^20 + offset, full-empty bits by cid × 2^16 + granule, loft by
cid × 2^18 + offset, accumulators by cid × 2^16 + frame × 2^11 + row × 64 + column; owner tags (R403) of scratch by
cid × 4096 + unit, loft by cid × 256 + unit, accumulators by cid × 32 + frame, warp slots by warp, columns by cid × 512 + MiB, and the context
that last held a column unit (R405); cycle counts; links, each entry with the workgroup of its gang (R303), reorder units, matrix slices. -/
structure Cores where
  scratch : NMap Byte
  fe : NMap Bool
  loft : NMap Byte
  acc : NMap Word
  tagScratch : NMap Nat
  tagLoft : NMap Nat
  tagAcc : NMap Nat
  tagSlot : NMap Nat
  tagCol : NMap Nat
  lastCol : NMap Nat
  cycles : NMap Nat
  links : NMap (List LinkEntry)
  flight : NMap (List LinkEntry)
  reorder : NMap (List ReEntry)
  reTimer : NMap Nat
  slices : NMap (List Nat)
  running : NMap Nat
  deriving DecidableEq, Repr

/-- Which worlds blocks and regions are in: the secure ones are listed; and the changes that wait until their block is idle (R391). -/
structure Worlds where
  blocks : List BlockId
  gddr : NMap Unit
  columns : NMap Unit
  yard : NMap Unit
  pending : List (BlockId × Bool)
  deriving DecidableEq, Repr

/-- The issue slot in progress (R364): the warp, its issuing lanes, their pc and the word fetched; and the lane set that may issue
beside it on port 1. With an empty mask nothing issues. -/
structure Cur where
  w : Nat
  mask : Mask
  pc : Word
  word : IWord
  second : Option (Mask × Word)
  deriving DecidableEq, Repr

structure State where
  /-- The steps named to come: the model's own field (log entry 2). -/
  agenda : List Instr
  /-- The counter of free values: the model's own field (log entry 4). -/
  free : Nat
  /-- The issue slot in progress: the model's own field (log entry 2). -/
  cur : Cur
  /-- The last serial number given to an operation, job, workgroup, graph or request: the model's own field (log entry 2). -/
  serial : Nat
  regs : RegFile
  warps : NMap Warp
  signs : NMap Sign
  ops : NMap Op
  wgs : NMap Wg
  cores : Cores
  mem : Memory
  counters : NMap Counter
  ctrSerials : NMap Nat
  groups : NMap McGroup
  gens : NMap Nat
  holds : NMap HoldRec
  jobs : NMap Job
  cuts : NMap CutJob
  graphs : NMap Graph
  adms : NMap AdmReq
  setup : NMap (List Tri)
  entries : NMap (List TileEntry)
  lists : NMap (List TileEntry)
  draining : List (Nat × Nat × Nat × Nat)
  lastPass : NMap Nat
  ctxs : NMap Ctx
  saved : NMap Saved
  queues : NMap Queue
  planes : NMap Plane
  card : CardRegs
  stackRegs : NMap StackRegs
  faults : List FaultRec
  errCounts : NMap (Nat × Nat)
  thermal : Thermal
  worlds : Worlds
  hostRead : List Byte
  /-- Whether the last host read completed with its poisoned bit set (R429). -/
  hostEp : Bool
  /-- Whether the sweep over the machine's own events has been named since the last slot: the model's own field (log entry 2). -/
  poll : Nat
  /-- The quarters that have had their slot in this cycle: the model's own field (log entry 2). -/
  served : List Nat
  deriving DecidableEq, Repr

/-- No registers held (R60; values at reset of log entry 1 come from the accessors' defaults). -/
def RegFile.empty : RegFile :=
  { v := [], p := [], bt := [], lc := [], lk := [], pc := [], rng := [], s := [], cv := [], hv := [], hs := [] }

/-- The card's registers after reset (R435, R438, R443 and log entry 1). -/
def CardRegs.reset : CardRegs :=
  { stage := 0, fail := 0, fkind := 0, ports := 0, dropped := 0, far := [], modeboot := 2, moderun := 4, power := 0, mbaddr := 0, mblen := 0,
    mbstat := 0, mbcmd := 0, prstat := 0, prdrop := 0, prqueue := [], iva := 0, inum := 0, ictx := 0, idone := 0, igo := [],
    fbbase := 0, fbctl := 0, fbhead := 0, fbtail := 0, fbserial := 0, ebbase := 0, ebctl := 0, ebhead := 0, ebtail := 0,
    ebdrop := 0, ebserial := 0, msix := 0, trip := false, retired := [], meas := [], idPub := [], idKey := [], images := [] }

/-- The registers of a stack after reset: counters 0 (R428), PROMCTL ENABLE 1 and PROMTH 0x10 (R401). -/
def StackRegs.reset : StackRegs :=
  { ce := [], ue := 0, mcstale := 0, tagdrop := 0, promctl := 0x1001#32, promabort := 0, epoch := 0, sc := 0 }

/-- A context slot after reset (R388; log entry 1). -/
def Ctx.reset : Ctx :=
  { root := 0, valid := false, secure := false, gen := 0, live := false, ptag := 0, savebase := 0, savelen := 0, phase := .free,
    launchQ := [], replies := [], swapped := [] }

/-- A submission queue after reset (R326; log entry 1). -/
def Queue.reset : Queue :=
  { qbase := 0, qctl := 0, stat := 0, cause := 0, qhead := 0, qtail := 0, graphs := [], fault := none, fcause := 0 }

/-- A display plane after reset (R447; log entry 1). -/
def Plane.reset : Plane :=
  { pctl := 0, ppos := 0, pbase := 0, pvbl := 0, ctlNow := 0, posNow := 0, done := [], shown := none, first := none, mode := none }

/-- The stores of the cores after reset: nothing resident (log entry 1). -/
def Cores.reset : Cores :=
  { scratch := [], fe := [], loft := [], acc := [], tagScratch := [], tagLoft := [], tagAcc := [], tagSlot := [], tagCol := [], lastCol := [],
    cycles := [], links := [], flight := [], reorder := [], reTimer := [], slices := [], running := [] }

/-- Memory after power-on: nothing listed (log entry 3), caches empty. -/
def Memory.reset : Memory :=
  { home := [], host := [], l1 := [], tlb := [], poison := [], moved := [], promos := [], icache := [] }

/-- No lane issues. -/
def Cur.none : Cur := { w := 0, mask := 0, pc := 0, word := 0, second := Option.none }

/-- The machine right after reset (R433, R435): all state discarded, STAGE 0, the boot ROM about to run. -/
def State.reset : State :=
  { agenda := [], free := 0, cur := Cur.none, serial := 0, regs := RegFile.empty, warps := [], signs := [], ops := [], wgs := [],
    cores := Cores.reset, mem := Memory.reset, counters := [], ctrSerials := [], groups := [], gens := [], holds := [], jobs := [],
    cuts := [], graphs := [], adms := [], setup := [], entries := [], lists := [], draining := [], lastPass := [],
    ctxs := [], saved := [], queues := [], planes := [], card := CardRegs.reset, stackRegs := [], faults := [], errCounts := [],
    thermal := { bankTemp := [], bankTier := [], hot := [], refreshing := [], talw := [], b := 255 },
    worlds := { blocks := [], gddr := [], columns := [], yard := [], pending := [] }, hostRead := [], hostEp := false, poll := 0, served := [] }

end Sys2Proof.Machine
end

