-- ==== Sys2Proof/Machine/Regs.lean ====
section
/-! DEFINITION. Reading and writing the registers of R60 and R62, each through one accessor. -/

namespace Sys2Proof.Machine

/-- A core's number on the card, of a warp's number (R16, R233). -/
def warpCid (w : Nat) : Nat := w / 64

/-- A warp's slot on its core (R233). -/
def warpSlot (w : Nat) : Nat := w % 64

/-- The stack of a core (R14). -/
def cidStack (cid : Nat) : Nat := cid / 48

/-- %coreid of a core (R16). -/
def cidCore (cid : Nat) : Nat := cid % 48

/-- A slot with no warp. -/
def Warp.empty : Warp :=
  { ctx := 0, wg := 0, warpid := 0, kind := .group, role := .none, launched := 0, exited := 0xFFFFFFFF#32, leaving := 0, nv := 0,
    ns := 0, hmode := 0, latch := none, holds := [], fpflags := 0, fpctl := 0, trapbase := 0, traphandler := 0xFFFFFFFF#32,
    wdog := Config.wdogAtLaunch, rotMark := 0xFFFFFFFF#32, slotCount := 0, rotNext := false, yieldLeft := 0, demotedLeft := 0,
    waited := 0, aged := false, halted := false, k := 0, tile := none, latchA := none, frag := none, order := 0,
    cvsetWait := [], wins := [] }

/-- The warp in a slot. -/
def State.warp (s : State) (w : Nat) : Warp := (nmapFind s.warps w).getD Warp.empty

/-- The state with a warp's record replaced. -/
def State.setWarp (s : State) (w : Nat) (x : Warp) : State := { s with warps := nmapSet s.warps w x }

/-- Whether a lane is in handler mode (R419). -/
def State.inHandler (s : State) (w l : Nat) : Bool := (s.warp w).hmode.getLsbD l

/-- The key of a lane. -/
def laneKey (w l : Nat) : Nat := w * 32 + l

/-- A vector register of the interrupted code. -/
def RegFile.getV (r : RegFile) (w l n : Nat) : Word := dmapGet 0 r.v (laneKey w l * 256 + n)

def RegFile.setV (r : RegFile) (w l n : Nat) (x : Word) : RegFile := { r with v := dmapSet 0 r.v (laneKey w l * 256 + n) x }

/-- A bank register hv (R416, R419). -/
def RegFile.getHv (r : RegFile) (w l n : Nat) : Word := dmapGet 0 r.hv (laneKey w l * 32 + n)

def RegFile.setHv (r : RegFile) (w l n : Nat) (x : Word) : RegFile := { r with hv := dmapSet 0 r.hv (laneKey w l * 32 + n) x }

/-- A scalar register of the interrupted code. -/
def RegFile.getS (r : RegFile) (w n : Nat) : Word := dmapGet 0 r.s (w * 1024 + n)

def RegFile.setS (r : RegFile) (w n : Nat) (x : Word) : RegFile := { r with s := dmapSet 0 r.s (w * 1024 + n) x }

/-- A bank register hs. -/
def RegFile.getHs (r : RegFile) (w n : Nat) : Word := dmapGet 0 r.hs (w * 64 + n)

def RegFile.setHs (r : RegFile) (w n : Nat) (x : Word) : RegFile := { r with hs := dmapSet 0 r.hs (w * 64 + n) x }

/-- The sixteen predicates of a lane. -/
def RegFile.getPs (r : RegFile) (w l : Nat) : BitVec 16 := dmapGet 0 r.p (laneKey w l)

def RegFile.getP (r : RegFile) (w l n : Nat) : Bool := (r.getPs w l).getLsbD n

def RegFile.setPs (r : RegFile) (w l : Nat) (x : BitVec 16) : RegFile := { r with p := dmapSet 0 r.p (laneKey w l) x }

/-- A bit of a word of sixteen set. -/
def setBit16 (x : BitVec 16) (n : Nat) (b : Bool) : BitVec 16 :=
  if b then x ||| (1#16 <<< n) else x &&& ~~~(1#16 <<< n)

def RegFile.setP (r : RegFile) (w l n : Nat) (b : Bool) : RegFile := r.setPs w l (setBit16 (r.getPs w l) n b)

def RegFile.getBt (r : RegFile) (w l n : Nat) : Word := dmapGet 0 r.bt (laneKey w l * 8 + n)

def RegFile.setBt (r : RegFile) (w l n : Nat) (x : Word) : RegFile := { r with bt := dmapSet 0 r.bt (laneKey w l * 8 + n) x }

def RegFile.getLc (r : RegFile) (w l n : Nat) : Word := dmapGet 0 r.lc (laneKey w l * 4 + n)

def RegFile.setLc (r : RegFile) (w l n : Nat) (x : Word) : RegFile := { r with lc := dmapSet 0 r.lc (laneKey w l * 4 + n) x }

def RegFile.getLk (r : RegFile) (w l : Nat) : Word := dmapGet 0 r.lk (laneKey w l)

def RegFile.setLk (r : RegFile) (w l : Nat) (x : Word) : RegFile := { r with lk := dmapSet 0 r.lk (laneKey w l) x }

/-- A lane's pc; a lane never launched holds 0xFFFF_FFFF (R33, R60). -/
def RegFile.getPc (r : RegFile) (w l : Nat) : Word := dmapGet Config.exitedPc r.pc (laneKey w l)

def RegFile.setPc (r : RegFile) (w l : Nat) (x : Word) : RegFile := { r with pc := dmapSet Config.exitedPc r.pc (laneKey w l) x }

/-- A lane's generator (R61): never 0. -/
def RegFile.getRng (r : RegFile) (w l : Nat) : Word := dmapGet 1 r.rng (laneKey w l)

/-- Writing %rng: 0 stores 1 (R61). -/
def RegFile.setRng (r : RegFile) (w l : Nat) (x : Word) : RegFile :=
  { r with rng := dmapSet 1 r.rng (laneKey w l) (if x = 0 then 1 else x) }

def RegFile.getCv (r : RegFile) (w n : Nat) : Word := dmapGet 0 r.cv (w * 8 + n)

def RegFile.setCv (r : RegFile) (w n : Nat) (x : Word) : RegFile := { r with cv := dmapSet 0 r.cv (w * 8 + n) x }

/-- vn as an instruction of the lane names it: hvn in handler mode (R56). -/
def State.rdV (s : State) (w l n : Nat) : Word :=
  if s.inHandler w l then s.regs.getHv w l n else s.regs.getV w l n

/-- sn as an instruction of the lane names it: hsn in handler mode (R56). -/
def State.rdS (s : State) (w l n : Nat) : Word :=
  if s.inHandler w l then s.regs.getHs w n else s.regs.getS w n

/-- Writing %fpctl: codes 110 and 111 store 000 (R61, R408). -/
def fpctlStore (x : Word) : BitVec 4 :=
  if x.extractLsb' 0 3 = 6 ∨ x.extractLsb' 0 3 = 7 then x.extractLsb' 3 1 ++ 0#3 else x.extractLsb' 0 4

/-- The unit of a poison mark on a register (R427, R429): vector, scalar, then their banks. -/
def regUnit (x : RegWrite) (w : Nat) : Option Nat :=
  match x with
  | .v l n _ => some (laneKey w l * 256 + n)
  | .s n _ => some (2 ^ 40 + w * 1024 + n)
  | .hv l n _ => some (2 ^ 41 + laneKey w l * 32 + n)
  | .hs n _ => some (2 ^ 42 + w * 64 + n)
  | _ => none

/-- A register written whole loses its poison mark (R429). -/
def State.unpoison (s : State) (w : Nat) (x : RegWrite) : State :=
  match regUnit x w with
  | some u => { s with mem := { s.mem with poison := nmapErase s.mem.poison (2 ^ 60 + u) } }
  | none => s

/-- One register write. -/
def State.putReg (s : State) (w : Nat) (x : RegWrite) : State :=
  match x with
  | .v l n d => { s with regs := s.regs.setV w l n d }
  | .hv l n d => { s with regs := s.regs.setHv w l n d }
  | .s n d => { s with regs := s.regs.setS w n d }
  | .hs n d => { s with regs := s.regs.setHs w n d }
  | .p l n b => { s with regs := s.regs.setP w l n b }
  | .bt l n d => { s with regs := s.regs.setBt w l n d }
  | .lc l n d => { s with regs := s.regs.setLc w l n d }
  | .lk l d => { s with regs := s.regs.setLk w l d }
  | .cv n d => { s with regs := s.regs.setCv w n d }
  | .rng l d => { s with regs := s.regs.setRng w l d }
  | .tile k i j d => { s with cores := { s.cores with acc := dmapSet 0 s.cores.acc (k * 2048 + i * 64 + j) d } }
  | .fpctl d => s.setWarp w { s.warp w with fpctl := fpctlStore d }
  | .fpflags d => s.setWarp w { s.warp w with fpflags := d.extractLsb' 0 5 }
  | .trapbase d => s.setWarp w { s.warp w with trapbase := d &&& ~~~63#64 }
  | .traphandler d => s.setWarp w { s.warp w with traphandler := d }
  | .wdog d => s.setWarp w { s.warp w with wdog := d }

/-- One register write applied. -/
def State.applyWrite (s : State) (w : Nat) (x : RegWrite) : State := (s.putReg w x).unpoison w x

/-- Register writes applied in order. -/
def State.applyWrites (s : State) (w : Nat) (xs : List RegWrite) : State := xs.foldl (fun s x => s.applyWrite w x) s

/-- Whether a write goes to a register shared by the warp (R57). -/
def RegWrite.shared (x : RegWrite) : Bool :=
  match x with
  | .s _ _ | .hs _ _ | .cv _ _ | .fpctl _ | .fpflags _ | .trapbase _ | .traphandler _ | .wdog _ => true
  | _ => false

/-- A workgroup with nothing. -/
def LaunchRec.empty : LaunchRec :=
  { codebase := 0, codelen := 0, constbase := 0, constlen := 0, seed := 0, handler := 0xFFFFFFFF#32, trapofs := 0, privsize := 0,
    privbase := 0 }

def Wg.empty : Wg :=
  { ctx := 0, graph := none, pass := 0, serial := 0, kind := .group, gangw := 1, gangh := 1, warps := 0, wgx := 1, wgy := 1, wgz := 1,
    nv := 0, ns := 0, cores := [], range := none, taken := [], list := [], owed := none, launch := LaunchRec.empty, parents := [] }

/-- The workgroup of a warp. -/
def State.wgOf (s : State) (w : Nat) : Wg := (nmapFind s.wgs (s.warp w).wg).getD Wg.empty

/-- The part of a workgroup on a core, with its gang position (R261, R338). -/
def wgCoreAt (cid : Nat) (k : Nat) (xs : List WgCore) : Option (Nat × WgCore) :=
  match xs with
  | [] => none
  | c :: t => if c.cid = cid then some (k, c) else wgCoreAt cid (k + 1) t

def WgCore.empty : WgCore :=
  { cid := 0, slot0 := 0, nwarp := 1, sbase := 0, ssize := 0, cbase := 0, csize := 0, loftb := 0, lsize := 0, acc0 := 0, accn := 0,
    resv := [] }

/-- The part of a warp's workgroup on its core. -/
def State.wgCoreOf (s : State) (w : Nat) : WgCore :=
  match wgCoreAt (warpCid w) 0 (s.wgOf w).cores with
  | some (_, c) => c
  | none => WgCore.empty

/-- This card's number, MODEBOOT.CARD (R438). -/
def State.cardNo (s : State) : Nat := (s.card.modeboot.extractLsb' 5 2).toNat

/-- The scratch allocation descriptors (R261). -/
def satValue (c : WgCore) (k : Nat) : Word :=
  match k with
  | 0 => BitVec.ofNat 32 (c.accn * 2 ^ 26 + c.acc0 * 2 ^ 21 + c.loftb * 2 ^ 13 + c.nwarp * 2 ^ 6 + c.slot0)
  | 1 => BitVec.ofNat 32 (c.ssize * 2 ^ 12 + c.sbase)
  | 2 => BitVec.ofNat 32 (c.csize * 2 ^ 9 + c.cbase)
  | 3 => BitVec.ofNat 32 (c.lsize / 256)
  | _ => 0

/-- %tid of a lane (R338): thread n = x + WGX × (y + WGY × z); fragment and relaunched warps as R209 and R230 give. -/
def tidOf (x : Warp) (g : Wg) (l k : Nat) : Word :=
  let n := x.warpid * 32 + l
  let gx := max g.wgx 1
  let gy := max g.wgy 1
  match x.kind with
  | .group => BitVec.ofNat 32 (if k = 0 then n % gx else if k = 1 then n / gx % gy else n / gx / gy)
  | _ => if k = 0 then BitVec.ofNat 32 l else 0

/-- %wgid (R349; R209 and R230 for warps outside the dispatch). -/
def wgidOf (x : Warp) (g : Wg) (k : Nat) : Word :=
  match x.kind with
  | .group => if k = 0 then BitVec.ofNat 32 g.serial else 0
  | _ => 0xFFFFFFFF#32

/-- %gangpos (R62, R338). -/
def gangposOf (g : Wg) (cid : Nat) : Word :=
  let pos := match wgCoreAt cid 0 g.cores with | some (k, _) => k | none => 0
  BitVec.ofNat 32 (pos % max g.gangw 1 + pos / max g.gangw 1 * 2 ^ 8 + g.gangw * 2 ^ 16 + g.gangh * 2 ^ 24)

/-- The grid width of a warp's pass, for %tile_x and %tile_y (R349). -/
def State.passOf (s : State) (g : Wg) : Option PassRec :=
  match g.graph with
  | none => none
  | some k => match nmapFind s.graphs k with
    | none => none
    | some gr => gr.passes[g.pass]?

/-- %tile_x (k = 0) and %tile_y (R349). -/
def State.tileCoord (s : State) (x : Warp) (g : Wg) (k : Nat) : Word :=
  match x.kind, x.tile, s.passOf g with
  | .group, some i, some p => BitVec.ofNat 32 (if k = 0 then i % max p.gw 1 else i / max p.gw 1)
  | _, _, _ => 0xFFFFFFFF#32

/-- %range_lo (k = 0) and %range_hi (R349). -/
def rangeValue (x : Warp) (g : Wg) (k : Nat) : Word :=
  match x.kind, g.range with
  | .group, some r => BitVec.ofNat 32 (if k = 0 then r.lo else r.hi)
  | _, _ => 0xFFFFFFFF#32

/-- The local cycle count of a core (R62). -/
def State.cyclesOf (s : State) (cid : Nat) : Nat := dmapGet 0 s.cores.cycles cid

/-- A special register as a lane sees it, zero-extended to 64 bits (R62, R407). `mask` is the lanes that issue the instruction. -/
def State.readSr (s : State) (w l : Nat) (mask : Mask) (n : Nat) : BitVec 64 :=
  let x := s.warp w
  let g := s.wgOf w
  let cid := warpCid w
  let z (y : Word) : BitVec 64 := y.zeroExtend 64
  let ofN (k : Nat) : BitVec 64 := BitVec.ofNat 64 k
  match n with
  | 0x00 => ofN l
  | 0x01 => ofN x.warpid
  | 0x02 => ofN (warpSlot w / 16)
  | 0x03 => ofN (cidCore cid)
  | 0x04 => ofN (cidStack cid)
  | 0x05 => ofN s.cardNo
  | 0x08 => z (wgidOf x g 0)
  | 0x09 => z (wgidOf x g 1)
  | 0x0A => z (wgidOf x g 2)
  | 0x0B => z (tidOf x g l 0)
  | 0x0C => z (tidOf x g l 1)
  | 0x0D => z (tidOf x g l 2)
  | 0x0E => z (gangposOf g cid)
  | 0x10 => z (s.tileCoord x g 0)
  | 0x11 => z (s.tileCoord x g 1)
  | 0x12 => z (if g.graph.isSome then BitVec.ofNat 32 g.pass else 0xFFFFFFFF#32)
  | 0x13 => z (rangeValue x g 0)
  | 0x14 => z (rangeValue x g 1)
  | 0x20 => z x.launched
  | 0x21 => z mask
  | 0x22 => z x.exited
  | 0x30 => x.fpflags.zeroExtend 64
  | 0x31 => x.fpctl.zeroExtend 64
  | 0x32 => z (s.regs.getRng w l)
  | 0x40 => ofN (s.cyclesOf cid)
  | 0x41 => ofN (dmapGet 255 s.thermal.talw cid)
  | 0x42 => ofN x.ctx
  | 0x50 => x.trapbase
  | 0x51 => z x.traphandler
  | 0x52 => z x.wdog
  | _ => if 0x60 ≤ n ∧ n ≤ 0x6F then z (satValue (s.wgCoreOf w) (n - 0x60)) else 0

end Sys2Proof.Machine
end

