-- ==== Sys2Proof/Machine/Operands.lean ====
section
/-! DEFINITION. Reading operands and forming destination writes (R51, R53 to R57, R73, R74). -/

namespace Sys2Proof.Machine

/-- The four bytes of a word from one byte in each. -/
def rep4 (x : Nat) : Nat := (x % 256) * 0x01010101

/-- A short immediate as the bits of an operand type (R54): exact, so that any rounding mode gives the same bits. -/
def immBits (t : Ty) (k : BitVec 9) : BitVec 64 :=
  let x := k.toInt
  let fl (u : Ty) : Nat :=
    if u = .e8m0 then (toE8m0 .rne 0 (.fin (decide (x < 0)) x.natAbs 0)).1
    else ((ffmt u).deliver .rne 0 false false (.fin (decide (x < 0)) x.natAbs 0)).bits
  match t with
  | .i64 | .n64 => BitVec.ofInt 64 x
  | .f64 | .f32 | .f16 | .bf16 | .e4m3 | .e5m2 | .e3m2 | .e2m3 | .e2m1 | .e8m0 => BitVec.ofNat 64 (fl t)
  | .f16x2 | .bf16x2 => BitVec.ofNat 64 (fl t * 0x10001)
  | .i8x4 | .n8x4 => BitVec.ofNat 64 (rep4 (BitVec.ofInt 8 x).toNat)
  | _ => (BitVec.ofInt 32 x).zeroExtend 64

/-- Where an instruction reads its operands: the warp, the lane, the lanes that issue it, the lanes of M it acts for, its index; `undo` is what
the NXT writes of lanes that have moved on replaced (R39). -/
structure Rd where
  w : Nat
  l : Nat
  mask : Mask
  m : Mask
  pc : Word
  undo : List RegWrite := []
  deriving DecidableEq, Repr

/-- A 64-bit value from a pair, the low half first (R56). -/
def pair64 (lo hi : Word) : BitVec 64 := hi ++ lo

/-- The value of a source operand of a type, in 64 bits (R53 to R56). -/
def State.src (s : State) (c : Rd) (t : Ty) (o : Opnd) : BitVec 64 :=
  let wide : Bool := tyRegs t = 2
  match o with
  | .v n => if wide then pair64 (s.rdV c.w c.l n.toNat) (s.rdV c.w c.l (n.toNat + 1)) else (s.rdV c.w c.l n.toNat).zeroExtend 64
  | .s n => if wide then pair64 (s.rdS c.w c.l n.toNat) (s.rdS c.w c.l (n.toNat + 1)) else (s.rdS c.w c.l n.toNat).zeroExtend 64
  | .sr n =>
    let x := s.readSr c.w c.l c.mask n.toNat
    if wide then x else (x.truncate 32).zeroExtend 64
  | .imm k => immBits t k
  | .p n => if s.regs.getP c.w c.l n.toNat then 1 else 0
  | .bt n => (s.regs.getBt c.w c.l n.toNat).zeroExtend 64
  | .lc n => (s.regs.getLc c.w c.l n.toNat).zeroExtend 64
  | .cv n => (s.regs.getCv c.w n.toNat).zeroExtend 64
  | .lk => (s.regs.getLk c.w c.l).zeroExtend 64
  | .pc => c.pc.zeroExtend 64
  | .zr => 0
  | .acc _ => 0

/-- Whether a type takes a register pair (R56). -/
def isWide (t : Ty) : Bool := tyRegs t = 2

/-- The sources of format R as numbers, of given types. -/
def srcN (s : State) (c : Rd) (t : Ty) (o : Opnd) : Nat := (s.src c t o).toNat

/-- The low word of a source operand. -/
def State.src32 (s : State) (c : Rd) (t : Ty) (o : Opnd) : Word := (s.src c t o).truncate 32

/-- A predicate operand; the zero register reads 0 (R118). -/
def State.srcP (s : State) (c : Rd) (o : Opnd) : Bool := (s.src c .b32 o) ≠ 0

/-- The writes of a destination that takes a value of one register or of a pair (R53, R56), as the lane's mode names the register
(`hm`: handler mode). The zero register takes none. -/
def dstWrites (hm : Bool) (o : Opnd) (l : Nat) (wide : Bool) (x : BitVec 64) : List RegWrite :=
  let lo : Word := x.truncate 32
  let hi : Word := x.extractLsb' 32 32
  let v (n : Nat) (d : Word) : RegWrite := if hm then .hv l n d else .v l n d
  let sc (n : Nat) (d : Word) : RegWrite := if hm then .hs n d else .s n d
  match o with
  | .v n => if wide then [v n.toNat lo, v (n.toNat + 1) hi] else [v n.toNat lo]
  | .s n => if wide then [sc n.toNat lo, sc (n.toNat + 1) hi] else [sc n.toNat lo]
  | .p n => [.p l n.toNat (x.getLsbD 0)]
  | .bt n => [.bt l n.toNat lo]
  | .lc n => [.lc l n.toNat lo]
  | .lk => [.lk l lo]
  | .cv n => [.cv n.toNat lo]
  | .sr _ | .imm _ | .pc | .zr | .acc _ => []

/-- The width of an integer type's value in bits (R73); an element's for a packed type. -/
def intW (t : Ty) : Nat :=
  match t with
  | .i8 | .n8 | .i8x4 | .n8x4 => 8
  | .i16 | .n16 => 16
  | .i64 | .n64 => 64
  | _ => 32

/-- Whether an integer type is signed (R73). -/
def intSigned (t : Ty) : Bool := [Ty.i8, .i16, .i32, .i64, .i8x4].contains t

/-- The integer that an operand of a type holds in its low bits (R73). -/
def intOf (t : Ty) (x : Nat) : Int :=
  let w := intW t
  let y := x % 2 ^ w
  if intSigned t && decide (2 ^ (w - 1) ≤ y) then (y : Int) - 2 ^ w else y

/-- NEG and ABS on the exact value of an integer operand (R51). -/
def intMods (neg abs : Bool) (x : Int) : Int :=
  let y := if abs then (x.natAbs : Int) else x
  if neg then -y else y

/-- The least value of an integer type. -/
def intMin (t : Ty) : Int := if intSigned t then -(2 ^ (intW t - 1)) else 0

/-- The greatest value of an integer type. -/
def intMax (t : Ty) : Int := if intSigned t then 2 ^ (intW t - 1) - 1 else 2 ^ intW t - 1

/-- A result clamped to its type when SAT is set (R74). -/
def intSat (t : Ty) (sat : Bool) (x : Int) : Int := if sat then max (intMin t) (min (intMax t) x) else x

/-- A result written in its type: wrapped or clamped (R74), then extended to the register by the type's sign (R73). -/
def intRes (t : Ty) (sat : Bool) (x : Int) : BitVec 64 :=
  let y := BitVec.ofInt 64 (intOf t (BitVec.ofInt 64 (intSat t sat x)).toNat)
  if intW t = 64 then y else (y.truncate 32).zeroExtend 64

/-- One element of a packed integer result. -/
def intElem (t : Ty) (sat : Bool) (x : Int) : Nat := (BitVec.ofInt 8 (intSat t sat x)).toNat

/-- Whether a type is a packed integer type. -/
def isPacked4 (t : Ty) : Bool := t = .i8x4 || t = .n8x4

/-- Byte k of a number. -/
def byteOf (x : Nat) (k : Nat) : Nat := x / 2 ^ (8 * k) % 256

/-- The integer type of the packed type's element; other types are themselves. -/
def elemTy (t : Ty) : Ty :=
  match t with
  | .i8x4 => .i8
  | .n8x4 => .n8
  | .f16x2 => .f16
  | .bf16x2 => .bf16
  | t => t

/-- An integer operation of up to three operands over a type, element by element for a packed one (R111). -/
def intApply (t : Ty) (sat : Bool) (f : Int → Int → Int → Int) (ma mb mc : Int → Int) (a b c : Nat) : BitVec 64 :=
  if isPacked4 t then
    let e (k : Nat) : Nat :=
      intElem t sat (f (ma (intOf t (byteOf a k))) (mb (intOf t (byteOf b k))) (mc (intOf t (byteOf c k)))) * 2 ^ (8 * k)
    BitVec.ofNat 64 (e 0 + e 1 + e 2 + e 3)
  else intRes t sat (f (ma (intOf t a)) (mb (intOf t b)) (mc (intOf t c)))

/-- IMM of format I as a value of a type: 32 bits of the type's signedness (R111, R117). -/
def immInt (t : Ty) (k : Word) : Int := if intSigned t then k.toInt else k.toNat

/-- Flush-to-zero in effect (R51). -/
def ftzOn (x : Warp) (mod : Bool) : Bool := mod || x.fpctl.getLsbD 3

/-- Flush-to-zero for a type: .f32, .f16, .bf16 and their packed forms only (R79). -/
def ftzFor (on : Bool) (t : Ty) : Bool := on && tyFlushes t

/-- The rounding mode in effect: .dyn is the code in %fpctl[2:0] (R59). -/
def rndNow (x : Warp) (r : Rnd) : Rnd :=
  match r with
  | .dyn =>
    match (x.fpctl.extractLsb' 0 3).toNat with
    | 0 => .rne | 1 => .rtz | 2 => .rdn | 3 => .rup | 4 => .rna | 5 => .rsr | _ => .rne
  | r => r

/-- Bits of a number counted. -/
def popcountN (k n : Nat) : Nat :=
  match k with
  | 0 => 0
  | j + 1 => n % 2 + popcountN j (n / 2)

/-- The lanes 0 to 31 that a mask holds, in ascending order. -/
def lanesOf (m : Mask) : List Nat := (List.range 32).filter (fun l => m.getLsbD l)

/-- The mask of a list of lanes. -/
def maskOf (ls : List Nat) : Mask := ls.foldl (fun m l => m ||| (1#32 <<< l)) 0

/-- The lowest lane of a mask. -/
def leadOf (m : Mask) : Option Nat := (lanesOf m).head?

/-- One lane of a mask. -/
def bit32 (l : Nat) : Mask := 1#32 <<< l

end Sys2Proof.Machine
end

