-- ==== Sys2Proof/Machine/Memory.lean ====
section
/-! DEFINITION. Physical memory, worlds, translation, and the accesses of one core through its L1 (R22 to R26, R239 to R242,
R391 to R398, R429). -/

namespace Sys2Proof.Machine

/-- Little-endian bytes of a number. -/
def bytesOf (n x : Nat) : List Byte := (List.range n).map (fun k => BitVec.ofNat 8 (x / 2 ^ (8 * k)))

/-- The number that little-endian bytes hold. -/
def ofBytes (bs : List Byte) : Nat := bs.foldr (fun b acc => b.toNat + 256 * acc) 0

/-- The private size P of every column, in bytes (R23, R438). -/
def State.colSize (s : State) : Nat := (s.card.modeboot.extractLsb' 0 4).toNat * 2 ^ 26

/-- Whether a unit is in the applied retirement list (R432, R437): KIND, stack, index. -/
def State.isRetired (s : State) (kind stack idx : Nat) : Bool := s.card.retired.contains (kind, stack, idx)

/-- The end of this card's GDDR-7 (R24, R432, R438): shortened by in-band ECC and by a retired channel. -/
def State.gddrEnd (s : State) : Nat :=
  let half : Bool := s.card.retired.any (fun r => r.1 = 3)
  let ecc : Bool := s.card.modeboot.getLsbD 4
  (if half then if ecc then 62 else 64 else if ecc then 124 else 128) * 2 ^ 30

/-- What a card address names (R24). -/
inductive PaKind where
  | gddr
  | dram (cid ofs : Nat)
  | onchip
  | reserved
  deriving DecidableEq, Repr

/-- The map of R24, for a fabric physical address. -/
def State.paKind (s : State) (pa : Nat) : PaKind :=
  let a := pa % 2 ^ 50
  let own : Bool := pa / 2 ^ 50 = s.cardNo
  if a < (if own then s.gddrEnd else 2 ^ 37) then .gddr
  else if 2 ^ 38 ≤ a ∧ a < 2 ^ 38 + 4 * 2 ^ 35 then
    let st := (a - 2 ^ 38) / 2 ^ 35
    let col := (a - 2 ^ 38) % 2 ^ 35 / 2 ^ 29
    if 48 ≤ col || (own && s.isRetired 2 st col) then .reserved else .dram (st * 48 + col) (a % 2 ^ 29)
  else if 2 ^ 40 ≤ a ∧ a < 2 ^ 41 then .onchip
  else .reserved

/-- The fabric physical address of a byte of a core's column (R24). -/
def State.columnPa (s : State) (cid ofs : Nat) : Nat :=
  s.cardNo * 2 ^ 50 + 2 ^ 38 + cidStack cid * 2 ^ 35 + cidCore cid * 2 ^ 29 + ofs

/-- Whether traffic can reach a card (R440 to R442): this card; a card with a trained port; or one to which a card so linked
has a link of its own. -/
def State.reachable (s : State) (d : Nat) : Bool :=
  let c := s.cardNo
  let n := (s.card.modeboot.extractLsb' 7 2).toNat + 1
  let p0 := (s.card.modeboot.extractLsb' 9 2).toNat
  let linked (e : Nat) : Bool :=
    s.card.ports.getLsbD (c ^^^ e) || (n = 2 && s.card.ports ≠ 0) || (s.card.modeboot.getLsbD 11 && e = p0 && s.card.ports.getLsbD 0)
  decide (d < n) && (d = c || linked d
    || (List.range n).any (fun e => decide (e ≠ c) && decide (e ≠ d) && linked e && dmapGet false s.card.far (e * 4 + d)))

/-- The columns over which a stack's yard is interleaved, in rising order: a retired one is left out (R23, R432). -/
def State.yardColumns (s : State) (stack : Nat) : List Nat := (List.range 48).filter (fun k => !s.isRetired 2 stack k)

/-- The physical address of a byte of a stack's yard (R23, R432): 4 KiB units over its columns. -/
def State.yardPa (s : State) (stack o : Nat) : Nat :=
  let cols := s.yardColumns stack
  let n := max cols.length 1
  s.columnPa (stack * 48 + (cols[o / 4096 % n]?).getD 0) (s.colSize + o / 4096 / n * 4096 + o % 4096)

/-- Bytes of one stack's yard (R23, R432). -/
def State.yardSize (s : State) (stack : Nat) : Nat := (s.yardColumns stack).length * (2 ^ 29 - s.colSize)

/-- The 64 MiB unit of a stack's yard that holds a byte of a column (R23, R391). -/
def State.yardUnitOf (s : State) (cid ofs : Nat) : Nat :=
  let cols := s.yardColumns (cidStack cid)
  let o := (ofs - s.colSize) / 4096 * cols.length + (cols.filter (fun k => decide (k < cidCore cid))).length
  cidStack cid * 2 ^ 12 + o * 4096 / 2 ^ 26

/-- The address at which a promoted frame now has its home (R401): `moved` names the stack and the 64 KiB unit of its yard. -/
def State.homePa (s : State) (pa : Nat) : Nat :=
  match nmapFind s.mem.moved (pa / 65536) with
  | some y => s.yardPa (y / 2 ^ 32) (y % 2 ^ 32 * 65536 + pa % 65536)
  | none => pa

/-- A byte of home memory: a byte nothing has written reads 0 (log entry 3). -/
def State.homeByte (s : State) (pa : Nat) : Byte := dmapGet 0 s.mem.home (s.homePa pa)

/-- The canonical form of memory (log entry 3): in home memory and in host memory addresses rise strictly, and no byte listed is the 0 that
an unlisted address reads as. -/
def Memory.wf (m : Memory) : Bool := dmapWf 0 m.home && dmapWf 0 m.host

/-- Home memory with bytes written from an address on. -/
def putBytes (m : List Host.Cell) (a : Nat) (bs : List Byte) : List Host.Cell :=
  match bs with
  | [] => m
  | b :: t => putBytes (dmapSet 0 m a b) (a + 1) t

/-- Bytes of a store read from an address on. -/
def getBytes (m : List Host.Cell) (a n : Nat) : List Byte := (List.range n).map (fun k => dmapGet 0 m (a + k))

/-- The store class of home memory at an address (R427): 10 GDDR-7, 8 columns, 9 yard. -/
def State.memClass (s : State) (pa : Nat) : Nat :=
  match s.paKind (s.homePa pa) with
  | .dram _ ofs => if ofs < s.colSize then 8 else 9
  | _ => 10

/-- The key of a poison mark (R429). -/
def poisonKey (cls unit : Nat) : Nat := cls * 2 ^ 60 + unit

def State.poisoned (s : State) (cls unit : Nat) : Bool := (nmapFind s.mem.poison (poisonKey cls unit)).isSome

/-- The poison marks left after a write of `n` bytes from byte address `a` of a store with units of `u` bytes: a unit covered whole
loses its mark (R429). -/
def poisonAfter (p : NMap Unit) (cls u a n : Nat) : NMap Unit :=
  p.filter (fun e => !(decide (poisonKey cls ((a + u - 1) / u) ≤ e.1) && decide (e.1 < poisonKey cls ((a + n) / u))))

/-- Whether any unit that bytes [a, a + n) touch is marked. -/
def poisonHit (p : NMap Unit) (cls u a n : Nat) : Bool :=
  p.any (fun e => decide (poisonKey cls (a / u) ≤ e.1) && decide (e.1 < poisonKey cls ((a + n + u - 1) / u)))

/-- Stores to a frame being promoted mark their lines (R401). -/
def promosAfter (ps : List Promo) (a n : Nat) : List Promo :=
  ps.map (fun p =>
    if a / 65536 = p.frame then { p with marked := p.marked ++ ((List.range ((a + n + 127) / 128 - a / 128)).map (· + a / 128)) }
    else p)

/-- What a consumption of poison names: a virtual address, a physical one, or neither. -/
def poisonVa (va : Nat) : BitVec 64 := BitVec.ofNat 64 (2 ^ 62 + va)

/-- A write performed at the home (R239, R240). -/
def State.writeHome (s : State) (pa : Nat) (bs : List Byte) : State :=
  let a := s.homePa pa
  { s with mem := { s.mem with
      home := putBytes s.mem.home a bs,
      poison := poisonAfter (poisonAfter s.mem.poison (s.memClass pa) 32 a bs.length) 4 32 a bs.length,
      promos := promosAfter s.mem.promos pa bs.length } }

/-- Bytes written at the home from an address on, a unit of 32 bytes at a time: one covered whole loses its poison (R429). -/
def State.writeLong (s : State) (pa : Nat) (fuel : Nat) (bs : List Byte) : State :=
  match fuel with
  | 0 => s
  | k + 1 =>
    let n := 32 - pa % 32
    if bs.isEmpty then s else State.writeLong (s.writeHome pa (bs.take n)) (pa + n) k (bs.drop n)

/-- A read performed at the home. -/
def State.readHome (s : State) (pa n : Nat) : List Byte := getBytes s.mem.home (s.homePa pa) n

/-- Whether home bytes are poisoned, in memory or in L2 (R427, R429): the class, if so. -/
def State.homePoison (s : State) (pa n : Nat) : Option Nat :=
  let a := s.homePa pa
  if poisonHit s.mem.poison 4 32 a n then some 4
  else if poisonHit s.mem.poison (s.memClass pa) 32 a n then some (s.memClass pa) else none

/-- 4 KiB of home memory copied, with its poison marks. -/
def State.copy4K (s : State) (src dst cls0 cls1 : Nat) : State :=
  let m := s.mem
  let marks := nmapRange m.poison (poisonKey cls0 (src / 32)) (poisonKey cls0 (src / 32) + 128)
  { s with mem := { m with
      home := dmapMerge 0 (nmapClear m.home dst (dst + 4096)) ((nmapRange m.home src (src + 4096)).map (fun e => (e.1 - src + dst, e.2)))
      poison := nmapMerge (nmapClear m.poison (poisonKey cls1 (dst / 32)) (poisonKey cls1 (dst / 32) + 128))
        (marks.map (fun e => (e.1 - poisonKey cls0 (src / 32) + poisonKey cls1 (dst / 32), ()))) } }

/-- Pages of 4 KiB copied from home to home, as stores to the destination (R390, R401). -/
def State.copyPages (s : State) (src dst n : Nat) : State :=
  (List.range n).foldl (fun (t : State) k =>
    let a := src + 4096 * k
    let b := dst + 4096 * k
    let u := t.copy4K (t.homePa a) (t.homePa b) (t.memClass a) (t.memClass b)
    { u with mem := { u.mem with promos := promosAfter u.mem.promos b 4096 } }) s

/-- Frames of 64 KiB of GDDR-7 written to zero at their homes (R426). -/
def State.zeroFrames (s : State) (base n : Nat) : State :=
  let hit (f : Nat) : Bool := decide (base ≤ 65536 * f) && decide (65536 * f < base + 65536 * n)
  let m := s.mem
  let s1 := { s with mem := { m with
    home := nmapClear m.home base (base + 65536 * n)
    poison := poisonAfter m.poison 10 32 base (65536 * n)
    promos := m.promos.map (fun (p : Promo) => if hit p.frame then { p with marked := p.marked ++ (List.range 512).map (· + 512 * p.frame) } else p) } }
  (m.moved.filter (fun e => hit e.1)).foldl (fun (t : State) e => (List.range 16).foldl (fun (t : State) k =>
    let a := t.homePa (65536 * e.1 + 4096 * k)
    { t with mem := { t.mem with home := nmapClear t.mem.home a (a + 4096), poison := poisonAfter t.mem.poison 9 32 a 4096 } }) t) s1

/-- A write to host memory (R242). -/
def State.writeHost (s : State) (a : Nat) (bs : List Byte) : State :=
  { s with mem := { s.mem with host := putBytes s.mem.host a bs } }

def State.readHost (s : State) (a n : Nat) : List Byte := getBytes s.mem.host a n

/-- The slot of a context identifier (R388). -/
def ctxSlot (c : Nat) : Nat := c % 64

def State.ctx (s : State) (c : Nat) : Ctx := (nmapFind s.ctxs (ctxSlot c)).getD Ctx.reset

def State.setCtx (s : State) (c : Nat) (x : Ctx) : State := { s with ctxs := nmapSet s.ctxs (ctxSlot c) x }

/-- The identifier that a slot's context has (R388). -/
def ctxIdOf (slot : Nat) (x : Ctx) : Nat := x.gen.toNat * 64 + slot

/-- Whether a context identifier names a live context. -/
def State.ctxLive (s : State) (c : Nat) : Bool := (s.ctx c).live && decide (ctxIdOf (ctxSlot c) (s.ctx c) = c)

/-- Whether the region that holds an address is in the secure world (R391): 2 MiB of GDDR-7, a column, 64 MiB of yard. -/
def State.paSecure (s : State) (pa : Nat) : Bool :=
  match s.paKind pa with
  | .gddr => (nmapFind s.worlds.gddr (pa % 2 ^ 50 / 2 ^ 21)).isSome
  | .dram cid ofs => if ofs < s.colSize then (nmapFind s.worlds.columns cid).isSome else (nmapFind s.worlds.yard (s.yardUnitOf cid ofs)).isSome
  | _ => false

/-- Whether a block serves a context: it is of the context's world (R392). -/
def State.blockServes (s : State) (b : BlockId) (c : Nat) : Bool := s.worlds.blocks.contains b = (s.ctx c).secure

/-- Whether an access of a context to an address breaks the worlds (R392). -/
def State.secBreach (s : State) (c pa : Nat) : Bool := s.paSecure pa && !(s.ctx c).secure

/-- The end of a translation (R393 to R396, R392, R429). -/
inductive Tr where
  | to (host : Bool) (a : Nat)
  | fault (kind level : Nat) (entry : BitVec 64)
  | secv
  | poison (cls : Nat)
  deriving DecidableEq, Repr

/-- Bytes that one entry of a level covers (R393). -/
def levelCover (level : Nat) : Nat := 2 ^ (52 - 8 * level)

/-- A leaf entry judged (R394, R396): the page's size, or the fault. -/
def leafJudge (s : State) (level : Nat) (e : BitVec 64) (acc : AccKind) : Except Nat Nat :=
  let host := e.getLsbD 6
  let frame := (e.extractLsb' 12 48).toNat * 4096
  let size := levelCover level * 4 ^ (e.extractLsb' 2 2).toNat
  if level < 3 || (e.extractLsb' 60 4 ≠ 0) || (e.extractLsb' 7 5 ≠ 0) || (!host && e.extractLsb' 52 8 ≠ 0) || frame % size ≠ 0
      || (!host && s.paKind frame ≠ .gddr) then .error 4
  else if acc = .write && !e.getLsbD 4 then .error 2
  else if acc = .fetch && !e.getLsbD 5 then .error 3
  else .ok size

/-- The end of a walk: a leaf with its page, or what stopped it. -/
inductive Walk where
  | leaf (size : Nat) (e : BitVec 64)
  | fault (kind level : Nat) (entry : BitVec 64)
  | secv
  | poison (cls : Nat)
  | unreached (table : Nat)
  deriving DecidableEq, Repr

/-- The walk from a table at a level (R393): one entry is read at each level. A table on a card that no route reaches or that the system has not, or in a
reserved range, cannot be read (R24, R441, R442). -/
def State.walkFrom (s : State) (c va : Nat) (acc : AccKind) (fuel level table : Nat) : Walk :=
  match fuel with
  | 0 => .fault 4 level 0
  | k + 1 =>
    if !s.reachable (table / 2 ^ 50) || s.paKind table = .reserved then .unreached table
    else if s.paKind table ≠ .gddr then .fault 4 level 0
    else
      let a := table + 8 * (va / levelCover level % 256)
      if s.secBreach c a then .secv
      else match s.homePoison a 8 with
        | some cls => .poison cls
        | none =>
          let e := BitVec.ofNat 64 (ofBytes (s.readHome a 8))
          if !e.getLsbD 0 then .fault 1 level e
          else if e.getLsbD 1 then
            match leafJudge s level e acc with
            | .error kind => .fault kind level e
            | .ok size => .leaf size e
          else
            let nxt := (e.extractLsb' 11 41).toNat * 2048
            if level = 5 || e.extractLsb' 52 12 ≠ 0 || e.extractLsb' 2 9 ≠ 0 || s.paKind nxt ≠ .gddr then .fault 4 level e
            else State.walkFrom s c va acc k (level + 1) nxt

/-- Whether a cached entry covers an address of a context (R397). -/
def tlbCovers (c va : Nat) (t : TlbEntry) : Bool := t.ctx = c && decide (t.va ≤ va) && decide (va < t.va + t.size)

/-- Whether a cached page serves an access (R397). -/
def tlbServes (c va : Nat) (acc : AccKind) (t : TlbEntry) : Bool :=
  tlbCovers c va t && t.level = 6 && (match acc with | .read => true | .write => t.w | .fetch => t.x)

/-- A walk of a context's tables (R393), from the deepest table that a stack's cache of table entries names for the address (R397). -/
def State.walkAt (s : State) (stack c va : Nat) (acc : AccKind) : Walk :=
  let hit (k : Nat) : Option TlbEntry := s.mem.tlb.find? (fun t => tlbCovers c va t && t.level = k && t.unit = 192 + stack)
  match [5, 4, 3, 2, 1].findSome? hit with
  | some t => s.walkFrom c va acc (6 - t.level) t.level t.frame
  | none => s.walkFrom c va acc 6 0 ((s.ctx c).root.extractLsb' 11 41 ++ 0#11).toNat

/-- A walk that starts at the root (R393). -/
def State.walk (s : State) (c va : Nat) (acc : AccKind) : Walk :=
  s.walkFrom c va acc 6 0 ((s.ctx c).root.extractLsb' 11 41 ++ 0#11).toNat

/-- The tables that a walk from a table at a level read after it, for an address: level and address of each (R393). -/
def State.tablesFrom (s : State) (va fuel level table : Nat) : List (Nat × Nat) :=
  match fuel with
  | 0 => []
  | k + 1 =>
    let e := BitVec.ofNat 64 (ofBytes (s.readHome (table + 8 * (va / levelCover level % 256)) 8))
    if e.getLsbD 0 && !e.getLsbD 1 && decide (level < 5) then
      let nxt := (e.extractLsb' 11 41).toNat * 2048
      (level + 1, nxt) :: State.tablesFrom s va k (level + 1) nxt
    else []

/-- Entries put in one translation cache, the oldest beyond its size dropped (R397): `own` names the entries of the cache. -/
def tlbPut (ts : List TlbEntry) (own : TlbEntry → Bool) (size : Nat) (new : List TlbEntry) : List TlbEntry :=
  let room := size - new.length
  if (ts.filter own).length ≤ room then new ++ ts
  else new ++ (ts.foldl (fun (a : List TlbEntry × Nat) t =>
    if own t then (if a.2 < room then (t :: a.1, a.2 + 1) else a) else (t :: a.1, a.2)) ([], 0)).1.reverse

/-- A page put in the first-level cache of an agent's core: 512 entries (R397). An agent of a stack has none. -/
def State.tlbCore (s : State) (unit : Nat) (t : TlbEntry) : State :=
  if 192 ≤ unit then s
  else { s with mem := { s.mem with tlb := tlbPut s.mem.tlb (fun e => e.unit = unit) 512 [{ t with unit := unit }] } }

/-- A leaf with the tables on its way put in a stack's caches: 32,768 pages and 4,096 table entries (R397). -/
def State.tlbStack (s : State) (stack c va : Nat) (t : TlbEntry) : State :=
  let root := ((s.ctx c).root.extractLsb' 11 41 ++ 0#11).toNat
  let tabs := (s.tablesFrom va 6 0 root).map (fun e : Nat × Nat =>
    { ctx := c, va := va / levelCover (e.1 - 1) * levelCover (e.1 - 1), size := levelCover (e.1 - 1), frame := e.2, host := false, w := false,
      x := false, unit := 192 + stack, level := e.1 : TlbEntry })
  let mine (leaf : Bool) (e : TlbEntry) : Bool := e.unit = 192 + stack && (decide (e.level = 6) == leaf)
  let ts := s.mem.tlb.filter (fun e => !(mine false e && tabs.any (fun n => n.ctx = e.ctx && n.va = e.va && n.level = e.level)))
  let all := tlbPut (tlbPut ts (mine false) 4096 tabs) (mine true) 32768 [{ t with unit := 192 + stack }]
  { s with mem := { s.mem with tlb := all } }

/-- Translation of a virtual address for an agent (R393 to R398): a core below 192, a stack's engine or other agent above it. The
core's cache serves first, then the cache of its stack's translation agent; otherwise a walk, whose leaf both keep. -/
def State.translateAt (s : State) (unit c va : Nat) (acc : AccKind) : State × Tr :=
  let stack := if unit < 192 then unit / 48 else unit - 192
  match s.mem.tlb.find? (fun t => tlbServes c va acc t && t.unit = unit) with
  | some t => (s, .to t.host (t.frame + (va - t.va)))
  | none =>
    match s.mem.tlb.find? (fun t => tlbServes c va acc t && t.unit = 192 + stack) with
    | some t => (s.tlbCore unit t, .to t.host (t.frame + (va - t.va)))
    | none =>
      match s.walkAt stack c va acc with
      | .leaf size e =>
        let host := e.getLsbD 6
        let frame := (e.extractLsb' 12 48).toNat * 4096
        let t : TlbEntry :=
          { ctx := c, va := va / size * size, size := size, frame := frame, host := host, w := e.getLsbD 4, x := e.getLsbD 5,
            unit := 192 + stack, level := 6 }
        ((s.tlbStack stack c va t).tlbCore unit t, .to host (frame + va % size))
      | .fault kind level e => (s, .fault kind level e)
      | .secv => (s, .secv)
      | .poison cls => (s, .poison cls)
      | .unreached table => (s, .to false table)

/-- Translation for an agent of the card that stands at no core: it goes through stack 0's translation agent (R397). -/
def State.translate (s : State) (c va : Nat) (acc : AccKind) : State × Tr := s.translateAt 192 c va acc

/-- The key of a byte in a core's L1. -/
def l1Key (cid pa : Nat) : Nat := cid * 2 ^ 52 + pa

/-- Whether an address may be kept in L1 and L2 (R241, R242). -/
def State.cacheable (s : State) (pa : Nat) : Bool := pa / 2 ^ 50 = s.cardNo || s.card.moderun.getLsbD 2

/-- Whether runs of bytes [pa, pa + n) and [a, a + m) touch a common line. -/
def sameLine (pa n a m : Nat) : Bool := decide (a / 128 ≤ (pa + n - 1) / 128 ∧ pa / 128 ≤ (a + m - 1) / 128)

/-- Whether a job owns a line that [pa, pa + n) touches (R249, R250): until its updates are worked out, every line taken at its
acceptance; then those that it still has to write. -/
def jobOwns (j : Job) (pa n : Nat) : Bool :=
  if j.started then j.out.any (fun g => g.2.any (fun o => sameLine pa n o.1 o.2.length))
  else j.owns.any (fun o => sameLine pa n o.1 o.2)

/-- Whether a cut-selection job owns a line that [pa, pa + n) touches (R193). -/
def cutOwns (j : CutJob) (pa n : Nat) : Bool := j.owns.any (fun o => sameLine pa n o.1 o.2)

/-- Whether an engine or cut-selection job owns a line of [pa, pa + n) (R193, R249, R250). A line of another card is owned only while
fabric coherence is on. -/
def State.ownedByJob (s : State) (pa n : Nat) : Bool :=
  s.cacheable pa && (s.jobs.any (fun e => jobOwns e.2 pa n) || s.cuts.any (fun e => cutOwns e.2 pa n))

/-- A byte as a core's access reads it: its L1 copy, a byte it has written only when `nol1` holds, otherwise the home's
(R239, R267). -/
def State.coreByte (s : State) (cid pa : Nat) (nol1 : Bool) : Byte :=
  match nmapFind s.mem.l1 (l1Key cid pa) with
  | some (b, dirty) => if dirty || !nol1 then b else s.homeByte pa
  | none => s.homeByte pa

/-- Whether every byte is served by L1 (R250). -/
def State.l1Holds (s : State) (cid pa n : Nat) (nol1 : Bool) : Bool :=
  (List.range n).all (fun k => match nmapFind s.mem.l1 (l1Key cid (pa + k)) with | some (_, d) => d || !nol1 | none => false)

/-- The bytes of a line as L1 holds them once it is read from the home: what the core's lanes have written, and the home's bytes of one
moment for the rest (R237, R239). A poisoned unit is not brought in (R429). -/
def State.lineEntries (s : State) (cid line : Nat) : NMap (Byte × Bool) :=
  let bs := s.readHome line 128
  (List.range 128).filterMap (fun k =>
    match nmapFind s.mem.l1 (l1Key cid (line + k)) with
    | some (b, true) => some (l1Key cid (line + k), b, true)
    | _ => if (s.homePoison (line + k / 32 * 32) 32).isSome then none else some (l1Key cid (line + k), (bs[k]?).getD 0, false))

/-- A line read whole from the home into a core's L1 (R237, R239). -/
def State.fillLine (s : State) (cid line : Nat) : State :=
  let m := s.mem.l1
  let m' := m.filter (fun e => decide (e.1 < l1Key cid line)) ++ s.lineEntries cid line
    ++ m.filter (fun e => decide (l1Key cid (line + 128) ≤ e.1))
  { s with mem := { s.mem with l1 := m' } }

/-- The clean copies of the lines that [pa, pa + n) touches dropped from a core's L1: a read at the home leaves no older copy behind
(R238). -/
def State.dropLines (s : State) (cid pa n : Nat) : State :=
  let lo := l1Key cid (pa / 128 * 128)
  let hi := l1Key cid ((pa + n + 127) / 128 * 128)
  { s with mem := { s.mem with l1 := s.mem.l1.filter (fun e => decide (e.1 < lo) || decide (hi ≤ e.1) || e.2.2) } }

/-- Bytes of one line read by a core at a physical address (R237 to R239): from L1, into which a line that lacks any of them is read
whole; or, where the access does not allocate, at the home. -/
def State.coreRead (s : State) (cid pa n : Nat) (nol1 : Bool) : State × List Byte :=
  let keep : Bool := !nol1 && s.cacheable pa
  let bytes (t : State) : List Byte := (List.range n).map (fun k => t.coreByte cid (pa + k) (!keep))
  if keep then
    let s1 := if s.l1Holds cid pa n false then s else s.fillLine cid (pa / 128 * 128)
    (s1, bytes s1)
  else (s.dropLines cid pa n, bytes s)

/-- Whether a core's L1 holds a written byte between two addresses whose line a job owns: its write-back waits (R250). -/
def State.dirtyOwned (s : State) (cid lo hi : Nat) : Bool :=
  ((nmapRange s.mem.l1 (l1Key cid lo) (l1Key cid hi)).filter (fun e => e.2.2)).any (fun e => s.ownedByJob (e.1 - l1Key cid 0) 1)

/-- Whether a release at a scope has to wait for a line that a job owns (R244, R250). -/
def State.releaseHeld (s : State) (cid : Nat) (sc : Scope) : Bool :=
  match sc with
  | .thread | .warp | .core => false
  | _ => s.dirtyOwned cid 0 (2 ^ 52)

/-- L1 bytes replaced from an address on. -/
def l1Put (m : NMap (Byte × Bool)) (a : Nat) (dirty : Bool) (bs : List Byte) : NMap (Byte × Bool) :=
  match bs with
  | [] => m
  | b :: t => l1Put (nmapSet m a (b, dirty)) (a + 1) dirty t

/-- L1 copies of bytes updated in place where they are held (R267). -/
def l1Update (m : NMap (Byte × Bool)) (a : Nat) (bs : List Byte) : NMap (Byte × Bool) :=
  match bs with
  | [] => m
  | b :: t => l1Update (if (nmapFind m a).isSome then nmapSet m a (b, false) else m) (a + 1) t

/-- Bytes written by a core at a physical address: into L1 as written bytes, or through to the home (R239, R267). -/
def State.coreWrite (s : State) (cid pa : Nat) (bs : List Byte) (nol1 : Bool) : State :=
  if nol1 || !s.cacheable pa then
    let s' := s.writeHome pa bs
    { s' with mem := { s'.mem with l1 := l1Update s'.mem.l1 (l1Key cid pa) bs } }
  else { s with mem := { s.mem with l1 := l1Put s.mem.l1 (l1Key cid pa) true bs,
                                    poison := poisonAfter s.mem.poison 3 32 (l1Key cid pa) bs.length } }

/-- The key of the poison mark that a unit of home memory bears (R427). -/
def State.homeMark (s : State) (pa : Nat) : Nat := poisonKey (s.memClass pa) (s.homePa pa / 32)

/-- The poison marks of the unit of memory that starts at an address taken off: it is written whole (R429). -/
def State.clearMarks (s : State) (pa : Nat) : State :=
  { s with mem := { s.mem with poison := nmapErase (nmapErase s.mem.poison (s.homeMark pa)) (poisonKey 4 (s.homePa pa / 32)) } }

/-- The written bytes of a core's L1 between two addresses, merged at the home (R239, R244). They stay as clean copies; poison goes home
with its unit, which leaves L1 (R429). -/
def State.writeBackRange (s : State) (cid lo hi : Nat) : State :=
  let es := (nmapRange s.mem.l1 (l1Key cid lo) (l1Key cid hi)).filter (fun e => e.2.2)
  let bad (k : Nat) : Bool := (nmapFind s.mem.poison (poisonKey 3 (k / 32))).isSome
  let whole (k : Nat) : Bool := k % 32 = 0 && decide ((nmapRange es k (k + 32)).length = 32)
  let s' := es.foldl (fun (t : State) e => (if whole e.1 then t.clearMarks (e.1 - l1Key cid 0) else t).writeHome (e.1 - l1Key cid 0) [e.2.1]) s
  let marks := (es.filter (fun e => bad e.1)).map (fun e => s.homeMark (e.1 - l1Key cid 0))
  let inside (k : Nat) : Bool := decide (l1Key cid lo ≤ k) && decide (k < l1Key cid hi)
  { s' with mem := { s'.mem with
      poison := marks.foldl (fun (p : NMap Unit) k => nmapSet p k ())
        (nmapClear s'.mem.poison (poisonKey 3 (l1Key cid lo / 32)) (poisonKey 3 (l1Key cid hi / 32)))
      l1 := (s'.mem.l1.filter (fun e => !(inside e.1 && bad e.1))).map (fun e => if inside e.1 then (e.1, (e.2.1, false)) else e) } }

/-- Every written byte of a core's L1 written back (R244). -/
def State.writeBackAll (s : State) (cid : Nat) : State := s.writeBackRange cid 0 (2 ^ 52)

/-- A memory event at a core ends the demotion of its warps (R369). -/
def State.wakeCore (s : State) (cid : Nat) : State :=
  { s with warps := s.warps.map (fun (e : Nat × Warp) => if e.1 / 64 = cid then (e.1, { e.2 with demotedLeft := 0 }) else e) }

/-- L1 bytes of a core left out, with the invalidation a memory event (R244, R270, R369). -/
def State.invalidate (s : State) (cid : Nat) (l1 : NMap (Byte × Bool)) : State :=
  let s1 := { s with mem := { s.mem with l1 := l1 } }
  if l1.length = s.mem.l1.length then s1 else s1.wakeCore cid

/-- The L1 bytes of a core that no lane of it has written, dropped (R244). -/
def State.dropClean (s : State) (cid : Nat) : State :=
  s.invalidate cid (s.mem.l1.filter (fun e => !(decide (l1Key cid 0 ≤ e.1) && decide (e.1 < l1Key (cid + 1) 0)) || e.2.2))

/-- A release at a scope by a core (R244). -/
def State.releaseAt (s : State) (cid : Nat) (sc : Scope) : State :=
  match sc with
  | .thread | .warp | .core => s
  | _ => s.writeBackAll cid

/-- An acquire at a scope by a core (R244). -/
def State.acquireAt (s : State) (cid : Nat) (sc : Scope) : State :=
  match sc with
  | .thread | .warp | .core => s
  | _ => s.dropClean cid

/-- What an access at a translated address meets before it is performed (R24, R392, R429, R442, R250). -/
inductive Gate where
  | pass
  | prot
  | secv
  | poison (cls : Nat)
  | wait
  deriving DecidableEq, Repr

/-- The poison that a core's read of bytes of device memory meets, unit by unit: in L1, or, of a unit that L1 does not serve, at the home (R427,
R429). -/
def State.readPoison (s : State) (cid pa n : Nat) (nol1 : Bool) : Option Nat :=
  (List.range ((pa + n + 31) / 32 - pa / 32)).findSome? (fun k =>
    let lo := max pa ((pa / 32 + k) * 32)
    let len := min (pa + n) ((pa / 32 + k + 1) * 32) - lo
    if poisonHit s.mem.poison 3 32 (l1Key cid lo) len then some 3
    else if s.l1Holds cid lo len nol1 then none else s.homePoison lo len)

/-- The checks on an access of a core to a physical address. Poison stops a read only; a read that L1 does not serve, and a write that
goes through to the home, wait for a line that a job owns (R250). -/
def State.gate (s : State) (c cid pa n : Nat) (read nol1 : Bool) : Gate :=
  if !s.reachable (pa / 2 ^ 50) || s.paKind pa = .reserved then .prot
  else if s.secBreach c pa then .secv
  else if read then
    if !s.l1Holds cid pa n nol1 && s.ownedByJob pa n then .wait
    else match s.readPoison cid pa n nol1 with | some cls => .poison cls | none => .pass
  else if (nol1 || !s.cacheable pa) && s.ownedByJob pa n then .wait
  else .pass

/-- The virtual address of a byte of a lane's private space (R335). -/
def State.privVa (s : State) (w l ea : Nat) : Nat :=
  let r := (s.wgOf w).launch
  r.privbase + r.privsize * ((((s.cardNo * 4 + cidStack (warpCid w)) * 48 + cidCore (warpCid w)) * 64 + warpSlot w) * 32 + l) + ea

end Sys2Proof.Machine
end

