-- ==== Sys2Proof/Machine/Waits.lean ====
section
/-! DEFINITION. What makes a lane wait for its next instruction: the fetch of the instruction (R33, R34), the pipe it issues to (R363), the
registers it names that are pending, the records of parked instructions (R43 to R46, R375, R379), and the waits of its own. -/

namespace Sys2Proof.Machine

/-! ## Fetch -/

/-- The end of a fetch. -/
inductive Fetch where
  | word (w : IWord)
  | beyond
  | park (va kind level : Nat) (entry : BitVec 64)
  | cause (c : Cause) (sub : Nat) (addr : BitVec 64)
  | wait
  deriving DecidableEq, Repr

/-- The number under which a warp's launch keeps its code: its graph's, so that a graph admitted later fetches anew (R34). -/
def State.launchKey (s : State) (w : Nat) : Nat := match (s.wgOf w).graph with | some g => g + 1 | none => 0

/-- One 32-bit word of code at a physical address, fetched by a launch: the copy kept, or the word in memory; where the two differ either
may be taken (R34), and the free values say which. DESIGN CHOICE (log entry 13): a word that the launch has not fetched before a write lands is
fetched new, though R34 lets it be fetched old too. -/
def State.codeWord (s : State) (k : Nat) (host : Bool) (a : Nat) : State × Word :=
  let now := BitVec.ofNat 32 (ofBytes (if host then s.readHost a 4 else s.readHome a 4))
  let key := k * 2 ^ 61 + (if host then 2 ^ 60 else 0) + a / 4
  match nmapFind s.mem.icache key with
  | none => ({ s with mem := { s.mem with icache := nmapSet s.mem.icache key now } }, now)
  | some old =>
    if old = now then (s, now)
    else ({ s with free := s.free + 1 }, if Config.freeBit s.free then old else now)

/-- Words of code from a physical address on, in ascending order (R32), put above the `x` already fetched, which holds `k` of them. -/
def State.codeWords (s : State) (key : Nat) (host : Bool) (a n k x : Nat) : State × Nat :=
  match n with
  | 0 => (s, x)
  | m + 1 =>
    let (s1, y) := s.codeWord key host a
    State.codeWords s1 key host (a + 4) m (k + 1) (x + y.toNat * 2 ^ (32 * k))

/-- Words of code at a virtual address within a page (R33, R393): `x` holds the `k` words before them. -/
def State.fetchRun (s : State) (w va n k x : Nat) : State × Except Fetch Nat :=
  let c := (s.warp w).ctx
  match s.translateAt (warpCid w) c va .fetch with
  | (s1, .fault kind level e) => (s1, .error (.park va kind level e))
  | (s1, .secv) => (s1, .error (.cause .secv 0 0))
  | (s1, .poison cls) => (s1, .error (.cause .poison cls (poisonVa va)))
  | (s1, .to true a) => let r := s1.codeWords (s.launchKey w) true a n k x; (r.1, .ok r.2)
  | (s1, .to false a) =>
    match s1.gate c (warpCid w) a (4 * n) true true with
    | .pass => let r := s1.codeWords (s.launchKey w) false a n k x; (r.1, .ok r.2)
    | .prot => (s1, .error (.cause .prot 0 (BitVec.ofNat 64 va)))
    | .secv => (s1, .error (.cause .secv 0 0))
    | .poison cls => (s1, .error (.cause .poison cls (poisonVa va)))
    | .wait => (s1, .error .wait)

/-- The instruction at an index of a warp's code segment (R33, R34, R333): its twelve bytes may lie in two pages, each translated by
itself. -/
def State.fetch (s : State) (w : Nat) (pc : Word) : State × Fetch :=
  let r := (s.wgOf w).launch
  if r.codelen ≤ pc.toNat then (s, .beyond)
  else
    let va := r.codebase + 12 * pc.toNat
    let n := min 3 ((4096 - va % 4096) / 4)
    match s.fetchRun w va n 0 0 with
    | (s1, .error e) => (s1, e)
    | (s1, .ok x) =>
      if n = 3 then (s1, .word (BitVec.ofNat 96 x))
      else match s1.fetchRun w (va + 4 * n) (3 - n) n x with
        | (s2, .error e) => (s2, e)
        | (s2, .ok y) => (s2, .word (BitVec.ofNat 96 y))

/-! ## Pipes -/

/-- The pipes of R363. -/
inductive Pipe where
  | a | f | s | c | m | x
  deriving DecidableEq, Repr

/-- The pipe of a word (R363). -/
def pipeOf (w : IWord) : Pipe :=
  let o := opcOf w
  match decode w with
  | .idiv _ | .irem _ | .unassignedOpcode _ => .a
  | _ =>
    if o ≤ 0x02F then .a
    else if (0x080 ≤ o ∧ o ≤ 0x08F) ∨ (0x097 ≤ o ∧ o ≤ 0x09A) then .f
    else if (0x090 ≤ o ∧ o ≤ 0x096) ∨ (0x100 ≤ o ∧ o ≤ 0x105) then .s
    else if 0x142 ≤ o ∧ o ≤ 0x148 then .c
    else if 0x180 ≤ o ∧ o ≤ 0x18B then .x
    else if (0x14C ≤ o ∧ o ≤ 0x14D) ∨ (0x1C0 ≤ o ∧ o ≤ 0x289) ∨ o = 0x2C3 then .m
    else .a

/-! ## Signers -/

/-- The signatures open at a convergence register. -/
def Sign.none : Sign := { signed := 0, guard := 0, pc := 0, word := 0, instr := Option.none, count := [], passed := 0, recs := [], susp := false }

def State.sign (s : State) (w k : Nat) : Sign := (nmapFind s.signs (w * 8 + k)).getD Sign.none

/-- Whether a convergence register has a signer that waits for its operation (R138). -/
def State.cvWaiters (s : State) (w k : Nat) : Bool := decide ((s.sign w k).signed &&& ~~~(s.sign w k).passed ≠ 0)

/-! ## Lanes that nothing can issue for -/

/-- The lanes of a warp that are launched and have not exited. -/
def Warp.live (x : Warp) : Mask := x.launched &&& ~~~x.exited

/-- Whether a lane waits as a signer (R371). -/
def State.isSigner (s : State) (w l : Nat) : Bool := 
  (List.range 8).any (fun k => (s.sign w k).signed.getLsbD l && !(s.sign w k).passed.getLsbD l)

/-- Whether a lane issued an outstanding instruction in handler mode (R419). -/
def recHm (o : Op) (l : Nat) : Bool := match o.recs.find? (fun r => r.lane = l) with | some r => r.hm | none => false

/-- Whether an outstanding instruction has used up a lane's window, so that the lane's next instruction waits for it (R43): the window of
one issued by the interrupted code does not hold its handler back (R416, R422). -/
def opBlocks (o : Op) (w l : Nat) (hm : Bool) : Bool :=
  o.w = w && o.lanes.getLsbD l && !o.accepted && decide (dmapGet 0 o.win l = 0) && recHm o l == hm

/-- Whether a lane cannot issue whatever its next instruction is: not live, exiting, halted, held by a trap, waiting as a signer, or at the
end of a window (R362, R375, R376, R415). A lane in its handler is not held by the trap that comes after it (R419). -/
def State.laneBlocked (s : State) (w l : Nat) : Bool :=
  let x := s.warp w
  !x.live.getLsbD l || x.leaving.getLsbD l || x.halted || (!s.inHandler w l && x.holds.any (fun t => t.lanes.getLsbD l)) || s.isSigner w l
    || s.ops.any (fun e => opBlocks e.2 w l (s.inHandler w l))

/-! ## Pending registers -/

/-- The registers of a lane that an operand names: bank registers in handler mode (R56). -/
def useHits (hm : Bool) (cid acc0 : Nat) (l : Nat) (u : Use) (p : PendReg) : Bool :=
  match u.o, p with
  | .v n, .v l' m => !hm && l' = l && decide (n.toNat ≤ m ∧ m < n.toNat + u.n)
  | .v n, .hv l' m => hm && l' = l && decide (n.toNat ≤ m ∧ m < n.toNat + u.n)
  | .s n, .s m => !hm && decide (n.toNat ≤ m ∧ m < n.toNat + u.n)
  | .s n, .hs m => hm && decide (n.toNat ≤ m ∧ m < n.toNat + u.n)
  | .p n, .p l' m => l' = l && n.toNat = m
  | .cv n, .cv m => n.toNat = m
  | .acc n, .tile c f => c = cid && f = acc0 + n.toNat
  | _, _ => false

/-- Whether an outstanding instruction has a register of an operand pending, as a lane names it. -/
def State.opHits (s : State) (w l : Nat) (u : Use) (o : Op) : Bool :=
  o.pend.any (useHits (s.inHandler w l) (warpCid w) (s.wgCoreOf w).acc0 l u)

/-- Whether an operand is a tile, shared beyond the warp (R151). -/
def isTile (u : Use) : Bool := match u.o with | .acc _ => true | _ => false

/-- The waits of R45, R46 and R151: a register pending for an instruction of another lane, a tile pending for another warp, or a
register that an engine instruction, accepted or not, is still to write. -/
def State.waitUse (s : State) (w l : Nat) (u : Use) : Bool :=
  s.ops.any (fun e =>
    (e.2.w = w || isTile u) && (e.2.w ≠ w || !e.2.lanes.getLsbD l || e.2.accepted || e.2.late) && s.opHits w l u e.2)

/-- The KIND of a parked part that stays unresolvable and whose PAGE has been raised is kept with this added (R400, R422); of one whose fault
is answered and that waits for its turn, with twice this added (R380). -/
def failedKind : Nat := 16

/-- Whether a lane's part is parked as a pending replay (R378). -/
def partParked (o : Op) (l : Nat) : Bool := match nmapFind o.parked l with | some (_, k) => decide (k / failedKind ≠ 1) | none => false

/-- Whether a lane has a pending replay (R379). -/
def State.laneParked (s : State) (w l : Nat) : Bool := s.ops.any (fun e => e.2.w = w && partParked e.2 l)

/-- Whether an outstanding instruction occupies a record of its warp (R379, R385): it has parked lanes, or a pre-emption suspended it. -/
def opHolds (o : Op) : Bool := o.susp || o.parked.any (fun p => decide (p.2.2 / failedKind ≠ 1))

/-- The records of a warp in use (R379, R385): outstanding instructions, and signatures that a pre-emption suspended. -/
def State.parkedCount (s : State) (w : Nat) : Nat :=
  (s.ops.filter (fun e => e.2.w = w && opHolds e.2)).length + (s.signs.filter (fun e => e.1 / 8 = w && e.2.susp)).length

/-- Whether a lane's guard is true (R36). -/
def State.guardTrue (s : State) (h : Hdr) (w l : Nat) : Bool :=
  !h.g || (s.regs.getP w l h.p.toNat != h.n)

/-- The guard's own use. -/
def guardUses (h : Hdr) : List Use := if h.g then [⟨.p h.p, 1, false⟩] else []

/-! ## Waits of an instruction -/

/-- The number of the convergence register an operand names. -/
def cvNum (o : Opnd) : Nat := match o with | .cv n => n.toNat | _ => 0

/-- The register that a lane's next instruction, a CVSET, waits for (R138, R376). -/
def State.cvsetAt (s : State) (w l : Nat) : Option Nat :=
  if s.laneBlocked w l then none
  else match (s.fetch w (s.regs.getPc w l)).2 with
    | .word x => match decode x with
      | .cvset h f => if (checkOf (.cvset h f)).ok && s.guardTrue h w l && s.cvWaiters w (cvNum f.dst) then some (cvNum f.dst) else none
      | _ => none
    | _ => none

/-- The number of an accumulator operand. -/
def accNum (o : Opnd) : Nat := match o with | .acc n => n.toNat | _ => 0

/-- Whether a lane's instructions other than MMA and MMAQ of its warp have a tile pending: LAV, or a wait (R44, R151, R152). -/
def mmaTileUse (f : RForm) : Use := ⟨f.dst, 1, false⟩

def chained (w : Nat) (o : Op) : Bool := o.w = w && o.mma.isSome

/-- The wait for a tile that another warp's instruction has pending (R151). -/
def mmaWait (f : RForm) (s : State) (c : Rd) : Bool :=
  s.ops.any (fun e => !chained c.w e.2 && !(e.2.w = c.w && e.2.lanes.getLsbD c.l) && s.opHits c.w c.l (mmaTileUse f) e.2)

/-- The tiles that an ACCZ writes, as a use. -/
def acczUse (f : RForm) (k : Nat) : Use := ⟨.acc (BitVec.ofNat 5 (accNum f.dst + k)), 1, true⟩

def acczCount (f : RForm) (s : State) (c : Rd) : Nat := min (srcN s c .b32 f.sa) (32 - accNum f.dst)

/-- The wait for a tile that an ACCZ writes (R45, R151). -/
def acczWait (f : RForm) (s : State) (c : Rd) : Bool := (List.range (acczCount f s c)).any (fun k => s.waitUse c.w c.l (acczUse f k))

/-- The wait for a predicate that a V2P writes (R45, R118). -/
def v2pWait (f : RForm) (s : State) (c : Rd) : Bool :=
  (List.range 16).any (fun k => (s.src c .b32 f.sb).getLsbD k && s.waitUse c.w c.l ⟨.p (BitVec.ofNat 4 k), 1, true⟩)

/-- The latched trap of a warp. -/
def State.latchOf (s : State) (w : Nat) : Trap :=
  ((s.warp w).latch).getD { cause := .enc, sub := 0, lanes := 0, word := 0, fav := false, repl := false, recs := [], op := none }

/-- The operand-field value that names the target (R421). -/
def irField (f : RForm) (fo : Opnd) (s : State) (c : Rd) : BitVec 12 :=
  if f.sub.getLsbD 0 then (s.latchOf c.w).word.extractLsb' 58 12 else (s.src32 c .b32 fo).truncate 12

/-- The register of the interrupted code that a target names, none where RDIR reads 0 and WRIR writes nothing (R421). -/
def irTarget (f : RForm) (fo : Opnd) (s : State) (c : Rd) : Option Opnd :=
  let wide := isWide f.ty
  let n : Nat := tyRegs f.ty
  match opndOf (irField f fo s c) with
  | some o =>
    match o with
    | .v k => if k.toNat % n = 0 && decide (k.toNat + n ≤ (s.warp c.w).nv) then some o else none
    | .s k => if k.toNat % n = 0 && decide (k.toNat + n ≤ (s.warp c.w).ns) then some o else none
    | .p _ | .bt _ | .lc _ | .cv _ | .lk | .pc => if wide then none else some o
    | .sr _ | .imm _ | .zr | .acc _ => none
  | none => none

/-- Whether the target is pending for a parked replay of the lane (R421). -/
def irWaits (f : RForm) (fo : Opnd) (s : State) (c : Rd) : Bool :=
  match irTarget f fo s c with
  | some o =>
    s.ops.any (fun e => e.2.w = c.w && e.2.lanes.getLsbD c.l
      && e.2.pend.any (useHits false (warpCid c.w) 0 c.l ⟨o, tyRegs f.ty, false⟩))
  | none => false

/-- The outstanding instructions of a lane that RFT waits for (R422): all but the one whose PAGE it answers. -/
def State.laneBusy (s : State) (w l : Nat) : Bool :=
  s.ops.any (fun e => e.2.w = w && e.2.lanes.getLsbD l && !e.2.accepted && (s.latchOf w).op ≠ some e.1)

/-- The waits of an instruction of a lane of M that its operands do not show (R118, R138, R151, R421, R422). -/
def State.ownWaits (s : State) (i : Instr) (c : Rd) : Bool :=
  match i with
  | .cvset _ f => s.cvWaiters c.w (cvNum f.dst)
  | .v2p _ f => v2pWait f s c
  | .wrir _ f => irWaits f f.sb s c
  | .rdir _ f => irWaits f f.sa s c
  | .rft _ _ => s.laneBusy c.w c.l
  | .mma _ f | .mmaq _ f => mmaWait f s c
  | .accz _ f => acczWait f s c
  | _ => false

/-- Whether the records of parked instructions hold a lane back from an instruction (R379): of pipe M while the warp's records are in use,
of pipe M or X while the lane itself has a pending replay. -/
def State.recordWaits (s : State) (p : Pipe) (w l : Nat) : Bool :=
  match p with
  | .m => decide (15 ≤ s.parkedCount w) || s.laneParked w l
  | .x => s.laneParked w l
  | _ => false

/-- Whether a lane waits for the registers that an instruction names, or for what else it waits for (R45, R46): a lane whose guard is false reads
nothing but its guard. -/
def State.useWaits (s : State) (h : Hdr) (ck : Check) (own : Nat → Bool) (w l : Nat) : Bool :=
  if s.guardTrue h w l then ck.uses.any (s.waitUse w l) || own l else (guardUses h).any (s.waitUse w l)

/-- Whether an instruction makes a lane wait at its issue (R45, R46, R375, R379). -/
def State.instrWaits (s : State) (x : IWord) (c : Rd) : Bool :=
  let i := decode x
  let ck := checkOf i
  match hdrOf x with
  | none => false
  | some h =>
    ck.ok && (s.recordWaits (pipeOf x) c.w c.l || s.useWaits h ck (fun l => s.ownWaits i { c with l := l }) c.w c.l)

/-- Whether a lane's next instruction itself makes it wait (R44 to R46, R375); a fetch that would park waits for a record (R379). -/
def State.nextWaits (s : State) (w : Nat) (pc : Word) (l : Nat) : Bool :=
  match (s.fetch w pc).2 with
  | .word x => s.instrWaits x { w := w, l := l, mask := bit32 l, m := 0, pc := pc }
  | .wait => true
  | .park _ _ _ _ => decide (15 ≤ s.parkedCount w)
  | _ => false

end Sys2Proof.Machine
end

