-- ==== Sys2Proof/Machine/Diag.lean ====
section
/-! DEFINITION. What ends a context and what is left of it (R389, R403, R424 to R426, R430). -/

namespace Sys2Proof.Machine

/-- A counter that saturates counts one more (R428). -/
def satInc (x : Word) : Word := if x = 0xFFFFFFFF#32 then x else x + 1

/-- The code of a cause (R412). -/
def Cause.code (c : Cause) : Nat :=
  match c with
  | .enc => 0x01 | .resv => 0x02 | .emu => 0x03 | .priv => 0x04 | .lav => 0x05 | .rega => 0x06 | .spad => 0x07 | .align => 0x08
  | .cvmis => 0x09 | .cvexit => 0x0A | .role => 0x0B | .feuns => 0x0C | .page => 0x0D | .prot => 0x0E | .secv => 0x0F
  | .poison => 0x10 | .waitto => 0x11 | .swt => 0x12 | .brk => 0x13 | .loft => 0x14 | .acca => 0x15 | .ring => 0x16 | .mcg => 0x17
  | .tile => 0x18 | .arr => 0x19 | .rayh => 0x1B | .texh => 0x1C

/-- The causes marked Fatal (R412). -/
def Cause.fatal (c : Cause) : Bool :=
  match c with
  | .secv | .poison | .waitto => true
  | _ => false

/-- The WHERE word of a warp (R399). -/
def State.whereOf (s : State) (w : Nat) : Nat :=
  cidCore (warpCid w) + cidStack (warpCid w) * 2 ^ 6 + s.cardNo * 2 ^ 8 + warpSlot w * 2 ^ 10

/-- A 32-bit field as bytes. -/
def n32 (x : Nat) : List Byte := bytesOf 4 x

def n64 (x : Nat) : List Byte := bytesOf 8 x

/-- The bytes of an error report (R430). -/
def errBytes (serial : Nat) (e : ErrRec) : List Byte :=
  n32 serial ++ bytesOf 1 e.type ++ bytesOf 1 e.store ++ bytesOf 1 e.cause ++ bytesOf 1 e.flags ++ n64 e.pa ++ n64 e.va
    ++ n32 e.ctx ++ n32 e.ptag.toNat ++ n32 e.submit.toNat ++ n32 e.loc ++ n32 e.count ++ List.replicate 20 0

/-- A report written to the error buffer, or dropped and counted when the buffer is full or not enabled (R430). -/
def State.report (s : State) (e : ErrRec) : State :=
  let c := s.card
  let n := 2 ^ (c.ebctl.extractLsb' 0 5).toNat
  let room : Bool := c.ebctl.getLsbD 31 && decide ((c.ebhead - c.ebtail).toNat < n)
  let ser := c.ebserial
  if room then
    let s' := s.writeHost (c.ebbase.toNat + 64 * (c.ebhead.toNat % n)) (errBytes ser.toNat e)
    { s' with card := { c with ebhead := c.ebhead + 1, ebserial := ser + 1, msix := setBit16 c.msix 1 true } }
  else { s with card := { c with ebdrop := c.ebdrop + 1, ebserial := ser + 1 } }

def poisonPa (pa : Nat) : BitVec 64 := BitVec.ofNat 64 (2 ^ 63 + pa)

/-- The report of poison consumed by a context (R429, R430): the physical page, and the virtual page where the access was
translated. -/
def State.reportConsumed (s : State) (c cls : Nat) (a : BitVec 64) (submit : Word) (loc : Nat) : State :=
  let n := a.toNat
  let va := n % 2 ^ 62
  let tr : Option Nat := (s.mem.tlb.find? (tlbServes c va .read)).bind (fun t => if t.host then none else some (t.frame + (va - t.va)))
  let pa : Option Nat := if a.getLsbD 63 then some (n % 2 ^ 62) else if a.getLsbD 62 then tr else none
  s.report
    { type := 3, store := cls, cause := 0,
      flags := (if pa.isSome then 1 else 0) + (if a.getLsbD 62 then 2 else 0) + 4,
      pa := pa.getD 0 / 4096 * 4096, va := if a.getLsbD 62 then va / 4096 * 4096 else 0, ctx := c, ptag := (s.ctx c).ptag,
      submit := submit, loc := loc, count := 0 }

/-- The SUBMIT word of a warp's graph (R304), or 0. -/
def State.submitOf (s : State) (g : Wg) : Word :=
  match g.graph with
  | none => 0
  | some k => match nmapFind s.graphs k with
    | none => 0
    | some gr => gr.submit

/-- The generic address of the granule that a scratch offset, a window address or a generic address names (R232, R456). -/
def granuleName (a : Nat) : Nat :=
  let g := a / 16 * 16
  if g < 2 ^ 40 then 0xFE * 2 ^ 48 + g
  else if g < 2 ^ 52 then 0xFE * 2 ^ 48 + 2 ^ 47 + g / 2 ^ 50 * 2 ^ 40 + g % 2 ^ 40
  else g

/-- What the part that a lane stands for waits for, with its object: of an instruction that acts once, its one part (R375, R376, R426). -/
def Op.waitOf (o : Op) (l : Nat) : OpWait × Nat :=
  if o.once then (match o.waits with | e :: _ => e.2 | [] => (.none, 0)) else dmapGet (.none, 0) o.waits l

/-- The lanes that stand in an instruction's wait: those not performed, or all of them when one part stands for all (R376). -/
def Op.waitMask (o : Op) : Mask := if o.once && o.todo ≠ 0 then o.lanes else o.todo

/-- The wait code and object that an outstanding instruction gives a lane (R426, R456). -/
def opWaitCode (o : Op) (l : Nat) : Option (Nat × Nat) :=
  if !o.waitMask.getLsbD l then none
  else match nmapFind o.parked l with
    | some (va, k) => if k / 16 ≠ 1 then some (9, va) else none
    | none =>
      let obj := (o.waitOf l).2
      match (o.waitOf l).1 with
      | .none => none
      | .fullEmpty => some (1, granuleName (match o.instr, o.recs.find? (fun r => r.lane = l) with
          | .ld _ _, some r => r.addr.toNat
          | .st _ _, some r => r.addr.toNat
          | _, _ => obj))
      | .ring => some (3, obj)
      | .lag => some (4, 0xFFFFFFFF)
      | .tile => some (4, obj)
      | .slotFree => some (3, obj + 2 ^ 63)
      | .drain | .holdRecord => some (5, obj)
      | .engineQueue => some (6, 0)
      | .launchQueue => some (6, 1)
      | .linkFull | .linkEmpty => some (7, obj)
      | .reorder => some (8, 0)
      | .sliceQueue | .cutQueue | .setupQueue | .rayQueue | .release | .order | .record => some (11, 0)

/-- Whether every member of a convergence register that has not exited has signed it: such signers no longer wait for one another (R372,
R375). -/
def State.allSigned (s : State) (w k : Nat) : Bool :=
  match nmapFind s.signs (w * 8 + k) with
  | some g => decide (s.regs.getCv w k &&& ~~~(g.signed &&& ((s.warp w).launched &&& ~~~(s.warp w).exited)) = 0)
  | none => false

/-- The wait of a lane: pc recorded, code, object (R426, R455). A lane in its handler is not held by the trap that comes after it (R419). -/
def State.laneWait (s : State) (w l : Nat) : Word × Nat × Nat :=
  let pc := s.regs.getPc w l
  match if s.inHandler w l then none else (s.warp w).holds.find? (fun t => t.lanes.getLsbD l) with
  | some t => (pc, 10, t.cause.code)
  | none =>
    match (List.range 8).find? (fun k => match nmapFind s.signs (w * 8 + k) with | some g => g.signed.getLsbD l && !g.passed.getLsbD l | none => false) with
    | some k => if s.allSigned w k then (pc, 11, 0) else (pc, 2, k)
    | none =>
      match s.cvsetAt w l with
      | some k => (pc, 2, k)
      | none =>
        match s.ops.findSome? (fun e => if e.2.w = w then (opWaitCode e.2 l).map (fun r => (e.2.pc, r.1, r.2)) else none) with
        | some r => r
        | none =>
          if s.ops.any (fun e => opBlocks e.2 w l (s.inHandler w l)) || (!s.laneBlocked w l && s.nextWaits w pc l) then (pc, 11, 0)
          else (pc, 0, 0)

/-- A warp record of the diagnostic capture (R426); `ended` holds the waits that the fatal cause itself ended (R455). -/
def State.warpRecord (s : State) (w : Nat) (fmask : Mask) (ended : NMap (Word × Nat × Nat)) : List Byte :=
  let x := s.warp w
  let g := s.wgOf w
  n32 (s.whereOf w) ++ n32 x.launched.toNat ++ n32 x.exited.toNat ++ n32 x.hmode.toNat ++ n32 fmask.toNat
    ++ n32 (if g.graph.isSome then g.pass else 0xFFFFFFFF) ++ n32 (match x.tile with | some t => t | none => 0xFFFFFFFF)
    ++ n32 (min (s.parkedCount w) 15)
    ++ ((List.range 8).map (fun k => n32 (s.regs.getCv w k).toNat)).flatten
    ++ ((List.range 32).map (fun l =>
        let r := dmapGet (s.laneWait w l) ended (laneKey w l)
        n32 r.1.toNat ++ bytesOf 1 r.2.1 ++ [0, 0, 0] ++ n64 r.2.2)).flatten

/-- A counter record of the diagnostic capture (R426). The key of a counter is stack × 4096 + index (R277). -/
def State.counterRecord (s : State) (k : Nat) (c : Counter) : List Byte :=
  n32 (c.serial % 256 * 2 ^ 16 + s.cardNo * 2 ^ 14 + k % 2 ^ 14) ++ n32 c.count ++ n32 c.target
    ++ n32 (c.round % 2 ^ 16 + (if c.exit then 2 ^ 16 else 0) + (if c.auto then 2 ^ 17 else 0) + (if c.complete then 2 ^ 18 else 0))
    ++ n64 c.addr.toNat ++ List.replicate 8 0

/-- What a fatal cause names (R424, R425). `agent` is there when no lane raised it: the SUBMIT of the graph concerned, or 0, for the report.
`ended` holds, by warp × 32 + lane, the waits that the cause itself ended (R455). -/
structure FatalInfo where
  w : Nat
  lanes : Mask
  pc : Word
  cause : Nat
  sub : Nat
  faddr : BitVec 64
  flags : Nat
  fmasks : NMap Mask
  agent : Option Word := none
  ended : NMap (Word × Nat × Nat) := []
  deriving DecidableEq, Repr

/-- A fatal cause that no lane raised, with the address it concerns (R424, R425, R430). -/
def agentFatal (c : Nat) (sub flags : Nat) (submit : Word) (faddr : BitVec 64 := 0) : FatalInfo :=
  { w := 0, lanes := 0, pc := 0, cause := c, sub := sub, faddr := faddr, flags := flags, fmasks := [], agent := some submit }

/-- The warps of a context as the capture finds them: of a saved context, as its pre-emption left them (R386, R426). -/
def State.unsaved (s : State) (c : Nat) : State :=
  match nmapFind s.saved (ctxSlot c) with
  | none => s
  | some v => { s with warps := v.warps, regs := v.regs, signs := v.signs, ops := v.ops, wgs := v.wgs }

/-- The diagnostic capture (R425, R426), written to the save area of a context whose SAVELEN covers it. -/
def State.capture (s : State) (c : Nat) (f : FatalInfo) : State :=
  let x := s.ctx c
  if x.savelen.toNat < 832 then s
  else
    let t := s.unsaved c
    let ws := (t.warps.filter (fun e => e.2.ctx = c && (e.2.launched &&& ~~~e.2.exited) ≠ 0)).map (·.1)
    let cs := s.counters.filter (fun e => e.2.ctx = c)
    let g := s.wgOf f.w
    let warp : Bool := f.agent.isNone
    let hdr := n32 1 ++ n32 (f.cause + f.sub % 256 * 256) ++ n32 c ++ n32 x.ptag.toNat ++ n32 (if warp then s.whereOf f.w else 0) ++ n32 f.lanes.toNat
      ++ n32 f.pc.toNat ++ n32 ws.length ++ n64 (if f.cause = 0x0F ∨ f.cause = 0x10 then 0 else f.faddr.toNat) ++ n32 cs.length ++ n32 f.flags
      ++ n64 (if warp then s.cyclesOf (warpCid f.w) else 0) ++ n32 (if warp then (s.submitOf g).toNat else 0) ++ n32 0
    let recs := (ws.map (fun w => t.warpRecord w (dmapGet 0 f.fmasks w) f.ended)).flatten
    let ctrs := (cs.map (fun e => s.counterRecord e.1 e.2)).flatten
    let base := s.cardNo * 2 ^ 50 + x.savebase.toNat + 816 * 2 ^ 20
    (s.zeroFrames base 256).writeLong base 1048576 (hdr ++ recs ++ ctrs)

/-- The owner tags of a context taken off, and what a column unit held last of it forgotten (R389, R403, R405). -/
def Cores.dropTags (k : Cores) (c : Nat) : Cores :=
  let f (m : NMap Nat) : NMap Nat := m.filter (fun e => decide (e.2 ≠ c))
  { k with tagScratch := f k.tagScratch, tagLoft := f k.tagLoft, tagAcc := f k.tagAcc, tagSlot := f k.tagSlot, tagCol := f k.tagCol,
           lastCol := f k.lastCol }

/-- The graphs of a context. -/
def State.graphsOf (s : State) (c : Nat) : List Nat := (s.graphs.filter (fun e => e.2.ctx = c)).map (·.1)

/-- Link queues without the entries of some workgroups (R303, R424). -/
def linksWithout (m : NMap (List LinkEntry)) (wgs : List Nat) : NMap (List LinkEntry) :=
  (m.map (fun (e : Nat × List LinkEntry) => (e.1, e.2.filter (fun x => !wgs.contains x.wg)))).filter (fun e => !e.2.isEmpty)

/-- All in-flight work of a context discarded, with its cached translations (R397), and every queue that names it and has not stopped stopped
with cause 3 (R424 step 2, R389, R326). -/
def State.discard (s : State) (c : Nat) : State :=
  let gs := s.graphsOf c
  let mine (w : Nat) : Bool := (s.warp w).ctx = c && (nmapFind s.warps w).isSome
  let myWgs := (s.wgs.filter (fun e => e.2.ctx = c)).map (·.1)
  let keepTri (t : Tri) : Bool := t.ctx ≠ c
  { s with
    cur := if mine s.cur.w then Cur.none else s.cur
    warps := s.warps.filter (fun e => decide (e.2.ctx ≠ c))
    signs := s.signs.filter (fun e => !mine (e.1 / 8))
    ops := s.ops.filter (fun e => !mine e.2.w)
    wgs := s.wgs.filter (fun e => decide (e.2.ctx ≠ c))
    counters := s.counters.filter (fun e => decide (e.2.ctx ≠ c))
    groups := s.groups.filter (fun e => decide (e.1 / 256 ≠ c))
    gens := s.gens.filter (fun e => decide (e.1 / 256 ≠ c))
    holds := s.holds.filter (fun e => decide (e.2.ctx ≠ c))
    jobs := s.jobs.filter (fun e => decide (e.2.ctx ≠ c))
    cuts := s.cuts.filter (fun e => decide (e.2.ctx ≠ c))
    graphs := s.graphs.filter (fun e => decide (e.2.ctx ≠ c))
    adms := s.adms.filter (fun e => decide (e.2.ctx ≠ c))
    setup := s.setup.map (fun e => (e.1, e.2.filter keepTri))
    entries := s.entries.map (fun e => (e.1, e.2.filter (fun x => keepTri x.tri)))
    lists := s.lists.map (fun e => (e.1, e.2.filter (fun x => keepTri x.tri)))
    draining := s.draining.filter (fun d => !gs.contains d.1)
    saved := s.saved.filter (fun e => decide (e.1 ≠ ctxSlot c))
    queues := s.queues.map (fun e =>
      if (e.2.qctl.extractLsb' 0 12).toNat = c && e.2.qctl.getLsbD 31 && e.2.stat ≠ 3 then (e.1, { e.2 with stat := 3, cause := 3 }) else e)
    faults := s.faults.filter (fun f => decide (f.ctx ≠ c))
    mem := { s.mem with tlb := s.mem.tlb.filter (fun t => decide (t.ctx ≠ c)) }
    cores := { s.cores with
      reorder := s.cores.reorder.map (fun e => (e.1, e.2.filter (fun r => decide (r.ctx ≠ c))))
      links := linksWithout s.cores.links myWgs
      flight := linksWithout s.cores.flight myWgs } }

/-- A context ended by a fatal cause (R424): halted, its work discarded, the capture and the report written. The resources are
freed, and LIVE reads 0, when its teardown completes (R389). -/
def State.fatalEnd (s : State) (c : Nat) (f : FatalInfo) : State :=
  let x := s.ctx c
  let wrote : Bool := decide (832 ≤ x.savelen.toNat)
  let e : ErrRec :=
    { type := 4, store := if f.cause = 0x10 then f.sub else 0, cause := f.cause, flags := if wrote then 0xC else 4, pa := 0, va := 0,
      ctx := c, ptag := x.ptag, submit := f.agent.getD (s.submitOf (s.wgOf f.w)),
      loc := if f.agent.isNone then s.whereOf f.w else s.cardNo * 2 ^ 8, count := 0 }
  let s1 := (s.capture c f).discard c
  (s1.setCtx c { s1.ctx c with phase := .ending, launchQ := [], replies := [] }).report e

end Sys2Proof.Machine
end

