-- ==== Sys2Proof/Machine/Ops.lean ====
section
/-! DEFINITION. The shared operations of every instruction: waits and pending registers (R43 to R47), the causes of R64, taking a
trap and returning from it (R412 to R422), and issue of the fixed-latency, long-latency and warp-wide instructions. -/

namespace Sys2Proof.Machine

/-- The state after a word issued: the machine always goes on. -/
abbrev Out := Host.Outcome State Fault Refusal

/-! ## Lanes -/

/-- The state with a register's signatures replaced; none are kept when nobody has signed. -/
def State.setSign (s : State) (w k : Nat) (g : Sign) : State :=
  { s with signs := if g.signed = 0 then nmapErase s.signs (w * 8 + k) else nmapSet s.signs (w * 8 + k) g }

/-! ## Pending registers -/

/-- Whether what is left of a completed instruction's window makes a use of its pending set LAV (R44). -/
def State.winHits (s : State) (w l : Nat) (u : Use) (x : Window) : Bool :=
  x.lane = l && decide (x.left ≠ 0) && x.pend.any (useHits (s.inHandler w l) (warpCid w) (s.wgCoreOf w).acc0 l u)

/-- LAV (R44): a register of the use is in the pending set of an instruction of the lane's own whose window the lane is in, whether or not
that instruction has completed; a register that is written after completion never raises it (R46). -/
def State.lavUse (s : State) (w l : Nat) (u : Use) : Bool :=
  s.ops.any (fun e => e.2.w = w && e.2.lanes.getLsbD l && !e.2.accepted && !e.2.late && s.opHits w l u e.2)
    || (s.warp w).wins.any (s.winHits w l u)

/-! ## The causes of R64 -/

/-- A cause raised for a lane, with its sub-cause and fault address. -/
structure Raised where
  lane : Nat
  cause : Cause
  sub : Nat
  addr : BitVec 64
  deriving DecidableEq, Repr

/-- REGA (R56): a register at or beyond the allocation, or beyond the banks in handler mode. -/
def regaUse (x : Warp) (hm : Bool) (u : Use) : Bool :=
  match u.o with
  | .v n => decide ((if hm then 32 else x.nv) < n.toNat + u.n)
  | .s n => decide ((if hm then 64 else x.ns) < n.toNat + u.n)
  | _ => false

/-- The unit of a poison mark that an operand reads (R427, R429). -/
def poisonUse (p : NMap Unit) (w l : Nat) (hm : Bool) (u : Use) : Bool :=
  let hit (base : Nat) : Bool := poisonHit p 1 1 base u.n
  !u.wr &&
  match u.o with
  | .v n => if hm then hit (2 ^ 41 + laneKey w l * 32 + n.toNat) else hit (laneKey w l * 256 + n.toNat)
  | .s n => if hm then hit (2 ^ 42 + w * 64 + n.toNat) else hit (2 ^ 40 + w * 1024 + n.toNat)
  | _ => false

/-- The cause that one lane raises before the operation itself (R64): ENC; PRIV and ROLE by `pre`; REGA; LAV, which a guarded-off
lane raises for its guard only (R44); then POISON of a register it reads (R429). -/
def State.earlyCause (s : State) (h : Hdr) (ck : Check) (pre : Option Cause) (w l : Nat) : Option Cause :=
  let hm := s.inHandler w l
  let inM := s.guardTrue h w l
  if !ck.ok then some .enc
  else match pre with
    | some c => some c
    | none =>
      if ck.uses.any (regaUse (s.warp w) hm) then some .rega
      else if (if inM then ck.uses else guardUses h).any (s.lavUse w l) then some .lav
      else if inM && ck.uses.any (poisonUse s.mem.poison w l hm) then some .poison
      else none

/-! ## Taking a trap -/

/-- The operand slots hold values (R417, R418). -/
def causeOpv (c : Cause) : Bool :=
  match c with
  | .enc | .resv | .priv | .role | .rega | .lav => false
  | _ => true

/-- The fault-address slots hold values (R417). -/
def causeFav (c : Cause) : Bool :=
  match c with
  | .spad | .align | .feuns | .page | .prot => true
  | _ => false

/-- The cause word of a trap (R417). -/
def causeWord (t : Trap) : Word :=
  BitVec.ofNat 32 (t.cause.code + t.sub % 256 * 2 ^ 8 + (if causeOpv t.cause then 2 ^ 16 else 0) + (if t.fav then 2 ^ 17 else 0)
    + (if t.repl then 2 ^ 18 else 0))

/-- A lane's record in a trap. -/
def Trap.laneRec (t : Trap) (l : Nat) : Option LaneRec := t.recs.find? (fun r => r.lane = l)

/-- Where a trapped lane resumes (R416): at its pc, which stands at the trapped instruction, or for PAGE at the lane's next unissued one. A
lane that has issued its exit has none, and its pc becomes 0xFFFF_FFFF (R41; DESIGN CHOICE, log entry 75). -/
def State.resumeAt (s : State) (w l : Nat) : Word :=
  if (s.warp w).leaving.getLsbD l then Config.exitedPc else s.regs.getPc w l

/-- The trap frame (R417, R418). -/
def State.frameBytes (s : State) (w : Nat) (t : Trap) : List Byte :=
  let x := s.warp w
  let lanes := List.range 32
  let slot (f : LaneRec → Nat) (l : Nat) : List Byte := n64 (match t.laneRec l with | some r => f r | none => 0)
  let opv : Bool := causeOpv t.cause
  n32 (causeWord t).toNat ++ n32 t.lanes.toNat ++ n32 x.launched.toNat ++ n32 x.exited.toNat
    ++ bytesOf 12 t.word.toNat ++ List.replicate 4 0
    ++ (lanes.map (fun l => n32 (if t.lanes.getLsbD l then s.resumeAt w l else s.regs.getPc w l).toNat)).flatten
    ++ (lanes.map (slot (fun r => if opv then r.a.toNat else 0))).flatten
    ++ (lanes.map (slot (fun r => if opv then r.b.toNat else 0))).flatten
    ++ (lanes.map (slot (fun r => if opv then (r.c.truncate 64).toNat else 0))).flatten
    ++ (lanes.map (slot (fun r => if t.fav then r.addr.toNat else 0))).flatten
    ++ (lanes.map (fun l => bytesOf 2 (if x.launched.getLsbD l then (s.regs.getPs w l).toNat else 0))).flatten
    ++ List.replicate 800 0

/-- How a store of the trap frame ends. -/
inductive FrameRes where
  | ok (s : State)
  | failed
  | wait
  deriving DecidableEq, Repr

/-- A run of 16-byte plain private stores from a virtual address on (R416). -/
def State.frameStore (s : State) (c cid va : Nat) (fuel : Nat) (bs : List Byte) : FrameRes :=
  match fuel with
  | 0 => .ok s
  | k + 1 =>
    match s.translate c va .write with
    | (s1, .to true a) => State.frameStore (s1.writeHost a (bs.take 16)) c cid (va + 16) k (bs.drop 16)
    | (s1, .to false a) =>
      match s1.gate c cid a 16 false false with
      | .pass => State.frameStore (s1.coreWrite cid a (bs.take 16) false) c cid (va + 16) k (bs.drop 16)
      | .wait => .wait
      | _ => .failed
    | _ => .failed

/-- The frame written at %trapbase in the private space of lane 0 (R335, R416). -/
def State.writeFrame (s : State) (w : Nat) (t : Trap) : FrameRes :=
  let x := s.warp w
  let base := x.trapbase.toNat
  if (s.wgOf w).launch.privsize < base + 2048 then .failed
  else s.frameStore x.ctx (warpCid w) (s.privVa w 0 base) 128 (s.frameBytes w t)

/-- The lanes of a trap put in handler mode (R416): the bank registers written, pc at %traphandler. A lane that was at its exit leaves
its exit for the time of the handler. -/
def State.enterLanes (s : State) (w : Nat) (t : Trap) : State :=
  let x := s.warp w
  let ls := lanesOf t.lanes
  let recs := t.recs.map (fun r => { r with rp := s.resumeAt w r.lane })
  let regs := ((s.regs.setHs w 0 (causeWord t)).setHs w 1 t.lanes)
  let regs := ls.foldl (fun (r : RegFile) l => (r.setHv w l 0 (s.resumeAt w l)).setPc w l x.traphandler) regs
  let s1 := { s with regs := regs }
  s1.setWarp w { x with
    hmode := x.hmode ||| t.lanes, latch := some { t with recs := recs, leaving := x.leaving &&& t.lanes }, holds := x.holds.tail,
    leaving := x.leaving &&& ~~~t.lanes }

/-- A trap with REPL as it stands when its frame is written (R417): a lane of T holds a pending replay. -/
def State.withRepl (s : State) (w : Nat) (t : Trap) : Trap := { t with repl := (lanesOf t.lanes).any (s.laneParked w) }

/-- What a fatal cause of a trap names. -/
def fatalInfoOf (w : Nat) (pc : Word) (lanes : Mask) (c : Cause) (sub : Nat) (addr : BitVec 64) (flags : Nat) :
    FatalInfo :=
  { w := w, lanes := lanes, pc := pc, cause := c.code, sub := sub, faddr := if c = .secv then 0 else addr, flags := flags,
    fmasks := nmapSet [] w lanes }

/-- Whether the lanes of a trap may enter: no lane is in handler mode, and what they issued before has completed, parked parts
apart (R415, R416). -/
def State.mayEnter (s : State) (w : Nat) (t : Trap) : Bool :=
  (s.warp w).hmode = 0 &&
  !s.ops.any (fun e => e.2.w = w && !e.2.accepted && t.op ≠ some e.1 &&
    (lanesOf (e.2.lanes &&& t.lanes)).any (fun l => (nmapFind e.2.parked l).isNone))

/-- Entering the handler for the first trap held (R416): the frame is written, then its lanes enter. A frame that cannot be written
makes the cause fatal. -/
def State.enterHandler (s : State) (w : Nat) : State :=
  match (s.warp w).holds with
  | [] => s
  | t0 :: _ =>
    let t := s.withRepl w t0
    if s.mayEnter w t then
      match s.writeFrame w t with
      | .ok s1 => s1.enterLanes w t
      | .wait => s
      | .failed =>
        let l := (leadOf t.lanes).getD 0
        let addr := match t.laneRec l with | some r => r.addr | none => 0
        s.fatalEnd (s.warp w).ctx (fatalInfoOf w (s.regs.getPc w l) t.lanes t.cause t.sub (if t.fav then addr else 0) 2)
    else s

/-- Whether a cause of a lane is fatal (R412, R413): marked Fatal, no handler, or raised in handler mode. -/
def State.isFatal (s : State) (w : Nat) (r : Raised) : Bool :=
  r.cause.fatal || (s.warp w).traphandler = 0xFFFFFFFF#32 || s.inHandler w r.lane

/-- The lowest cause code among those raised (R414). -/
def lowestCode (rs : List Raised) : Nat := rs.foldl (fun m r => min m r.cause.code) 256

/-- The causes of one instruction raised (R413 to R415): a fatal one ends the context; otherwise the lanes with the lowest code are
trapped, and the lanes with another code issue the instruction again. Nothing is raised once the warp's context has ended (R424). -/
def State.raise (s : State) (w : Nat) (pc : Word) (word : IWord) (rs : List Raised) (rc : Nat → LaneRec) (op : Option Nat) : State :=
  if (nmapFind s.warps w).isNone then s else
  match rs.filter (s.isFatal w) with
  | r :: _ =>
    let same := rs.filter (fun q => q.cause = r.cause)
    let flags := (if s.inHandler w r.lane then 1 else 0)
      + (if !r.cause.fatal && !s.inHandler w r.lane && (s.warp w).traphandler = 0xFFFFFFFF#32 then 8 else 0)
    let s1 := if r.cause = .poison then
        same.foldl (fun (t : State) q =>
          t.reportConsumed (s.warp w).ctx q.sub q.addr (s.submitOf (s.wgOf w)) (s.whereOf w)) s
      else s
    s1.fatalEnd (s.warp w).ctx
      (fatalInfoOf w pc (maskOf (same.map (·.lane))) r.cause r.sub (if causeFav r.cause then r.addr else 0) flags)
  | [] =>
    let code := lowestCode rs
    match rs.filter (fun r => r.cause.code = code) with
    | [] => s
    | r :: rest =>
      let ts := r :: rest
      let mask := maskOf (ts.map (·.lane))
      let recs := ts.map (fun q => { rc q.lane with lane := q.lane, addr := q.addr })
      let t : Trap :=
        { cause := r.cause, sub := r.sub, lanes := mask, word := word, fav := causeFav r.cause,
          repl := (lanesOf mask).any (s.laneParked w), recs := recs, op := op }
      let x := s.warp w
      let s1 := s.setWarp w { x with holds := x.holds ++ [t] }
      if x.holds = [] then s1.enterHandler w else s1

/-- A record with no operand values. -/
def noRec (l : Nat) : LaneRec := { lane := l, a := 0, b := 0, c := 0, addr := 0, rp := 0, hm := false, aux := 0, data := 0 }

/-! ## Sequencing -/

/-- The next pc and the NXT writes of a lane of M (R37, R38), read from the state before the instruction. -/
def State.nxt (s : State) (h : Hdr) (w l : Nat) (pc : Word) : Word × List RegWrite :=
  let k := h.t.toNat
  match h.nxt with
  | .seq => (pc + 1, [])
  | .jmp => (s.regs.getBt w l k, [])
  | .call => (s.regs.getBt w l k, [.lk l (pc + 1)])
  | .ret => (s.regs.getLk w l, [])
  | .loop =>
    let c := s.regs.getLc w l (k % 4)
    if c = 0 then (pc + 1, []) else (s.regs.getBt w l k, [.lc l (k % 4) (c - 1)])
  | .exit => (pc, [])

/-- The lookahead windows of the lanes that issued an instruction which took effect (R43): one less left in each, through every transfer and in
either mode. -/
def countWindow (o : Op) (w : Nat) (lanes : Mask) : Op :=
  if o.w = w then
    { o with win := (lanesOf (lanes &&& o.lanes)).foldl (fun (m : NMap Nat) (l : Nat) => dmapSet 0 m l (dmapGet 0 m l - 1)) o.win }
  else o

/-- What is left of completed instructions' windows once some lanes have issued an instruction that took effect (R43, R44). -/
def countLeft (ws : List Window) (lanes : Mask) : List Window :=
  (ws.map (fun x => if lanes.getLsbD x.lane then { x with left := x.left - 1 } else x)).filter
    (fun x => decide (x.left ≠ 0))

/-- The lanes for which an instruction took effect move on: those of M by NXT, those with a false guard to pc + 1; an exiting lane
is marked (R36, R37, R41). `pre` is the state that NXT reads. Nothing moves once the warp's context has ended (R424). -/
def State.advance (s pre : State) (h : Hdr) (w : Nat) (pc : Word) (m off : Mask) : State :=
  if (nmapFind s.warps w).isNone then s else
  let nx : List (Nat × Word × List RegWrite) := (lanesOf m).map (fun l => (l, pre.nxt h w l pc))
  let s1 := s.applyWrites w (nx.flatMap (fun (e : Nat × Word × List RegWrite) => e.2.2))
  let regs := nx.foldl (fun (r : RegFile) (e : Nat × Word × List RegWrite) => r.setPc w e.1 e.2.1) s1.regs
  let regs := (lanesOf off).foldl (fun (r : RegFile) l => r.setPc w l (pc + 1)) regs
  let x := s1.warp w
  let leaving := if h.nxt = .exit then x.leaving ||| m else x.leaving
  let cw := x.cvsetWait.filter (fun e => !(m ||| off).getLsbD e.1)
  let s2 := { s1 with regs := regs, ops := s1.ops.map (fun (e : Nat × Op) => (e.1, countWindow e.2 w (m ||| off))) }
  s2.setWarp w { x with leaving := leaving, cvsetWait := cw, wins := countLeft x.wins (m ||| off) }

/-- What the NXT writes of the lanes that issue an instruction are about to replace (R38, R39). -/
def State.undoNxt (s : State) (h : Hdr) (w : Nat) (ls : List Nat) : List RegWrite :=
  match h.nxt with
  | .call => ls.map (fun l => .lk l (s.regs.getLk w l))
  | .loop => ls.map (fun l => .lc l (h.t.toNat % 4) (s.regs.getLc w l (h.t.toNat % 4)))
  | _ => []

/-- The flags that lanes of M raise, ORed into %fpflags (R60). -/
def State.orFlags (s : State) (w : Nat) (f : FpFlags) : State :=
  if f = 0 then s else s.setWarp w { s.warp w with fpflags := (s.warp w).fpflags ||| f }

/-! ## Issue of fixed-latency instructions -/

/-- What a lane's operation produces: register writes and flags. -/
structure LaneOut where
  ws : List RegWrite
  fl : FpFlags
  deriving DecidableEq, Repr

/-- A fixed-latency operation: its cause before REGA (PRIV, ROLE), what else a lane waits for, its own cause with sub-cause, the
operand values a trap records, its lane results, and its effect on the warp as a whole, for the lanes of M. -/
structure FixedOp where
  pre : State → Rd → Option Cause := fun _ _ => none
  wait : State → Rd → Bool := fun _ _ => false
  cause : State → Rd → Option (Cause × Nat) := fun _ _ => none
  slots : State → Rd → LaneRec := fun _ c => noRec c.l
  out : State → Rd → LaneOut
  post : State → Rd → State := fun s _ => s

/-- The lanes selected that may issue to a pipe: not blocked, and with no record and no operand to wait for. -/
def State.readyLanes (s : State) (h : Hdr) (ck : Check) (p : Pipe) (w : Nat) (mask : Mask) (own : Nat → Bool) : Mask :=
  maskOf ((lanesOf mask).filter (fun l => !s.laneBlocked w l && !(ck.ok && (s.recordWaits p w l || s.useWaits h ck own w l))))

/-- The causes that the lanes of an issue raise (R64): each lane at most one. -/
def State.issueCauses (s : State) (h : Hdr) (ck : Check) (pre : Nat → Option Cause) (own : Nat → Option (Cause × Nat × BitVec 64))
    (w : Nat) (lanes : Mask) : List Raised :=
  (lanesOf lanes).filterMap (fun l =>
    match s.earlyCause h ck (pre l) w l with
    | some c => some ⟨l, c, if c = .poison then 1 else 0, 0⟩
    | none => if s.guardTrue h w l then (own l).map (fun r => ⟨l, r.1, r.2.1, r.2.2⟩) else none)

/-- The lanes among some whose guard is true. -/
def State.guardMask (s : State) (h : Hdr) (w : Nat) (lanes : Mask) : Mask := maskOf ((lanesOf lanes).filter (s.guardTrue h w))

/-- The register writes of the lanes of M, each read from the state before the instruction; a shared register takes the lowest
lane's (R11, R57). -/
def laneWrites (outs : List (Nat × LaneOut)) : List RegWrite :=
  match outs with
  | [] => []
  | (_, o) :: rest => o.ws ++ rest.flatMap (fun e => e.2.ws.filter (fun x => !x.shared))

/-- Issue of a fixed-latency instruction by the selected lane set (R36 to R39, R57, R60, R64, R108, R414). -/
def issueFixed (h : Hdr) (ck : Check) (op : FixedOp) (s : State) : State :=
  let c := s.cur
  let w := c.w
  let rd (m : Mask) (l : Nat) : Rd := { w := w, l := l, mask := c.mask, m := m, pc := c.pc }
  let ready := s.readyLanes h ck .a w c.mask (fun l => op.wait s (rd 0 l))
  let rs := s.issueCauses h ck (fun l => op.pre s (rd 0 l)) (fun l => (op.cause s (rd 0 l)).map (fun r => (r.1, r.2, 0))) w ready
  let ok := ready &&& ~~~maskOf (rs.map (·.lane))
  let m := s.guardMask h w ok
  let outs := (lanesOf m).map (fun l => (l, op.out s (rd m l)))
  let s1 := s.applyWrites w (laneWrites outs)
  let s2 := s1.orFlags w (outs.foldl (fun f e => f ||| e.2.fl) 0)
  let s3 := if m = 0 then s2 else op.post s2 (rd m ((leadOf m).getD 0))
  let s4 := s3.advance s h w c.pc m (ok &&& ~~~m)
  s4.raise w c.pc c.word rs (fun l => op.slots s (rd m l)) none

end Sys2Proof.Machine
end

