-- ==== Sys2Proof/Machine/Issue.lean ====
section
/-! DEFINITION. Issue of the long-latency instructions (R42 to R47, R268, R378 to R380) and of the warp-wide ones (R371 to R374). -/

namespace Sys2Proof.Machine

/-! ## Outstanding instructions -/

/-- How one lane's part of an outstanding instruction goes when it is tried: performed, with the registers to be written at
completion; accepted by an engine that writes its registers later (R46); waiting; parked on a translation fault; or raising a cause. -/
inductive Perf where
  | done (ws : List RegWrite)
  | accept
  | wait (k : OpWait) (obj : Nat)
  | park (va kind level : Nat) (entry : BitVec 64)
  | trap (c : Cause) (sub : Nat) (addr : BitVec 64)
  deriving DecidableEq, Repr

/-- A long-latency operation: causes before REGA, what else a lane waits for, its own causes with sub-cause and fault address, the
operands read at issue, the pending set, whether it acts once for its warp, the pipe it issues to (R363), the reservation it names (R163), how
its accesses are ordered and what storage each lane's touches (R238, R244), whether its registers are written after completion (R46), and how
one lane's part is performed. -/
structure LongOp where
  pre : State → Rd → Option Cause := fun _ _ => none
  wait : State → Rd → Bool := fun _ _ => false
  cause : State → Rd → Option (Cause × Nat × BitVec 64) := fun _ _ => none
  slots : State → Rd → LaneRec
  pend : State → Rd → List PendReg := fun _ _ => []
  once : Bool := false
  pipe : Pipe := .m
  resv : State → Rd → Option Nat := fun _ _ => none
  ord : MemOrd := {}
  span : State → Rd → Nat × Nat × Nat := fun _ _ => (0, 0, 0)
  late : Bool := false
  perf : State → Op → Nat → State × Perf

/-- The pending registers of a destination (R44, R56). -/
def pendOf (hm : Bool) (o : Opnd) (l n : Nat) : List PendReg :=
  match o with
  | .v k => (List.range n).map (fun j => if hm then .hv l (k.toNat + j) else .v l (k.toNat + j))
  | .s k => (List.range n).map (fun j => if hm then .hs (k.toNat + j) else .s (k.toNat + j))
  | .p k => [.p l k.toNat]
  | .cv k => [.cv k.toNat]
  | _ => []

/-- The lowest lane that issued an outstanding instruction with a true guard: the source of its scalar results (R57). -/
def opLead (o : Op) : Nat := match o.recs with | r :: _ => r.lane | [] => 0

/-- The operand record of a lane. -/
def opRec (o : Op) (l : Nat) : LaneRec := (o.recs.find? (fun r => r.lane = l)).getD (noRec l)

/-- The state with an outstanding instruction replaced. -/
def State.setOp (s : State) (id : Nat) (o : Op) : State := { s with ops := nmapSet s.ops id o }

/-- An outstanding instruction changed, if it is still there. -/
def State.modOp (s : State) (id : Nat) (f : Op → Op) : State := { s with ops := nmapModify s.ops id f }

/-- A fault of a context recorded to be reported, unless one is outstanding for the page and KIND (R399); `op` is the instruction that parks. -/
def State.addFault (s : State) (c : Nat) (agent : FaultAgent) (va kind level : Nat) (entry : BitVec 64) (loc : Nat) (op : Nat := 0) : State :=
  if s.faults.any (fun f => f.ctx = c && f.va / 4096 = va / 4096 && f.kind = kind && !f.done) then s
  else
    let f : FaultRec :=
      { serial := 0, ctx := c, kind := kind, level := level, agent := agent, va := va, entry := entry, ptag := (s.ctx c).ptag,
        loc := loc, op := op, lanes := 0, written := false, done := false }
    { s with faults := s.faults ++ [f] }

/-- The registers of a lane released from a pending set. -/
def dropPend (ps : List PendReg) (lead l : Nat) : List PendReg :=
  ps.filter (fun p => match p with
    | .v l' _ | .hv l' _ | .p l' _ => decide (l' ≠ l)
    | .s _ | .hs _ | .cv _ | .tile _ _ => decide (l ≠ lead))

/-- A lane's part taken out of an outstanding instruction, which ends with its last lane. A part that raised a cause leaves shared
registers pending for the lanes that remain (R108); a part dropped by the handler releases its own (R422). -/
def State.dropLane (s : State) (id l : Nat) (trapped : Bool) : State :=
  match nmapFind s.ops id with
  | none => s
  | some o =>
    let lanes := o.lanes &&& ~~~bit32 l
    if lanes = 0 then { s with ops := nmapErase s.ops id }
    else s.setOp id { o with lanes := lanes, todo := o.todo &&& ~~~bit32 l,
                             recs := if trapped then o.recs.filter (fun r => decide (r.lane ≠ l)) else o.recs,
                             pend := dropPend o.pend (if trapped then 32 else opLead o) l, parked := nmapErase o.parked l }

/-- The lanes that one part of an outstanding instruction stands for: all of them when it acts once for its warp. -/
def partLanes (op : LongOp) (o : Op) (l : Nat) : List Nat := if op.once then lanesOf o.lanes else [l]

/-- Lanes' parts taken out of an outstanding instruction. -/
def State.dropLanes (s : State) (id : Nat) (ls : List Nat) : State := ls.foldl (fun t l => t.dropLane id l true) s

/-- Where an access lies for the order of accesses: of device memory, class 1, the place in its page decides, since two virtual addresses may
name one frame. -/
def spanBase (a : Nat × Nat × Nat) : Nat := if a.1 = 1 then a.2.1 % 4096 else a.2.1

/-- Whether two accesses may touch a common unit of `u` bytes of one class of storage. -/
def unitsMeet (u : Nat) (a b : Nat × Nat × Nat) : Bool :=
  a.1 = b.1 && decide (spanBase a / u * u < spanBase b + b.2.2) && decide (spanBase b / u * u < spanBase a + a.2.2)

/-- Whether two accesses may touch a common byte (R238). -/
def spansMeet (a b : Nat × Nat × Nat) : Bool := a.1 = 0 || b.1 = 0 || unitsMeet 1 a b

/-- The lanes of a RAYQ that the ray engine has accepted. -/
def rayAccepted (o : Op) : Mask := match o.mark with | some m => BitVec.ofNat 32 m | none => 0

/-- Whether a lane's query is with the ray engine (R224, R228). -/
def queryHeld (o : Op) (l : Nat) : Bool :=
  match o.instr with
  | .rayq _ _ => (rayAccepted o).getLsbD l
  | _ => false

/-- Whether a lane's part of an outstanding instruction has been neither performed, nor accepted by an engine, nor parked. -/
def partOpen (o : Op) (l : Nat) : Bool :=
  (if o.once then decide (o.todo ≠ 0) && o.lanes.getLsbD l else o.todo.getLsbD l) && (nmapFind o.parked l).isNone && !o.accepted
    && !queryHeld o l

/-- Whether a lane's part of an outstanding instruction is still to be performed, a pending replay among them (R378, R380). A part whose PAGE
has been raised is its handler's (R400, R422). -/
def partUndone (o : Op) (l : Nat) : Bool := partOpen o l || partParked o l

/-- Whether an instruction comes after an earlier one of a lane, in the mode that both were issued in. -/
def laterOf (o e : Op) (l : Nat) : Bool := e.w = o.w && decide (e.seq < o.seq) && e.ord.mem && recHm e l == recHm o l

/-- Whether an access of a lane comes after one of an earlier instruction of the lane that is still to be performed (R238, R244): the earlier
one is an acquire, the later one a release, or both may touch one byte. -/
def orderedAfter (o e : Op) (l : Nat) : Bool :=
  laterOf o e l && partUndone e l && (e.ord.acq || o.ord.rel || spansMeet (opRec e l).span (opRec o l).span)

/-- Whether the access that a lane's part makes of device memory reaches an L2 slice (R239, R241). -/
def State.reachesL2 (s : State) (o : Op) (l : Nat) : Bool :=
  let a := (opRec o l).span
  let far (pa : Nat) : Bool := match o.ord.l2 with
    | .never => false
    | .miss => !s.cacheable pa || !s.l1Holds (warpCid o.w) pa a.2.2 false
    | .always => true
  if a.1 = 1 then (match (s.translateAt (warpCid o.w) (s.warp o.w).ctx a.2.1 .read).2 with | .to false pa => far pa | _ => false)
  else a.1 = 7 && far a.2.1

/-- Whether an access of a lane would reach the slice of a line for which an earlier access of the lane waits there: the slice keeps the two in
program order (R20). -/
def State.lineAfter (s : State) (o e : Op) (l : Nat) : Bool :=
  laterOf o e l && partOpen e l && (e.waitOf l).1 = .release && unitsMeet 128 (opRec e l).span (opRec o l).span && s.reachesL2 o l

/-- Whether an access of a lane comes after that of a lower lane of the same instruction that waits (R238, R266): both may touch one byte, and
the instruction writes it or its full-empty bit. -/
def laneAfter (o : Op) (l : Nat) : Bool :=
  !o.once && o.ord.wr && (List.range l).any (fun j => partOpen o j && spansMeet (opRec o j).span (opRec o l).span)

/-- Whether the part of an instruction that a lane stands for must wait for earlier accesses of its lanes (R20, R238, R244, R266). -/
def State.partHeld (s : State) (o : Op) (l : Nat) : Bool :=
  o.ord.mem &&
  (s.ops.any (fun e => (if o.once then lanesOf o.lanes else [l]).any (fun j => orderedAfter o e.2 j || s.lineAfter o e.2 j)) || laneAfter o l)

/-- The wait of a held part, and its object: behind a lower lane alone, which waits on the full-empty bit of the same granule, it is a full-empty
wait of the lane's own, which the watchdog counts (R266, R376). -/
def State.heldWait (s : State) (o : Op) (l : Nat) : OpWait × Nat :=
  if !s.ops.any (fun e => orderedAfter o e.2 l || s.lineAfter o e.2 l) && (List.range l).any (fun j =>
      partOpen o j && (o.waitOf j).1 = .fullEmpty && spansMeet (opRec o j).span (opRec o l).span) then (.fullEmpty, (opRec o l).addr.toNat)
  else (.order, 0)

/-- The wait of the part that a lane stands for; another kind of wait starts a count of its own for the lanes `ls` (R377). -/
def Op.setWait (o : Op) (l : Nat) (ls : List Nat) (k : OpWait) (obj : Nat) : Op :=
  { o with waits := dmapSet (.none, 0) o.waits l (k, obj), count := if (o.waitOf l).1 = k then o.count else ls.foldl nmapErase o.count }

/-- The demotion of a warp ended (R369). -/
def State.endDemotion (s : State) (w : Nat) : State :=
  if (nmapFind s.warps w).isSome then s.setWarp w { s.warp w with demotedLeft := 0 } else s

/-- A memory event for the warp once an engine has accepted an instruction of its, which completes it for R43 (R46, R369). -/
def State.acceptWake (s : State) (id w : Nat) : State :=
  match nmapFind s.ops id with
  | some o => if o.accepted then s.endDemotion w else s
  | none => s

/-- One lane's part tried: the state after it, and the causes raised. A part that must come after an earlier access of its lane waits, and so
does one that would park while the warp's records are in use (R379). -/
def performLane (op : LongOp) (id l : Nat) (s : State) : State × List Raised :=
  match nmapFind s.ops id with
  | none => (s, [])
  | some o =>
    if !o.todo.getLsbD l then (s, [])
    else
    let ls := partLanes op o l
    if s.partHeld o l then
      let k := s.heldWait o l
      (s.modOp id (fun o => if (o.waitOf l).1 = .none || k.1 = .fullEmpty then o.setWait l ls k.1 k.2 else o), [])
    else
      let rest (o : Op) : Op :=
        { o with todo := o.todo &&& ~~~bit32 l, waits := nmapErase o.waits l, parked := ls.foldl nmapErase o.parked, count := ls.foldl nmapErase o.count }
      match op.perf s o l with
      | (s1, .done ws) =>
        let keep := ws.filter (fun x => !x.shared || l = opLead o)
        (s1.modOp id (fun o => { rest o with writes := o.writes ++ keep }), [])
      | (s1, .accept) => ((s1.modOp id (fun o => { rest o with accepted := true })).endDemotion o.w, [])
      | (s1, .wait k obj) => ((s1.modOp id (fun o => o.setWait l ls k obj)).acceptWake id o.w, [])
      | (s1, .park va kind level e) =>
        if !opHolds o && decide (15 ≤ s1.parkedCount o.w) then (s1.modOp id (fun o => o.setWait l ls .record 0), [])
        else
        ((s1.modOp id (fun o => { o with waits := nmapErase o.waits l, parked := ls.foldl (fun m j => nmapSet m j (va, kind)) o.parked })).addFault
          (s1.warp o.w).ctx .lane va kind level e (s1.whereOf o.w) id, [])
      | (s1, .trap c sub addr) => (s1.dropLanes id ls, ls.map (fun j => ⟨j, c, sub, addr⟩))

/-- The parts of several lanes tried in ascending order (R238). -/
def performLanes (op : LongOp) (id : Nat) (ls : List Nat) (s : State) : State × List Raised :=
  match ls with
  | [] => (s, [])
  | l :: t =>
    let r := performLane op id l s
    let q := performLanes op id t r.1
    (q.1, r.2 ++ q.2)

/-- Whether what an NXT write replaced belongs to a lane that raised a cause (R39). -/
def undoOf (rs : List Raised) (x : RegWrite) : Bool :=
  match x with
  | .lk l _ | .lc l _ _ => rs.any (fun q => q.lane = l)
  | _ => false

/-- Parts tried after issue: a cause other than PAGE takes the lane back to the instruction, as if it had made no transfer and no NXT
write (R39, R416). -/
def retryLanes (op : LongOp) (id : Nat) (ls : List Nat) (s : State) : State :=
  match nmapFind s.ops id with
  | none => s
  | some o =>
    let r := performLanes op id ls s
    if r.2.isEmpty then r.1
    else
      let back := r.2.foldl (fun (t : State) q => { t with regs := t.regs.setPc o.w q.lane o.pc })
        (r.1.applyWrites o.w (o.undo.filter (undoOf r.2)))
      let x := back.warp o.w
      let s1 := if (nmapFind back.warps o.w).isSome then back.setWarp o.w { x with leaving := x.leaving &&& ~~~maskOf (r.2.map (·.lane)) } else back
      s1.raise o.w o.pc o.word r.2 (opRec o) none

/-- The record of a long-latency instruction that lanes issue (R43, R44); its own issue counts off the first of each window. -/
def newOp (i : Instr) (h : Hdr) (op : LongOp) (s : State) (w : Nat) (pc : Word) (word : IWord) (mask m : Mask) (id : Nat) : Op :=
  let rd (l : Nat) : Rd := { w := w, l := l, mask := mask, m := m, pc := pc }
  let ls := lanesOf m
  { w := w, pc := pc, word := word, instr := i, lanes := m, todo := if op.once then bit32 ((leadOf m).getD 0) else m,
    once := op.once,
    win := ls.map (fun l => (l, h.la.toNat + 1)), recs := ls.map (fun l => { op.slots s (rd l) with
      hm := s.inHandler w l, aux := match (s.warp w).tile with | some t => t + 1 | none => 0, span := op.span s (rd l) }), writes := [],
    pend := ls.flatMap (fun l => op.pend s (rd l)), waits := [], count := [], seq := id, resv := op.resv s (rd ((leadOf m).getD 0)),
    mark := none, mma := none, job := none, accepted := false, parked := [], ord := op.ord, late := op.late, undo := s.undoNxt h w ls, susp := false }

/-- Causes by ascending lane: of several fatal ones the lowest lane's is recorded (R414). -/
def inLaneOrder (rs : List Raised) : List Raised := (List.range 32).flatMap (fun l => rs.filter (fun r => r.lane = l))

/-- Issue of a long-latency instruction (R43, R44, R64, R378, R379): the causes, the sequencing, then the parts of the lanes of M. -/
def issueLong (i : Instr) (h : Hdr) (op : LongOp) (s : State) : State :=
  let c := s.cur
  let w := c.w
  let ck := checkOf i
  let rd (m : Mask) (l : Nat) : Rd := { w := w, l := l, mask := c.mask, m := m, pc := c.pc }
  let ready := s.readyLanes h ck op.pipe w c.mask (fun l => op.wait s (rd 0 l))
  let rs := s.issueCauses h ck (fun l => op.pre s (rd 0 l)) (fun l => op.cause s (rd (s.guardMask h w ready) l)) w ready
  let ok := ready &&& ~~~maskOf (rs.map (·.lane))
  let m := s.guardMask h w ok
  let r : State × List Raised :=
    if m = 0 then (s, [])
    else
      let id := s.serial + 1
      let o := newOp i h op s w c.pc c.word c.mask m id
      performLanes op id (lanesOf o.todo) ({ s with serial := id }.setOp id o)
  let done := ~~~maskOf (r.2.map (·.lane))
  let s1 := r.1.advance s h w c.pc (m &&& done) (ok &&& ~~~m)
  s1.raise w c.pc c.word (inLaneOrder (rs ++ r.2)) (fun l => op.slots s (rd m l)) none

/-- The lanes of an outstanding instruction that are parked. -/
def parkedMask (o : Op) : Mask := maskOf (o.parked.map (·.1))

/-- Whether every part but the parked ones has been performed, so that the instruction is complete for those lanes (R268, R378). -/
def opComplete (o : Op) : Bool := (o.todo &&& ~~~parkedMask o) = 0 && (o.lanes &&& ~~~parkedMask o) ≠ 0 && !o.accepted

/-- The windows of the lanes for which an instruction completes, kept to their ends (R43, R44). -/
def State.closeWindows (s : State) (o : Op) : State :=
  let ls := (lanesOf (o.lanes &&& ~~~parkedMask o)).filter (fun l => decide (dmapGet 0 o.win l ≠ 0))
  if o.late || o.pend.isEmpty || ls.isEmpty || (nmapFind s.warps o.w).isNone then s
  else
    let x := s.warp o.w
    s.setWarp o.w { x with
      wins := x.wins ++ ls.map (fun l => ({ lane := l, left := dmapGet 0 o.win l, pend := o.pend, mma := o.mma.isSome } : Window)) }

/-- Completion (R43, R268): the registers are written and released; parked parts stay outstanding. A PAUSE of the warp ends (R369). -/
def State.completeOp (s : State) (id : Nat) : State :=
  match nmapFind s.ops id with
  | none => s
  | some o =>
    if !opComplete o then s
    else
      let s1 := (s.applyWrites o.w o.writes).closeWindows o
      let left := o.lanes &&& parkedMask o
      let s2 :=
        if left = 0 then { s1 with ops := nmapErase s1.ops id }
        else s1.setOp id { o with lanes := left, todo := left, writes := [],
                                  pend := (lanesOf (o.lanes &&& ~~~left)).foldl (fun ps l => dropPend ps (opLead o) l) o.pend }
      s2.endDemotion o.w

/-! ## Warp-wide instructions -/

/-- The reader of the lowest lane of M, for an instruction that acts once for its warp. -/
def Rd.lead (c : Rd) : Rd := { c with l := (leadOf c.m).getD c.l }

/-- A warp-wide operation: causes before REGA, other waits, its own causes at issue, operand values for a trap, whether it must wait
to execute once every member has signed (R146), the cause it raises at execution for the lanes of C, and what it does once it
executes, for the lanes C of `Rd.m` (R137, R371, R372). A long-latency one makes its own outstanding record. -/
structure WideOp where
  pre : State → Rd → Option Cause := fun _ _ => none
  wait : State → Rd → Bool := fun _ _ => false
  cause : State → Rd → Option (Cause × Nat × BitVec 64) := fun _ _ => none
  slots : State → Rd → LaneRec := fun _ c => noRec c.l
  full : State → Nat → Bool := fun _ _ => false
  late : State → Rd → Option (Cause × Nat × BitVec 64) := fun _ _ => none
  long : Bool := false
  exec : State → Rd → State

/-- The signers that wait for the operation: all but those resumed past it (R371). -/
def Sign.waiting (g : Sign) : Mask := g.signed &&& ~~~g.passed

/-- The lanes C of a round (R372). -/
def Sign.acting (g : Sign) : Mask := g.guard &&& g.signed

/-- A cause for every signer of a round that waits. -/
def Sign.causes (g : Sign) (c : Cause) : List Raised := (lanesOf g.waiting).map (fun l => ⟨l, c, 0, 0⟩)

/-- The signers of a round raise a cause (R373, R374). The capture of a fatal one finds them in their wait (R455), so the round is closed
after it. -/
def State.raiseSigners (s : State) (w : Nat) (g : Sign) (c : Cause) : State :=
  s.raise w g.pc g.word (g.causes c) (fun l => (g.recs.find? (fun r => r.lane = l)).getD (noRec l)) none

/-- Two rounds that do not match raise CVMIS (R373): the lower pc first (R415), or as one when the cause ends the context (R424, R425). -/
def State.raiseMismatch (s : State) (w : Nat) (g g2 : Sign) : State :=
  let all := inLaneOrder (g.causes .cvmis ++ g2.causes .cvmis)
  if all.any (s.isFatal w) then
    s.raise w (match all with | q :: _ => if g.signed.getLsbD q.lane then g.pc else g2.pc | [] => g2.pc) g2.word all noRec none
  else if g.pc.toNat < g2.pc.toNat then (s.raiseSigners w g .cvmis).raiseSigners w g2 .cvmis
  else (s.raiseSigners w g2 .cvmis).raiseSigners w g .cvmis

/-- How a signing ends (R371 to R374): at another pc than the recorded one, with a member that has exited, with the operation, or in a wait. -/
inductive SignEnd where
  | mismatch (g2 : Sign)
  | exited (g : Sign)
  | runs (g : Sign)
  | waits (g : Sign)
  deriving DecidableEq, Repr

/-- The end of a signing by the lanes `new`, of which `passed` sign from a handler without waiting (R371 to R374, R146). -/
def State.signEnd (s : State) (op : WideOp) (i : Instr) (w k : Nat) (pc : Word) (word : IWord) (new guard passed : Mask) : SignEnd :=
  let g := s.sign w k
  let recs : List LaneRec := (lanesOf new).map (fun l => { op.slots s { w := w, l := l, mask := new, m := new, pc := pc } with lane := l })
  if g.signed ≠ 0 && g.pc ≠ pc then
    .mismatch { signed := new, guard := guard, pc := pc, word := word, instr := some i, count := [], passed := passed, recs := recs, susp := false }
  else
    let g' : Sign :=
      { signed := g.signed ||| new, guard := (g.guard &&& ~~~new) ||| guard, pc := pc, word := word, instr := some i, count := g.count,
        passed := (g.passed &&& ~~~new) ||| passed, recs := g.recs.filter (fun r => !new.getLsbD r.lane) ++ recs, susp := g.susp }
    let members := s.regs.getCv w k
    if members &&& ~~~(g'.signed &&& (s.warp w).live) = 0 then (if op.full s w then .waits g' else .runs g')
    else if members &&& ~~~g'.signed &&& (s.warp w).live = 0 then .exited g'
    else .waits g'

/-- Where the operation of a round reads its sources: for the lanes C, from the lowest of them (R57, R372). -/
def Sign.reader (g : Sign) (w : Nat) : Rd :=
  { w := w, l := (leadOf g.acting).getD 0, mask := g.signed, m := g.acting, pc := g.pc }

/-- The cause that an operation raises at its execution, for the lanes C that wait (R372). -/
def lateCauses (op : WideOp) (w k : Nat) (g : Sign) (s : State) : List Raised :=
  match if g.acting = 0 then none else op.late (s.setSign w k Sign.none) (g.reader w) with
  | some (c, sub, a) => (lanesOf (g.acting &&& g.waiting)).map (fun l => ⟨l, c, sub, a⟩)
  | none => []

/-- The causes that a signing raises at its own instruction (R372 to R374). -/
def SignEnd.causes (e : SignEnd) (op : WideOp) (w k : Nat) (s : State) : List Raised :=
  match e with
  | .mismatch g2 => g2.causes .cvmis
  | .exited g => g.causes .cvexit
  | .runs g => lateCauses op w k g s
  | .waits _ => []

/-- The operation executes (R372): it reads its sources now, and every signer that waits moves on; when it raises a cause, the lanes
of C stay at it. -/
def runWide (op : WideOp) (h : Hdr) (w k : Nat) (g : Sign) (s : State) : State :=
  let cset := g.acting
  let waiting := g.waiting
  let rd := g.reader w
  let s1 := s.setSign w k Sign.none
  match if cset = 0 then none else op.late s1 rd with
  | some (c, sub, a) =>
    let s2 := s1.advance s1 h w g.pc 0 (waiting &&& ~~~g.guard)
    s2.raise w g.pc g.word ((lanesOf (g.acting &&& g.waiting)).map (fun l => ⟨l, c, sub, a⟩)) (fun l => op.slots s { rd with l := l }) none
  | none =>
  if op.long then
    let s2 := s1.advance s1 h w g.pc (waiting &&& g.guard) (waiting &&& ~~~g.guard)
    if cset = 0 then s2 else op.exec s2 { rd with undo := s1.undoNxt h w (lanesOf (waiting &&& g.guard)) }
  else
    let s2 := if cset = 0 then s1 else op.exec s1 rd
    s2.advance s1 h w g.pc (waiting &&& g.guard) (waiting &&& ~~~g.guard)

/-- Lanes sign a convergence register (R371 to R374): a pc other than the recorded one is a mismatch; the last member executes the
operation; a member that has exited ends the round. `passed` lanes sign from a handler without waiting. -/
def signWide (op : WideOp) (i : Instr) (h : Hdr) (w k : Nat) (pc : Word) (word : IWord) (new guard passed : Mask) (s : State) : State :=
  match s.signEnd op i w k pc word new guard passed with
  | .mismatch g2 => (s.raiseMismatch w (s.sign w k) g2).setSign w k Sign.none
  | .exited g => ((s.setSign w k g).raiseSigners w g .cvexit).setSign w k Sign.none
  | .runs g => runWide op h w k g s
  | .waits g => s.setSign w k g

/-- Issue of a warp-wide instruction by the selected lane set (R371): members without a cause sign, whatever their guard; a lane that
is no member takes its transfer and no part. Causes of the issue and of the signing are causes of one instruction (R414): a fatal one among
them ends the context, and otherwise the lowest code is raised, and lanes with another have not issued the instruction. -/
def issueWide (i : Instr) (h : Hdr) (k : Nat) (op : WideOp) (s : State) : State :=
  let c := s.cur
  let w := c.w
  let ck := checkOf i
  let rd (m : Mask) (l : Nat) : Rd := { w := w, l := l, mask := c.mask, m := m, pc := c.pc }
  let ready := s.readyLanes h ck (if op.long then .x else .c) w c.mask (fun l => op.wait s (rd 0 l))
  let rs := s.issueCauses h ck (fun l => op.pre s (rd 0 l)) (fun l => op.cause s (rd ready l)) w ready
  let ok := ready &&& ~~~maskOf (rs.map (·.lane))
  let members := s.regs.getCv w k
  let out := ok &&& ~~~members
  let m := s.guardMask h w ok
  let s1 := s.advance s h w c.pc (out &&& m) (out &&& ~~~m)
  let new := ok &&& members
  let slots (l : Nat) : LaneRec := op.slots s (rd m l)
  let cs := if new = 0 then [] else (s1.signEnd op i w k c.pc c.word new (new &&& m) 0).causes op w k s1
  let sign : State := if new = 0 then s1 else signWide op i h w k c.pc c.word new (new &&& m) 0 s1
  if rs.isEmpty || cs.isEmpty then sign.raise w c.pc c.word rs slots none
  else if (rs ++ cs).any (s1.isFatal w) then s1.raise w c.pc c.word (inLaneOrder (rs ++ cs)) slots none
  else if lowestCode cs < lowestCode rs then sign
  else s1.raise w c.pc c.word rs slots none

/-- PRIV for a lane in handler mode: warp-wide instructions and REORD (R419). -/
def privInHandler (s : State) (c : Rd) : Option Cause := if s.inHandler c.w c.l then some .priv else none

/-- ROLE for a warp without the right (R345). -/
def roleCause (r : Role) (s : State) (c : Rd) : Option Cause :=
  let x := (s.warp c.w).role
  if x = .none || x = r then none else some .role

/-- PRIV, then ROLE, for a warp-wide matrix instruction. -/
def matrixWide (s : State) (c : Rd) : Option Cause :=
  match privInHandler s c with
  | some x => some x
  | none => roleCause .matrix s c

/-- PRIV for a lane outside handler mode: RFT, WRIR and RDIR (R66). -/
def privOutside (s : State) (c : Rd) : Option Cause := if s.inHandler c.w c.l then none else some .priv

end Sys2Proof.Machine
end

