-- ==== Sys2Proof/Machine/IntOps.lean ====
section
/-! DEFINITION. Moves, selection, integer arithmetic, logic, shifts, bit fields, comparison, predicates, conversion, dot product
and sequencing support (R110 to R121), the traps of R420, and the words of the emulation space (R63, R144). -/

namespace Sys2Proof.Machine

/-- A lane's result in a destination of one register or a pair. -/
def outD (s : State) (c : Rd) (dst : Opnd) (wide : Bool) (x : BitVec 64) (fl : FpFlags) : LaneOut :=
  ⟨dstWrites (s.inHandler c.w c.l) dst c.l wide x, fl⟩

/-- A 32-bit result. -/
def out32 (s : State) (c : Rd) (dst : Opnd) (x : Nat) : LaneOut := outD s c dst false (BitVec.ofNat 64 x) 0

/-- A result of the instruction's type. -/
def outT (s : State) (c : Rd) (dst : Opnd) (t : Ty) (x : BitVec 64) : LaneOut := outD s c dst (isWide t) x 0

/-- A predicate result. -/
def outP (s : State) (c : Rd) (dst : Opnd) (b : Bool) : LaneOut := outD s c dst false (if b then 1 else 0) 0

/-- An integer instruction of format R (R111): operands of TYPE with NEG, the exact function, the wrap or clamp. -/
def outInt (f : RForm) (g : Int → Int → Int → Int) (s : State) (c : Rd) : LaneOut :=
  outT s c f.dst f.ty (intApply f.ty f.sat g (intMods f.nega false) (intMods f.negb false) (intMods f.negc false)
    (srcN s c f.ty f.sa) (srcN s c f.ty f.sb) (srcN s c f.ty f.sc))

/-- An integer instruction of format I (R111). -/
def outIntI (f : IForm) (g : Int → Int → Int) (s : State) (c : Rd) : LaneOut :=
  outT s c f.dst f.ty (intRes f.ty f.sat (g (intOf f.ty (srcN s c f.ty f.sa)) (immInt f.ty f.imm)))

/-- A raw-bits instruction over one register or a pair (R112). -/
def outBits (f : RForm) (x : State → Rd → BitVec 64) (s : State) (c : Rd) : LaneOut := outT s c f.dst f.ty (x s c)

/-- A fixed-latency instruction without causes of its own. -/
def fixedOf (out : State → Rd → LaneOut) : FixedOp := { out := out }

/-- The width of a shift or bit-field type (R113). -/
def bitsOf (t : Ty) : Nat := intW t

/-- NOP (R110): its NXT alone. -/
def execNop (h : Hdr) (f : RForm) (s : State) : Out :=
  .next (issueFixed h (checkOf (.nop h f)) (fixedOf (fun _ _ => ⟨[], 0⟩)) s)

/-- MOV (R110). -/
def execMov (h : Hdr) (f : RForm) (s : State) : Out :=
  .next (issueFixed h (checkOf (.mov h f)) (fixedOf (fun s c => outT s c f.dst f.ty (s.src c f.ty f.sa))) s)

/-- MOVI (R110): IMM, or its 64-bit extension. -/
def execMovi (h : Hdr) (f : IForm) (s : State) : Out :=
  .next (issueFixed h (checkOf (.movi h f))
    (fixedOf (fun s c => outT s c f.dst f.ty (if f.ty = .i64 then f.imm.signExtend 64 else f.imm.zeroExtend 64))) s)

/-- SEL (R110): a if p XOR SUB[0] is 1, otherwise b. -/
def execSel (h : Hdr) (f : RForm) (s : State) : Out :=
  .next (issueFixed h (checkOf (.sel h f))
    (fixedOf (fun s c => outT s c f.dst f.ty (if s.srcP c f.sc != f.sub.getLsbD 0 then s.src c f.ty f.sa else s.src c f.ty f.sb))) s)

/-- ADD (R111). -/
def execAdd (h : Hdr) (f : RForm) (s : State) : Out :=
  .next (issueFixed h (checkOf (.add h f)) (fixedOf (outInt f (fun a b _ => a + b))) s)

/-- ADDI (R111). -/
def execAddi (h : Hdr) (f : IForm) (s : State) : Out :=
  .next (issueFixed h (checkOf (.addi h f)) (fixedOf (outIntI f (fun a b => a + b))) s)

/-- SUB (R111). -/
def execSub (h : Hdr) (f : RForm) (s : State) : Out :=
  .next (issueFixed h (checkOf (.subOp h f)) (fixedOf (outInt f (fun a b _ => a - b))) s)

/-- MUL (R111). -/
def execMul (h : Hdr) (f : RForm) (s : State) : Out :=
  .next (issueFixed h (checkOf (.mul h f)) (fixedOf (outInt f (fun a b _ => a * b))) s)

/-- MULI (R111). -/
def execMuli (h : Hdr) (f : IForm) (s : State) : Out :=
  .next (issueFixed h (checkOf (.muli h f)) (fixedOf (outIntI f (fun a b => a * b))) s)

/-- MULHI (R111): floor(a × b / 2^w). -/
def execMulhi (h : Hdr) (f : RForm) (s : State) : Out :=
  .next (issueFixed h (checkOf (.mulhi h f)) (fixedOf (outInt f (fun a b _ => (a * b) / 2 ^ intW f.ty))) s)

/-- MAD (R111). -/
def execMad (h : Hdr) (f : RForm) (s : State) : Out :=
  .next (issueFixed h (checkOf (.mad h f)) (fixedOf (outInt f (fun a b c => a * b + c))) s)

/-- MADW (R111): a 64-bit sum of a 32-bit product. -/
def outMadw (f : RForm) (s : State) (c : Rd) : LaneOut :=
  let w := tyWide f.ty
  outT s c f.dst w (intRes w f.sat
    (intOf f.ty (srcN s c f.ty f.sa) * intOf f.ty (srcN s c f.ty f.sb) + intMods f.negc false (intOf w (srcN s c w f.sc))))

def execMadw (h : Hdr) (f : RForm) (s : State) : Out :=
  .next (issueFixed h (checkOf (.madw h f)) (fixedOf (outMadw f)) s)

/-- ABS (R111). -/
def execAbs (h : Hdr) (f : RForm) (s : State) : Out :=
  .next (issueFixed h (checkOf (.absOp h f)) (fixedOf (outInt f (fun a _ _ => (a.natAbs : Int)))) s)

/-- MIN (R111). -/
def execMin (h : Hdr) (f : RForm) (s : State) : Out :=
  .next (issueFixed h (checkOf (.minOp h f)) (fixedOf (outInt f (fun a b _ => min a b))) s)

/-- MAX (R111). -/
def execMax (h : Hdr) (f : RForm) (s : State) : Out :=
  .next (issueFixed h (checkOf (.maxOp h f)) (fixedOf (outInt f (fun a b _ => max a b))) s)

/-- Operand b of AND, OR and XOR, inverted with .notb (R112). -/
def srcNotb (f : RForm) (s : State) (c : Rd) : BitVec 64 := if f.sub.getLsbD 0 then ~~~(s.src c f.ty f.sb) else s.src c f.ty f.sb

/-- AND (R112). -/
def execAnd (h : Hdr) (f : RForm) (s : State) : Out :=
  .next (issueFixed h (checkOf (.andOp h f)) (fixedOf (outBits f (fun s c => s.src c f.ty f.sa &&& srcNotb f s c))) s)

/-- ANDI (R112). -/
def execAndi (h : Hdr) (f : IForm) (s : State) : Out :=
  .next (issueFixed h (checkOf (.andi h f))
    (fixedOf (fun s c => outT s c f.dst .b32 (s.src c .b32 f.sa &&& f.imm.zeroExtend 64))) s)

/-- OR (R112). -/
def execOr (h : Hdr) (f : RForm) (s : State) : Out :=
  .next (issueFixed h (checkOf (.orOp h f)) (fixedOf (outBits f (fun s c => s.src c f.ty f.sa ||| srcNotb f s c))) s)

/-- ORI (R112). -/
def execOri (h : Hdr) (f : IForm) (s : State) : Out :=
  .next (issueFixed h (checkOf (.ori h f))
    (fixedOf (fun s c => outT s c f.dst .b32 (s.src c .b32 f.sa ||| f.imm.zeroExtend 64))) s)

/-- XOR (R112). -/
def execXor (h : Hdr) (f : RForm) (s : State) : Out :=
  .next (issueFixed h (checkOf (.xorOp h f)) (fixedOf (outBits f (fun s c => s.src c f.ty f.sa ^^^ srcNotb f s c))) s)

/-- XORI (R112). -/
def execXori (h : Hdr) (f : IForm) (s : State) : Out :=
  .next (issueFixed h (checkOf (.xori h f))
    (fixedOf (fun s c => outT s c f.dst .b32 (s.src c .b32 f.sa ^^^ f.imm.zeroExtend 64))) s)

/-- The bitwise function of three operands whose table is `lut`, with a the lowest bit of the index (R112). -/
def tern (lut : BitVec 8) (a b c : BitVec 64) : BitVec 64 :=
  let pick (k : Nat) (x y z : BitVec 64) : BitVec 64 := if lut.getLsbD k then x &&& y &&& z else 0
  pick 0 (~~~a) (~~~b) (~~~c) ||| pick 1 a (~~~b) (~~~c) ||| pick 2 (~~~a) b (~~~c) ||| pick 3 a b (~~~c)
    ||| pick 4 (~~~a) (~~~b) c ||| pick 5 a (~~~b) c ||| pick 6 (~~~a) b c ||| pick 7 a b c

/-- TERN (R112). -/
def execTern (h : Hdr) (f : RForm) (s : State) : Out :=
  .next (issueFixed h (checkOf (.tern h f))
    (fixedOf (outBits f (fun s c => tern f.sub (s.src c f.ty f.sa) (s.src c f.ty f.sb) (s.src c f.ty f.sc)))) s)

/-- The count of a shift (R113): the low register of b; w or more with .clamp gives none. -/
def shiftCount (f : RForm) (s : State) (c : Rd) : Option Nat :=
  let k := (s.src32 c .n32 f.sb).toNat
  let w := bitsOf f.ty
  if f.sub.getLsbD 0 then (if w ≤ k then none else some k) else some (k % w)

/-- SHL (R113). -/
def outShl (f : RForm) (s : State) (c : Rd) : LaneOut :=
  let w := bitsOf f.ty
  let a := srcN s c f.ty f.sa % 2 ^ w
  outT s c f.dst f.ty (BitVec.ofNat 64 (match shiftCount f s c with | none => 0 | some k => a * 2 ^ k % 2 ^ w))

def execShl (h : Hdr) (f : RForm) (s : State) : Out :=
  .next (issueFixed h (checkOf (.shl h f)) (fixedOf (outShl f)) s)

/-- SHR (R113). -/
def outShr (f : RForm) (s : State) (c : Rd) : LaneOut :=
  let a := srcN s c f.ty f.sa % 2 ^ bitsOf f.ty
  outT s c f.dst f.ty (BitVec.ofNat 64 (match shiftCount f s c with | none => 0 | some k => a / 2 ^ k))

def execShr (h : Hdr) (f : RForm) (s : State) : Out :=
  .next (issueFixed h (checkOf (.shr h f)) (fixedOf (outShr f)) s)

/-- SAR (R113): floor, signed; with .clamp a count of w or more gives copies of the sign bit. -/
def outSar (f : RForm) (s : State) (c : Rd) : LaneOut :=
  let a := intOf f.ty (srcN s c f.ty f.sa)
  outT s c f.dst f.ty (intRes f.ty false (match shiftCount f s c with | none => if a < 0 then -1 else 0 | some k => a / 2 ^ k))

def execSar (h : Hdr) (f : RForm) (s : State) : Out :=
  .next (issueFixed h (checkOf (.sar h f)) (fixedOf (outSar f)) s)

/-- ROT (R113). -/
def outRot (f : RForm) (s : State) (c : Rd) : LaneOut :=
  let w := bitsOf f.ty
  let a := srcN s c f.ty f.sa % 2 ^ w
  let k := (s.src32 c .n32 f.sb).toNat % w
  let l := if f.sub.getLsbD 0 then (w - k) % w else k
  outT s c f.dst f.ty (BitVec.ofNat 64 (a * 2 ^ l % 2 ^ w + a / 2 ^ (w - l)))

def execRot (h : Hdr) (f : RForm) (s : State) : Out :=
  .next (issueFixed h (checkOf (.rot h f)) (fixedOf (outRot f)) s)

/-- FSH (R113). -/
def outFsh (f : RForm) (s : State) (c : Rd) : LaneOut :=
  let hh := srcN s c .b32 f.sb * 2 ^ 32 + srcN s c .b32 f.sa
  let n := srcN s c .n32 f.sc
  let k := if f.sub.getLsbD 1 then min n 32 else n % 32
  out32 s c f.dst (if f.sub.getLsbD 0 then hh / 2 ^ k % 2 ^ 32 else hh * 2 ^ k % 2 ^ 64 / 2 ^ 32)

def execFsh (h : Hdr) (f : RForm) (s : State) : Out :=
  .next (issueFixed h (checkOf (.fsh h f)) (fixedOf (outFsh f)) s)

/-- BFX (R114). -/
def outBfx (f : RForm) (s : State) (c : Rd) : LaneOut :=
  let w := bitsOf f.ty
  let a := srcN s c f.ty f.sa % 2 ^ w
  let b := srcN s c .b32 f.sb
  let pos := byteOf b 0
  let len := byteOf b 1
  let n := min (pos + len) w - pos
  let x := a / 2 ^ pos % 2 ^ n
  let y : Int := if intSigned f.ty && x.testBit (n - 1) then (x : Int) - 2 ^ n else x
  outT s c f.dst f.ty (if len = 0 ∨ w ≤ pos then 0 else intRes f.ty false y)

def execBfx (h : Hdr) (f : RForm) (s : State) : Out :=
  .next (issueFixed h (checkOf (.bfx h f)) (fixedOf (outBfx f)) s)

/-- BFI (R114). -/
def outBfi (f : RForm) (s : State) (c : Rd) : LaneOut :=
  let w := bitsOf f.ty
  let a := srcN s c f.ty f.sa
  let b := srcN s c f.ty f.sb % 2 ^ w
  let p := srcN s c .b32 f.sc
  let pos := byteOf p 0
  let len := byteOf p 1
  let n := min (pos + len) w - pos
  let x := b / 2 ^ (pos + n) * 2 ^ (pos + n) + a % 2 ^ n * 2 ^ pos + b % 2 ^ pos
  outT s c f.dst f.ty (BitVec.ofNat 64 (if len = 0 ∨ w ≤ pos then b else x))

def execBfi (h : Hdr) (f : RForm) (s : State) : Out :=
  .next (issueFixed h (checkOf (.bfi h f)) (fixedOf (outBfi f)) s)

/-- POPC (R114). -/
def execPopc (h : Hdr) (f : RForm) (s : State) : Out :=
  .next (issueFixed h (checkOf (.popc h f)) (fixedOf (fun s c => out32 s c f.dst (popcountN 64 (srcN s c f.ty f.sa)))) s)

/-- Leading zeros of a w-bit number (R114). -/
def leadingZeros (w x : Nat) : Nat := if x = 0 then w else w - 1 - x.log2

/-- Trailing zeros of a number, w when it is 0 (R114). -/
def trailingZeros (w x : Nat) : Nat :=
  match w with
  | 0 => 0
  | k + 1 => if x % 2 = 1 then 0 else 1 + trailingZeros k (x / 2)

/-- CLZ (R114). -/
def execClz (h : Hdr) (f : RForm) (s : State) : Out :=
  .next (issueFixed h (checkOf (.clz h f)) (fixedOf (fun s c => out32 s c f.dst (leadingZeros (bitsOf f.ty) (srcN s c f.ty f.sa)))) s)

/-- CTZ (R114). -/
def execCtz (h : Hdr) (f : RForm) (s : State) : Out :=
  .next (issueFixed h (checkOf (.ctz h f)) (fixedOf (fun s c => out32 s c f.dst (trailingZeros (bitsOf f.ty) (srcN s c f.ty f.sa)))) s)

/-- The low w bits of a number in reverse order (R114). -/
def revBits (w x : Nat) : Nat :=
  match w with
  | 0 => 0
  | k + 1 => x % 2 * 2 ^ k + revBits k (x / 2)

/-- BREV (R114). -/
def execBrev (h : Hdr) (f : RForm) (s : State) : Out :=
  .next (issueFixed h (checkOf (.brev h f))
    (fixedOf (outBits f (fun s c => BitVec.ofNat 64 (revBits (bitsOf f.ty) (srcN s c f.ty f.sa))))) s)

/-- Byte k of BSEL's result (R115). -/
def bselByte (ba c k : Nat) : Nat :=
  let y := byteOf ba (c / 2 ^ (4 * k) % 8)
  let y := if c.testBit (24 + k) then (if y.testBit 7 then 0xFF else 0) else y
  let y := if c.testBit (16 + k) then (if c.testBit (20 + k) then 0xFF else 0) else if c.testBit (20 + k) then 0xFF - y else y
  y

/-- BSEL (R115). -/
def outBsel (f : RForm) (s : State) (c : Rd) : LaneOut :=
  let ba := srcN s c .b32 f.sb * 2 ^ 32 + srcN s c .b32 f.sa
  let k := srcN s c .b32 f.sc
  out32 s c f.dst (bselByte ba k 0 + bselByte ba k 1 * 2 ^ 8 + bselByte ba k 2 * 2 ^ 16 + bselByte ba k 3 * 2 ^ 24)

def execBsel (h : Hdr) (f : RForm) (s : State) : Out :=
  .next (issueFixed h (checkOf (.bsel h f)) (fixedOf (outBsel f)) s)

/-- LEA (R116). -/
def outLea (f : RForm) (s : State) (c : Rd) : LaneOut :=
  let b := srcN s c .b32 f.sb
  let b' : Int := if f.ty = .i64 then intOf .i32 b else b
  outT s c f.dst f.ty (intRes f.ty false ((srcN s c f.ty f.sa : Int) + b' * 2 ^ subBits f 2 0))

def execLea (h : Hdr) (f : RForm) (s : State) : Out :=
  .next (issueFixed h (checkOf (.lea h f)) (fixedOf (outLea f)) s)

/-- The conditions of R117. -/
def intCond (k : Nat) (a b : Int) : Bool :=
  match k with
  | 0 => a = b
  | 1 => a ≠ b
  | 2 => a < b
  | 3 => a ≤ b
  | 4 => b < a
  | _ => b ≤ a

/-- A comparison combined with the predicate of SC (R117). -/
def cmpJoin (f : RForm) (t q : Bool) : Bool :=
  match subBits f 5 4 with
  | 0 => t
  | 1 => t && q
  | 2 => t || q
  | _ => t != q

/-- CMP (R117). -/
def outCmp (f : RForm) (s : State) (c : Rd) : LaneOut :=
  outP s c f.dst (cmpJoin f (intCond (subBits f 3 0) (intOf f.ty (srcN s c f.ty f.sa)) (intOf f.ty (srcN s c f.ty f.sb))) (s.srcP c f.sc))

def execCmp (h : Hdr) (f : RForm) (s : State) : Out :=
  .next (issueFixed h (checkOf (.cmp h f)) (fixedOf (outCmp f)) s)

/-- CMPI (R117). -/
def execCmpi (h : Hdr) (f : IForm) (s : State) : Out :=
  .next (issueFixed h (checkOf (.cmpi h f))
    (fixedOf (fun s c => outP s c f.dst (intCond f.sub.toNat (intOf f.ty (srcN s c f.ty f.sa)) (immInt f.ty f.imm)))) s)

/-- PLOP (R118). -/
def outPlop (f : RForm) (s : State) (c : Rd) : LaneOut :=
  let n (b : Bool) (k : Nat) : Nat := if b then k else 0
  outP s c f.dst (f.sub.getLsbD (n (s.srcP c f.sa) 1 + n (s.srcP c f.sb) 2 + n (s.srcP c f.sc) 4))

def execPlop (h : Hdr) (f : RForm) (s : State) : Out :=
  .next (issueFixed h (checkOf (.plop h f)) (fixedOf (outPlop f)) s)

/-- P2V (R118). -/
def execP2v (h : Hdr) (f : RForm) (s : State) : Out :=
  .next (issueFixed h (checkOf (.p2v h f)) (fixedOf (fun s c => out32 s c f.dst (s.regs.getPs c.w c.l).toNat)) s)

/-- V2P (R118). -/
def outV2p (f : RForm) (s : State) (c : Rd) : LaneOut :=
  let a := s.src c .b32 f.sa
  let b := s.src c .b32 f.sb
  ⟨((List.range 16).filter (fun k => b.getLsbD k)).map (fun k => .p c.l k (a.getLsbD k)), 0⟩

def execV2p (h : Hdr) (f : RForm) (s : State) : Out :=
  .next (issueFixed h (checkOf (.v2p h f))
    { fixedOf (outV2p f) with
      wait := v2pWait f
      cause := fun s c => if (List.range 16).any (fun k =>
        (s.src c .b32 f.sb).getLsbD k && s.lavUse c.w c.l ⟨.p (BitVec.ofNat 4 k), 1, true⟩) then some (.lav, 0) else none } s)

/-- CVTI (R119). -/
def outCvti (f : RForm) (s : State) (c : Rd) : LaneOut :=
  let t := (subTy f).getD .b32
  outT s c f.dst f.ty (intRes f.ty f.sat (intOf t (srcN s c t f.sa)))

def execCvti (h : Hdr) (f : RForm) (s : State) : Out :=
  .next (issueFixed h (checkOf (.cvti h f)) (fixedOf (outCvti f)) s)

/-- DP4 (R120). -/
def outDp4 (f : RForm) (s : State) (c : Rd) : LaneOut :=
  let tb : Ty := if f.sub.getLsbD 0 then .i8x4 else .n8x4
  let a := srcN s c f.ty f.sa
  let b := srcN s c tb f.sb
  let p (k : Nat) : Int := intOf f.ty (byteOf a k) * intOf tb (byteOf b k)
  outD s c f.dst false (intRes .i32 f.sat (p 0 + p 1 + p 2 + p 3 + intOf .i32 (srcN s c .i32 f.sc))) 0

def execDp4 (h : Hdr) (f : RForm) (s : State) : Out :=
  .next (issueFixed h (checkOf (.dp4 h f)) (fixedOf (outDp4 f)) s)

/-- TGT (R121). -/
def execTgt (h : Hdr) (f : IForm) (s : State) : Out :=
  .next (issueFixed h (checkOf (.tgt h f)) (fixedOf (fun s c => outT s c f.dst .b32 (f.imm.zeroExtend 64))) s)

/-- MOVBT (R121). -/
def execMovbt (h : Hdr) (f : RForm) (s : State) : Out :=
  .next (issueFixed h (checkOf (.movbt h f)) (fixedOf (fun s c => outT s c f.dst .b32 (s.src c .n32 f.sa))) s)

/-- SETLC (R121). -/
def execSetlc (h : Hdr) (f : IForm) (s : State) : Out :=
  .next (issueFixed h (checkOf (.setlc h f)) (fixedOf (fun s c => outT s c f.dst .b32 (f.imm.zeroExtend 64))) s)

/-- The operand slots of a lane (R418): the values it read, of the types its form gives them. -/
def slotsR (f : RForm) (ta tb tc : Ty) (s : State) (c : Rd) : LaneRec :=
  { lane := c.l, a := s.src c ta f.sa, b := s.src c tb f.sb, c := (s.src c tc f.sc).zeroExtend 128, addr := 0, rp := 0, hm := false, aux := 0, data := 0 }

/-- BRK (R420): every lane of M raises its cause. -/
def execBrk (h : Hdr) (f : RForm) (s : State) : Out :=
  .next (issueFixed h (checkOf (.brk h f))
    { out := fun _ _ => ⟨[], 0⟩, cause := fun _ _ => some (.brk, 0), slots := slotsR f .b32 .b32 .b32 } s)

/-- TRAP (R420): SWT with Read(SA)[7:0] as sub-cause. -/
def execTrap (h : Hdr) (f : RForm) (s : State) : Out :=
  .next (issueFixed h (checkOf (.trap h f))
    { out := fun _ _ => ⟨[], 0⟩, cause := fun s c => some (.swt, byteOf (srcN s c .b32 f.sa) 0), slots := slotsR f .b32 .b32 .b32 } s)

/-! ## Words that are no instruction -/

/-- The guard of a word of which the device decodes GRD only (R63). -/
def grdHdr (w : IWord) : Hdr :=
  { g := w.getLsbD 85, n := w.getLsbD 84, p := w.extractLsb' 80 4, nxt := .seq, t := 0, la := 0 }

/-- An operand slot of EMU (R418): v, s, a special register, a short immediate or the zero register as a 32-bit value, 0 for any
other class, for a register at or beyond the allocation and for an unassigned special register. -/
def emuSlot (x : BitVec 12) (s : State) (c : Rd) : BitVec 64 :=
  match opndOf x with
  | some o =>
    match o with
    | .v _ | .s _ => if regaUse (s.warp c.w) (s.inHandler c.w c.l) ⟨o, 1, false⟩ then 0 else s.src c .b32 o
    | .sr n => if srAssigned n.toNat then s.src c .b32 o else 0
    | .imm _ | .zr => s.src c .b32 o
    | _ => 0
  | none => 0

/-- The operand slots of a word of the emulation space (R418). -/
def emuSlots (w : IWord) (s : State) (c : Rd) : LaneRec :=
  { lane := c.l, a := emuSlot (w.extractLsb' 46 12) s c, b := emuSlot (w.extractLsb' 34 12) s c,
    c := (emuSlot (w.extractLsb' 22 12) s c).zeroExtend 128, addr := 0, rp := 0, hm := false, aux := 0, data := 0 }

/-- The cause that a word that is no instruction raises (R63). -/
def rejectCause (w : IWord) : Cause :=
  if 0x3C0 ≤ opcOf w then (if grdOk w then .emu else .enc)
  else if opcAssigned (opcOf w) then .enc else .resv

/-- Issue of a word that is no instruction (R63, R64): RESV and ENC in every issuing lane, EMU in the lanes of M. -/
def issueReject (w : IWord) (s : State) : State :=
  let c := rejectCause w
  issueFixed (grdHdr w) ⟨true, guardUses (grdHdr w)⟩
    { pre := fun _ _ => if c = .emu then none else some c
      cause := fun _ _ => some (c, 0)
      slots := emuSlots w
      out := fun _ _ => ⟨[], 0⟩ } s

/-- IDIV (R144): the device raises EMU for every lane of M. -/
def execIdiv (w : IWord) (s : State) : Out := .next (issueReject w s)

/-- IREM (R144). -/
def execIrem (w : IWord) (s : State) : Out := .next (issueReject w s)

/-- A word that is no instruction (R63). -/
def execUnassignedOpcode (w : IWord) (s : State) : Out := .next (issueReject w s)

end Sys2Proof.Machine
end

