-- ==== Sys2Proof/Machine/Sfu.lean ====
section
/-! DEFINITION. The special function units (R104, R105): the exact cases, and for every other input the bits of
`Config.specialFn` held within the bound of R104, checked against a rational enclosure of the exact result. -/

namespace Sys2Proof.Machine

/-- A real number enclosed: it lies within `err × 2^e` of `±n × 2^e`. -/
structure Encl where
  neg : Bool
  n : Nat
  err : Nat
  e : Int
  deriving DecidableEq, Repr

/-- floor(π × 2^480). -/
def fxPi : Nat :=
  0x3243f6a8885a308d313198a2e03707344a4093822299f31d0082efa98ec4e6c89452821e638d01377be5466cf34e90c6cc0ac29b7c97c50dd3f84d5b5

/-- floor(ln 2 × 2^480). -/
def fxLn2 : Nat :=
  0xb17217f7d1cf79abc9e3b39803f2f6af40f343267298b62d8a0d175b8baafa2be7b876206debac98559552fb4afa1b10ed2eae35c138214427573b29

/-- The fixed-point scale of the series: units of 2^-320. -/
def fxP : Nat := 320

def fxOne : Nat := 2 ^ fxP

/-- Terms of a Taylor series in fixed point, `t · y / ((k+1)(k+2))` after `t`, signs alternating when `alt` holds. -/
def fxSeries (fuel : Nat) (alt : Bool) (y k t : Nat) (neg : Bool) (acc : Int) : Int :=
  match fuel with
  | 0 => acc
  | f + 1 =>
    let acc' := if neg then acc - (t : Int) else acc + (t : Int)
    fxSeries f alt y (k + 2) (t * y / fxOne / ((k + 1) * (k + 2))) (alt && !neg) acc'

/-- The exponential series of `x`, in fixed point. -/
def fxExp (fuel : Nat) (x k t acc : Nat) : Nat :=
  match fuel with
  | 0 => acc
  | f + 1 => fxExp f x (k + 1) (t * x / fxOne / (k + 1)) (acc + t)

/-- The series of the inverse hyperbolic tangent: t + t³/3 + t⁵/5 + …, with `y = t²`. -/
def fxAtanh (fuel : Nat) (y k t acc : Nat) : Nat :=
  match fuel with
  | 0 => acc
  | f + 1 => fxAtanh f y (k + 2) (t * y / fxOne) (acc + t / k)

/-- A signed fixed-point number as an enclosure. -/
def enclOfFx (x : Int) (err : Nat) : Encl := ⟨decide (x < 0), x.natAbs, err, -(fxP : Int)⟩

/-- A magnitude `m × 2^e` in fixed point, truncated. -/
def fxOf (m : Nat) (e : Int) : Nat :=
  let s := e + fxP
  if 0 ≤ s then m * 2 ^ s.toNat else m / 2 ^ (-s).toNat

/-- `m × 2^e` modulo 2π, in fixed point; `e` is at least −149. -/
def fxReduce (m : Nat) (e : Int) : Nat := (m * 2 ^ (e + 480).toNat) % (2 * fxPi) / 2 ^ 160

/-- Whether `m × 2^e` lies so near zero that two terms of a series decide every comparison of R104. -/
def tinyArg (m : Nat) (e : Int) : Bool := decide ((m.log2 : Int) + e < -40)

/-- `x − x³/d` for a tiny `x = m × 2^e`: the next term is less than half of 2^(3e−8). -/
def enclCubic (d : Nat) (neg : Bool) (m : Nat) (e : Int) : Encl :=
  ⟨neg, (d * m * 2 ^ (-2 * e).toNat - m * m * m) * 2 ^ 8 / d, 2, 3 * e - 8⟩

/-- The exact result enclosed, for an input `±m × 2^e` that is none of the exact cases. -/
def sfuEncl (fn : Sfu) (neg : Bool) (m : Nat) (e : Int) : Encl :=
  match fn with
  | .rcp => ⟨neg, 2 ^ 200 / m, if 2 ^ 200 % m = 0 then 0 else 1, -e - 200⟩
  | .rsq =>
    let odd : Bool := e % 2 ≠ 0
    let m' := if odd then 2 * m else m
    let e' := if odd then e - 1 else e
    let r := isqrt (2 ^ 400 / m')
    ⟨false, r, if r * r * m' = 2 ^ 400 then 0 else 2, -(e' / 2) - 200⟩
  | .sin =>
    if tinyArg m e then enclCubic 6 neg m e else
    let r := fxReduce m e
    let v := fxSeries 100 true (r * r / fxOne) 1 r false 0
    enclOfFx (if neg then -v else v) (2 ^ 30)
  | .cos =>
    -- 1 − x²/2 for a tiny x
    if tinyArg m e then ⟨false, 2 ^ (8 - 2 * e).toNat - m * m * 2 ^ 7, 2, 2 * e - 8⟩ else
    let r := fxReduce m e
    enclOfFx (fxSeries 100 true (r * r / fxOne) 0 fxOne false 0) (2 ^ 30)
  | .exp2 =>
    -- 2^x = 2^k × e^(f ln 2), 0 ≤ f < 1
    let x : Int := if neg then -(fxOf m e : Int) else fxOf m e
    let k := x / (fxOne : Int)
    let f := (x % (fxOne : Int)).toNat
    ⟨false, fxExp 90 (f * (fxLn2 / 2 ^ 160) / fxOne) 0 fxOne 0, 2 ^ 30, k - fxP⟩
  | .log2 =>
    -- log2 (m × 2^e) = log2 m + e, through ln a = 2 atanh ((a - 1)/(a + 1)) with a = m / 2^(log2 m)
    let k := m.log2
    let d := 2 ^ k
    let t := (m - d) * fxOne / (m + d)
    let ln := 2 * fxAtanh 110 (t * t / fxOne) 1 t 0
    enclOfFx ((ln * fxOne / (fxLn2 / 2 ^ 160) : Nat) + ((k : Int) + e) * fxOne) (2 ^ 30)
  | .tanh =>
    -- from 32 on, every result lies between 1 − 2^-90 and 1, and compares with the .f32 values as 1 − 2^-200 does
    if decide (5 ≤ (m.log2 : Int) + e) then ⟨neg, 2 ^ 200 - 1, 0, -200⟩
    else if tinyArg m e then enclCubic 3 neg m e
    else
      let x := fxOf m e
      let y := x * x / fxOne
      let sh := (fxSeries 160 false y 1 x false 0).toNat
      let ch := (fxSeries 160 false y 0 fxOne false 0).toNat
      ⟨neg, sh * fxOne / ch, 2 ^ 30, -(fxP : Int)⟩

/-- The bound of R104, in ulp. -/
def sfuBound (fn : Sfu) : Nat :=
  match fn with
  | .rcp | .rsq => 1
  | _ => 2

/-- The spacing of .f32 values, as an exponent of two, at the magnitude of an enclosed number (R104). Where an enclosure reaches a
power of two from below without being exact, the number lies below it: cosines and hyperbolic tangents do so at 1. -/
def enclUlp (x : Encl) : Int :=
  let k := ratLog2 (x.n - x.err) 1 x.e - 23
  if k < -149 then -149 else k

/-- Whether a finite .f32 lies within `b` ulp of the enclosed number. -/
def enclAccepts (x : Encl) (b : Nat) (c : Fv) : Bool :=
  match c with
  | .fin neg m e =>
    let u := enclUlp x
    let s := min (min e x.e) u
    let p (k : Int) : Nat := 2 ^ (k - s).toNat
    let vc : Int := (m * p e : Nat)
    let vx : Int := (x.n * p x.e : Nat)
    let d := (if neg then -vc else vc) - (if x.neg then -vx else vx)
    decide (d.natAbs ≤ b * p u + x.err * p x.e)
  | _ => false

/-- The bits for an input that is none of the exact cases: the open value if it keeps the bound, otherwise the enclosed result
rounded to .f32 and held at the largest finite magnitude (R104). -/
def sfuInexact (fn : Sfu) (x : Word) (ftz neg : Bool) (m : Nat) (e : Int) : Word :=
  let en := sfuEncl fn neg m e
  let c := Config.specialFn fn x ftz
  if enclAccepts en (sfuBound fn) ((ffmt .f32).decode c.toNat) then c
  else BitVec.ofNat 32 ((ffmt .f32).deliver .rne 0 true false (.fin en.neg en.n en.e)).bits

/-- Whether a magnitude is an integer, and which. -/
def asInt (m : Nat) (e : Int) : Option Nat :=
  if 0 ≤ e then some (m * 2 ^ (min e.toNat 200))
  else if (-e).toNat ≤ m.log2 && m % 2 ^ (-e).toNat = 0 then some (m / 2 ^ (-e).toNat) else none

/-- The value 2^k as .f32 bits, −149 ≤ k ≤ 127. -/
def f32Pow2 (k : Int) : Word := BitVec.ofNat 32 ((ffmt .f32).deliver .rne 0 false false (.fin false 1 k)).bits

/-- A signed small integer as .f32 bits. -/
def f32OfInt (k : Int) : Word :=
  BitVec.ofNat 32 ((ffmt .f32).deliver .rne 0 false false (.fin (decide (k < 0)) k.natAbs 0)).bits

def f32Inf (neg : Bool) : Word := if neg then 0xFF800000#32 else 0x7F800000#32

def f32Nan : Word := 0x7FC00000#32

def f32Zero (neg : Bool) : Word := if neg then 0x80000000#32 else 0#32

/-- A special function of a finite nonzero number (R104, R105). -/
def sfuFinite (fn : Sfu) (x : Word) (ftz neg : Bool) (m : Nat) (e : Int) : Word × FpFlags :=
  let lg := ratLog2 m 1 e
  match fn with
  | .rcp =>
    if decide (lg < -128) || (lg = -128 && m = 2 ^ m.log2) then (f32Inf neg, flOverflow)
    else (sfuInexact fn x ftz neg m e, flNone)
  | .rsq => if neg then (f32Nan, flInvalid) else (sfuInexact fn x ftz neg m e, flNone)
  | .log2 =>
    if neg then (f32Nan, flInvalid)
    else if m = 2 ^ m.log2 then (f32OfInt lg, flNone)
    else (sfuInexact fn x ftz neg m e, flNone)
  | .exp2 =>
    if !neg && decide (7 ≤ lg) then (f32Inf false, flOverflow)
    else if neg && (decide (8 ≤ lg) || decide (2 * fxOf 75 0 ≤ fxOf m e)) then (f32Zero false, flUnderflow)
    else match asInt m e with
      | some n => (f32Pow2 (if neg then -(n : Int) else n), flNone)
      | none => (sfuInexact fn x ftz neg m e, flNone)
  | .sin | .cos | .tanh => (sfuInexact fn x ftz neg m e, flNone)

/-- A special function at zero and the infinities (R105). -/
def sfuSpecial (fn : Sfu) (v : Fv) : Word × FpFlags :=
  let neg := v.neg
  if v.isInf then
    match fn with
    | .rcp => (f32Zero neg, flNone)
    | .rsq => if neg then (f32Nan, flInvalid) else (f32Zero false, flNone)
    | .exp2 => (if neg then f32Zero false else f32Inf false, flNone)
    | .log2 => if neg then (f32Nan, flInvalid) else (f32Inf false, flNone)
    | .sin | .cos => (f32Nan, flInvalid)
    | .tanh => (if neg then 0xBF800000#32 else 0x3F800000#32, flNone)
  else
    match fn with
    | .rcp | .rsq => (f32Inf neg, flDivZero)
    | .exp2 | .cos => (0x3F800000#32, flNone)
    | .log2 => (f32Inf true, flDivZero)
    | .sin | .tanh => (f32Zero neg, flNone)

/-- Flush-to-zero of a special function's result: no flag (R79, R104). -/
def f32Flush (ftz : Bool) (x : Word) : Word :=
  if ftz && x.toNat % 2 ^ 31 / 2 ^ 23 = 0 then x &&& 0x80000000#32 else x

/-- A special function (R104, R105): result and flags, for the operand's bits after NEG and ABS. -/
def sfuEval (fn : Sfu) (ftz : Bool) (x : Word) : Word × FpFlags :=
  match (ffmt .f32).flushIn ftz ((ffmt .f32).decode x.toNat) with
  | .nan sig => (f32Nan, flIf sig flInvalid)
  | .inf n => sfuSpecial fn (.inf n)
  | .fin neg m e =>
    if m = 0 then sfuSpecial fn (.fin neg 0 0)
    else
      let (r, fl) := sfuFinite fn x ftz neg m e
      (f32Flush ftz r, fl)

end Sys2Proof.Machine
end

