-- ==== Sys2Proof/Machine/FloatOps.lean ====
section
/-! DEFINITION. The floating instructions (R122 to R130). -/

namespace Sys2Proof.Machine

/-- What a floating instruction takes from the warp and lane: rounding mode, flush-to-zero, generator state (R51, R59, R83). -/
structure FEnv where
  rnd : Rnd
  ftz : Bool
  rng : Word
  deriving DecidableEq, Repr

/-- The environment of an instruction with RND and FTZ fields. -/
def State.fenv (s : State) (c : Rd) (r : Rnd) (z : Bool) : FEnv :=
  ⟨rndNow (s.warp c.w) r, ftzOn (s.warp c.w) z, s.regs.getRng c.w c.l⟩

/-- A rounded element with its flags, and the generator state after it. -/
structure ERes where
  bits : Nat
  fl : FpFlags
  rng : Word
  deriving DecidableEq, Repr

/-- One rounding in an environment: under rsr a rounding of a number steps the generator first and uses the new state (R83). -/
def FEnv.once (e : FEnv) (steps : Bool) (r : Word → FRes) : ERes :=
  let g := if e.rnd = .rsr && steps then rngStep e.rng else e.rng
  let x := r g
  ⟨x.bits, x.fl, g⟩

/-- A value delivered to a type with one rounding. -/
def FEnv.round (e : FEnv) (t : Ty) (sat : Bool) (v : FvFl) : ERes :=
  let x := e.once v.v.rounds (fun g => (ffmt t).deliver e.rnd g sat (ftzFor e.ftz t) v.v)
  { x with fl := x.fl ||| v.fl }

/-- The value of a floating operand after NEG, ABS and flush-to-zero (R51, R79). -/
def FEnv.val (e : FEnv) (t : Ty) (neg abs : Bool) (x : Nat) : Fv :=
  (ffmt t).flushIn (ftzFor e.ftz t) ((ffmt t).decode ((ffmt t).modBits neg abs x))

/-- The generator write of an instruction that rounds under rsr. -/
def rngWrites (e : FEnv) (l : Nat) (g : Word) : List RegWrite := if e.rnd = .rsr then [.rng l g] else []

/-- A lane's floating result in a destination of a type (R77). -/
def outF (s : State) (c : Rd) (dst : Opnd) (t : Ty) (e : FEnv) (r : ERes) : LaneOut :=
  let d := outD s c dst (isWide t) (BitVec.ofNat 64 r.bits) r.fl
  { d with ws := d.ws ++ rngWrites e c.l r.rng }

/-- Whether a type is a packed pair of 16-bit floats. -/
def isPacked2 (t : Ty) : Bool := t = .f16x2 || t = .bf16x2

/-- Element k of a packed pair (R77). -/
def half (x k : Nat) : Nat := x / 2 ^ (16 * k) % 2 ^ 16

/-- Both elements of a packed pair, element 0 first (R129). -/
def FEnv.two (e : FEnv) (r : FEnv → Nat → ERes) : ERes :=
  let x := r e 0
  let y := r { e with rng := x.rng } 1
  ⟨x.bits + y.bits * 2 ^ 16, x.fl ||| y.fl, y.rng⟩

/-- An exact operation of up to three operands, rounded once (R122, R129). -/
def outArith (f : RForm) (g : Bool → Fv → Fv → Fv → FvFl) (s : State) (c : Rd) : LaneOut :=
  let e := s.fenv c f.rnd f.ftz
  let t := elemTy f.ty
  let dn : Bool := e.rnd = .rdn
  let one (e : FEnv) (a b d : Nat) : ERes :=
    e.round t f.sat (g dn (e.val t f.nega f.absa a) (e.val t f.negb false b) (e.val t f.negc false d))
  let a := srcN s c f.ty f.sa
  let b := srcN s c f.ty f.sb
  let d := srcN s c f.ty f.sc
  outF s c f.dst f.ty e (if isPacked2 f.ty then e.two (fun e k => one e (half a k) (half b k) (half d k)) else one e a b d)

/-- The exact operation of an I form on an .f32 immediate (R122). -/
def outArithI (f : IForm) (g : Bool → Fv → Fv → FvFl) (s : State) (c : Rd) : LaneOut :=
  let e := s.fenv c f.rnd false
  outF s c f.dst .f32 e
    (e.round .f32 f.sat (g (e.rnd = .rdn) (e.val .f32 false false (srcN s c .f32 f.sa)) (e.val .f32 false false f.imm.toNat)))

/-- FADD (R122). -/
def execFadd (h : Hdr) (f : RForm) (s : State) : Out :=
  .next (issueFixed h (checkOf (.fadd h f)) (fixedOf (outArith f (fun dn a b _ => fvAdd dn a b))) s)

/-- FADDI (R122). -/
def execFaddi (h : Hdr) (f : IForm) (s : State) : Out :=
  .next (issueFixed h (checkOf (.faddi h f)) (fixedOf (outArithI f fvAdd)) s)

/-- FMUL (R122). -/
def execFmul (h : Hdr) (f : RForm) (s : State) : Out :=
  .next (issueFixed h (checkOf (.fmul h f)) (fixedOf (outArith f (fun _ a b _ => fvMul a b))) s)

/-- FMULI (R122). -/
def execFmuli (h : Hdr) (f : IForm) (s : State) : Out :=
  .next (issueFixed h (checkOf (.fmuli h f)) (fixedOf (outArithI f (fun _ a b => fvMul a b))) s)

/-- FMA (R100, R122). -/
def execFma (h : Hdr) (f : RForm) (s : State) : Out :=
  .next (issueFixed h (checkOf (.fma h f)) (fixedOf (outArith f fvFma)) s)

/-- FADD2 (R129). -/
def execFadd2 (h : Hdr) (f : RForm) (s : State) : Out :=
  .next (issueFixed h (checkOf (.fadd2 h f)) (fixedOf (outArith f (fun dn a b _ => fvAdd dn a b))) s)

/-- FMUL2 (R129). -/
def execFmul2 (h : Hdr) (f : RForm) (s : State) : Out :=
  .next (issueFixed h (checkOf (.fmul2 h f)) (fixedOf (outArith f (fun _ a b _ => fvMul a b))) s)

/-- FMA2 (R129). -/
def execFma2 (h : Hdr) (f : RForm) (s : State) : Out :=
  .next (issueFixed h (checkOf (.fma2 h f)) (fixedOf (outArith f fvFma)) s)

/-- FDOT2 (R130): two products and the addend formed exactly, rounded once to .f32. -/
def outFdot2 (f : RForm) (s : State) (c : Rd) : LaneOut :=
  let e := s.fenv c f.rnd f.ftz
  let t := elemTy f.ty
  let dn : Bool := e.rnd = .rdn
  let a := srcN s c f.ty f.sa
  let b := srcN s c f.ty f.sb
  let p (k : Nat) : FvFl := fvMul (e.val t f.nega f.absa (half a k)) (e.val t f.negb false (half b k))
  let q := fvAdd dn (p 0).v (p 1).v
  let r := fvAdd dn q.v (e.val .f32 f.negc false (srcN s c .f32 f.sc))
  outF s c f.dst .f32 e (e.round .f32 f.sat ⟨r.v, (p 0).fl ||| (p 1).fl ||| q.fl ||| r.fl⟩)

def execFdot2 (h : Hdr) (f : RForm) (s : State) : Out :=
  .next (issueFixed h (checkOf (.fdot2 h f)) (fixedOf (outFdot2 f)) s)

/-- A value times a power of two. -/
def Fv.scale (v : Fv) (n : Int) : Fv :=
  match v with
  | .fin neg m e => .fin neg m (e + n)
  | v => v

/-- FSCALE (R122). -/
def outFscale (f : RForm) (s : State) (c : Rd) : LaneOut :=
  let e := s.fenv c f.rnd f.ftz
  let a := e.val f.ty f.nega f.absa (srcN s c f.ty f.sa)
  outF s c f.dst f.ty e (e.round f.ty f.sat ⟨a.scale (intOf .i32 (srcN s c .i32 f.sb)), flNone⟩)

def execFscale (h : Hdr) (f : RForm) (s : State) : Out :=
  .next (issueFixed h (checkOf (.fscale h f)) (fixedOf (outFscale f)) s)

/-- FDIV (R122). -/
def outFdiv (f : RForm) (s : State) (c : Rd) : LaneOut :=
  let e := s.fenv c f.rnd f.ftz
  let a := e.val f.ty f.nega f.absa (srcN s c f.ty f.sa)
  let b := e.val f.ty f.negb false (srcN s c f.ty f.sb)
  outF s c f.dst f.ty e (e.once (divRounds a b) (fun g => (ffmt f.ty).divide e.rnd g f.sat (ftzFor e.ftz f.ty) a b))

def execFdiv (h : Hdr) (f : RForm) (s : State) : Out :=
  .next (issueFixed h (checkOf (.fdiv h f)) (fixedOf (outFdiv f)) s)

/-- FSQRT (R122). -/
def outFsqrt (f : RForm) (s : State) (c : Rd) : LaneOut :=
  let e := s.fenv c f.rnd f.ftz
  let a := e.val f.ty false f.absa (srcN s c f.ty f.sa)
  outF s c f.dst f.ty e (e.once (sqrtRounds a) (fun g => (ffmt f.ty).sqrt e.rnd g (ftzFor e.ftz f.ty) a))

def execFsqrt (h : Hdr) (f : RForm) (s : State) : Out :=
  .next (issueFixed h (checkOf (.fsqrt h f)) (fixedOf (outFsqrt f)) s)

/-- The bits of an operand of FMIN or FMAX after NEG, ABS and flush-to-zero (R123). -/
def minmaxBits (e : FEnv) (t : Ty) (neg abs : Bool) (x : Nat) : Nat :=
  let y := (ffmt t).modBits neg abs x
  match e.val t neg abs x with
  | .fin n m _ => if m = 0 then (ffmt t).signBit n else y
  | _ => y

/-- minimumNumber, maximumNumber, and with `prop` minimum, maximum, on bits of a type (R123): bits and flags. -/
def minmax (t : Ty) (isMax prop : Bool) (a b : Nat) : Nat × FpFlags :=
  let x := (ffmt t).decode a
  let y := (ffmt t).decode b
  let fl := flIf (x.isSig || y.isSig) flInvalid
  let nan := ((ffmt t).nanRes false).bits
  let r :=
    if x.isNan && y.isNan then nan
    else if x.isNan then (if prop then nan else b)
    else if y.isNan then (if prop then nan else a)
    else if isMax then (if fvLt true x y then b else a)
    else if fvLt true y x then b else a
  (r, fl)

/-- FMIN and FMAX (R123). -/
def outMinmax (f : RForm) (isMax : Bool) (s : State) (c : Rd) : LaneOut :=
  let e := s.fenv c f.rnd f.ftz
  let r := minmax f.ty isMax (f.sub.getLsbD 0) (minmaxBits e f.ty f.nega f.absa (srcN s c f.ty f.sa))
    (minmaxBits e f.ty f.negb false (srcN s c f.ty f.sb))
  outD s c f.dst (isWide f.ty) (BitVec.ofNat 64 r.1) r.2

/-- FMIN (R123). -/
def execFmin (h : Hdr) (f : RForm) (s : State) : Out :=
  .next (issueFixed h (checkOf (.fmin h f)) (fixedOf (outMinmax f false)) s)

/-- FMAX (R123). -/
def execFmax (h : Hdr) (f : RForm) (s : State) : Out :=
  .next (issueFixed h (checkOf (.fmax h f)) (fixedOf (outMinmax f true)) s)

/-- The conditions of FCMP (R124): truth, and whether a quiet NaN raises invalid. -/
def fcmpCond (k : Nat) (a b : Fv) : Bool × Bool :=
  let un := a.isNan || b.isNan
  match k with
  | 0 => (fvEq a b, false)
  | 1 => (!fvEq a b, false)
  | 2 => (fvLt false a b, true)
  | 3 => (!un && !fvLt false b a, true)
  | 4 => (fvLt false b a, true)
  | 5 => (!un && !fvLt false a b, true)
  | 6 => (un, false)
  | _ => (!un, false)

/-- FCMP (R124). -/
def outFcmp (f : RForm) (s : State) (c : Rd) : LaneOut :=
  let e := s.fenv c f.rnd f.ftz
  let a := e.val f.ty f.nega f.absa (srcN s c f.ty f.sa)
  let b := e.val f.ty f.negb false (srcN s c f.ty f.sb)
  let r := fcmpCond (subBits f 3 0) a b
  { outP s c f.dst (cmpJoin f r.1 (s.srcP c f.sc)) with
    fl := flIf (a.isSig || b.isSig || (r.2 && (a.isNan || b.isNan))) flInvalid }

def execFcmp (h : Hdr) (f : RForm) (s : State) : Out :=
  .next (issueFixed h (checkOf (.fcmp h f)) (fixedOf (outFcmp f)) s)

/-- The class of a floating encoding as a bit number (R125). -/
def fclassOf (t : Ty) (x : Nat) : Nat :=
  match (ffmt t).decode (x % 2 ^ (ffmt t).w) with
  | .inf neg => if neg then 0 else 7
  | .nan sig => if sig then 8 else 9
  | .fin neg m e =>
    if m = 0 then (if neg then 3 else 4)
    else if m < 2 ^ (ffmt t).fb && e = (ffmt t).eMin then (if neg then 2 else 5)
    else if neg then 1 else 6

/-- FCLASS (R125). -/
def execFclass (h : Hdr) (f : RForm) (s : State) : Out :=
  .next (issueFixed h (checkOf (.fclass h f)) (fixedOf (fun s c => out32 s c f.dst (2 ^ fclassOf f.ty (srcN s c f.ty f.sa)))) s)

/-- FRND (R126). -/
def outFrnd (f : RForm) (s : State) (c : Rd) : LaneOut :=
  let e := s.fenv c f.rnd f.ftz
  let a := e.val f.ty f.nega f.absa (srcN s c f.ty f.sa)
  outF s c f.dst f.ty e (e.once a.rounds (fun g =>
    let r := fvIntegral e.rnd g a
    let x := (ffmt f.ty).deliver .rne 0 false false r.1
    ⟨x.bits, x.fl ||| flIf (f.sub.getLsbD 0 && r.2) flInexact⟩))

def execFrnd (h : Hdr) (f : RForm) (s : State) : Out :=
  .next (issueFixed h (checkOf (.frnd h f)) (fixedOf (outFrnd f)) s)

/-- One conversion between floating and .e8m0 types (R85, R88, R89, R127). Between two operands of one type an infinity is
returned unchanged, whatever SAT holds. -/
def FEnv.conv (e : FEnv) (t u : Ty) (sat : Bool) (x : Nat) : ERes :=
  let v := if u = .e8m0 then fvOf u x else (ffmt u).flushIn (ftzFor e.ftz u) (fvOf u x)
  let steps := match v with | .fin neg m _ => t ≠ .e8m0 || (!neg && decide (m ≠ 0)) | _ => false
  e.once steps (fun g => convTo t e.rnd g (sat && !(decide (t = u) && v.isInf)) (ftzFor e.ftz t) v)

/-- FCVT (R127). -/
def outFcvt (f : RForm) (s : State) (c : Rd) : LaneOut :=
  let e := s.fenv c f.rnd f.ftz
  let t := (subTy f).getD .f32
  outF s c f.dst f.ty e (e.conv f.ty t f.sat (srcN s c t f.sa))

def execFcvt (h : Hdr) (f : RForm) (s : State) : Out :=
  .next (issueFixed h (checkOf (.fcvt h f)) (fixedOf (outFcvt f)) s)

/-- F2I (R86, R127). -/
def outF2i (f : RForm) (s : State) (c : Rd) : LaneOut :=
  let e := s.fenv c f.rnd f.ftz
  let t := (subTy f).getD .f32
  let v := e.val t false false (srcN s c t f.sa)
  let x := e.once v.rounds (fun g =>
    let r := toIntTy (intMin f.ty) (intMax f.ty) e.rnd g v
    ⟨(intRes f.ty false r.1).toNat, r.2⟩)
  outF s c f.dst f.ty e x

def execF2i (h : Hdr) (f : RForm) (s : State) : Out :=
  .next (issueFixed h (checkOf (.f2i h f)) (fixedOf (outF2i f)) s)

/-- I2F (R87, R127). -/
def outI2f (f : RForm) (s : State) (c : Rd) : LaneOut :=
  let e := s.fenv c f.rnd f.ftz
  let t := (subTy f).getD .i32
  let x := intOf t (srcN s c t f.sa)
  outF s c f.dst f.ty e (e.round f.ty f.sat ⟨.fin (decide (x < 0)) x.natAbs 0, flNone⟩)

def execI2f (h : Hdr) (f : RForm) (s : State) : Out :=
  .next (issueFixed h (checkOf (.i2f h f)) (fixedOf (outI2f f)) s)

/-- A special function of one .f32 operand (R128). -/
def outSfu (f : RForm) (fn : Sfu) (s : State) (c : Rd) : LaneOut :=
  let r := sfuEval fn (ftzOn (s.warp c.w) f.ftz) (BitVec.ofNat 32 ((ffmt .f32).modBits f.nega f.absa (srcN s c .f32 f.sa)))
  outD s c f.dst false (r.1.zeroExtend 64) r.2

/-- RCP (R128). -/
def execRcp (h : Hdr) (f : RForm) (s : State) : Out := .next (issueFixed h (checkOf (.rcp h f)) (fixedOf (outSfu f .rcp)) s)

/-- RSQ (R128). -/
def execRsq (h : Hdr) (f : RForm) (s : State) : Out := .next (issueFixed h (checkOf (.rsq h f)) (fixedOf (outSfu f .rsq)) s)

/-- EXP2 (R128). -/
def execExp2 (h : Hdr) (f : RForm) (s : State) : Out := .next (issueFixed h (checkOf (.exp2 h f)) (fixedOf (outSfu f .exp2)) s)

/-- LOG2 (R128). -/
def execLog2 (h : Hdr) (f : RForm) (s : State) : Out := .next (issueFixed h (checkOf (.log2 h f)) (fixedOf (outSfu f .log2)) s)

/-- SIN (R128). -/
def execSin (h : Hdr) (f : RForm) (s : State) : Out := .next (issueFixed h (checkOf (.sin h f)) (fixedOf (outSfu f .sin)) s)

/-- COS (R128). -/
def execCos (h : Hdr) (f : RForm) (s : State) : Out := .next (issueFixed h (checkOf (.cos h f)) (fixedOf (outSfu f .cos)) s)

/-- TANH (R128). -/
def execTanh (h : Hdr) (f : RForm) (s : State) : Out := .next (issueFixed h (checkOf (.tanh h f)) (fixedOf (outSfu f .tanh)) s)

end Sys2Proof.Machine
end

