-- ==== Sys2Proof/Machine/Blocks.lean ====
section
/-! DEFINITION. The block formats: quantisation (R93), the values of MX and YK elements (R91, R92), and the block sums of the matrix
engine (R97, R98). -/

namespace Sys2Proof.Machine

/-- Whether a type is a YK format (R92). -/
def isYk (t : Ty) : Bool := isYkB t

/-- The magnitude bits of a YK element (R92). -/
def ykMb (t : Ty) : Nat :=
  match t with
  | .yk9 => 7
  | .yk6 => 4
  | _ => 2

/-- emax of R93. -/
def blockEmax (t : Ty) : Int :=
  match t with
  | .e4m3 => 8
  | .e5m2 => 15
  | .e3m2 => 4
  | .e2m3 | .e2m1 => 2
  | _ => 0

/-- An element to quantise: its value and its generator's state. -/
structure QIn where
  v : Fv
  rng : Word
  deriving DecidableEq, Repr

/-- A quantised block: scale byte, µ bits, and for each element its code, flags and generator state. -/
structure QBlock where
  scale : Nat
  mu : Nat
  els : List ERes
  deriving DecidableEq, Repr

/-- floor(log2) of a value's magnitude, none for zero. -/
def fvLog2 (v : Fv) : Option Int :=
  match v with
  | .fin _ m e => if m = 0 then none else some (ratLog2 m 1 e)
  | _ => none

/-- The greatest of the logarithms of a block's magnitudes, none when all are zero. -/
def blockLog2 (vs : List Fv) : Option Int :=
  vs.foldl (fun a v => match a, fvLog2 v with
    | some x, some y => some (max x y)
    | some x, none => some x
    | none, y => y) none

/-- The sign bit of an element code. -/
def codeSign (t : Ty) (neg : Bool) : Nat :=
  if t = .mxi8 then 0
  else if neg then (if isYk t then 2 ^ ykMb t else (ffmt t).signBit true) else 0

/-- One element's code for a scale X and a µ bit (R93 steps 5 and 6). -/
def quantElem (t : Ty) (rnd : Rnd) (x : Int) (mu : Nat) (q : QIn) : ERes :=
  let en : FEnv := ⟨rnd, false, q.rng⟩
  en.once true (fun g =>
    match q.v with
    | .fin neg m e =>
      if t = .mxi8 then
        let r := roundInt rnd g neg m (e + 6 - x)
        let n := min r.1 127
        ⟨(if neg then 256 - n else n) % 256, flIf r.2 flInexact ||| flIf (decide (127 < r.1)) (flOverflow ||| flInexact)⟩
      else if isYk t then
        let r := roundInt rnd g false m (e + (ykMb t : Int) - 1 + (mu : Int) - x)
        let lim := 2 ^ ykMb t - 1
        ⟨codeSign t neg + min r.1 lim, flIf r.2 flInexact ||| flIf (decide (lim < r.1)) (flOverflow ||| flInexact)⟩
      else
        let r := (ffmt t).deliver rnd g true false (.fin neg m (e - x))
        ⟨r.bits, flMask (flOverflow ||| flInexact) r.fl⟩
    | _ => ⟨0, flNone⟩)

/-- The µ bits of a YK block for a scale X (R93 step 6): pair p is 1 when both magnitudes are below 2^X. -/
def ykMus (x : Int) (p : Nat) (vs : List Fv) : Nat :=
  match vs with
  | a :: b :: t =>
    let low (v : Fv) : Bool := match fvLog2 v with | some k => decide (k < x) | none => true
    (if low a && low b then 2 ^ p else 0) + ykMus x (p + 1) t
  | _ => 0

/-- An element whose code R93 gives without a rounding: its generator steps once under rsr all the same (R133, R176). -/
def quantFixed (rnd : Rnd) (q : QIn) (code : Nat) (fl : FpFlags) : ERes :=
  (⟨rnd, false, q.rng⟩ : FEnv).once true (fun _ => ⟨code, fl⟩)

/-- A block quantised from its values (R93), flush-to-zero already applied. R93 skips the roundings of a block with a NaN or an
infinity and of a block of zeros; that each element's generator steps there too follows R133 and R176 (log entry 8). -/
def quantBlock (t : Ty) (rnd : Rnd) (qs : List QIn) : QBlock :=
  let vs := qs.map (·.v)
  if vs.any (fun v => v.isNan || v.isInf) then ⟨0xFF, 0, qs.map (fun q => quantFixed rnd q 0 flInvalid)⟩
  else match blockLog2 vs with
    | none => ⟨0, 0, qs.map (fun q => quantFixed rnd q (codeSign t q.v.neg) flNone)⟩
    | some k =>
      let x := max (-127) (min 127 (k - blockEmax t))
      let mu := if isYk t then ykMus x 0 vs else 0
      ⟨(x + 127).toNat, mu, qs.zipIdx.map (fun e => quantElem t rnd x (if mu.testBit (e.2 / 2) then 1 else 0) e.1)⟩

/-- The value of an element code without its scale, for a µ bit (R91, R92). -/
def elemValue (t : Ty) (mu code : Nat) : Fv :=
  match t with
  | .mxi8 =>
    let q := intOf .i8 code
    .fin (decide (q < 0)) q.natAbs (-6)
  | .yk9 | .yk6 | .yk4 =>
    let mb := ykMb t
    .fin (code.testBit mb) (code % 2 ^ mb) (-(mu : Int) - (mb : Int) + 1)
  | .i8 | .n8 => let q := intOf t code; .fin (decide (q < 0)) q.natAbs 0
  | t => (ffmt t).decode (code % 2 ^ (ffmt t).w)

/-- The value of an element under a scale byte (R91, R92): a scale of 0xFF reads as NaN. -/
def blockValue (t : Ty) (scale mu code : Nat) : Fv :=
  if scale % 256 = 255 then .nan false else (elemValue t mu code).scale ((scale % 256 : Nat) - 127 : Int)

/-- The bits of one element in a block's field (R91, R92). -/
def blockElemBits (t : Ty) : Nat := if isYk t then ykMb t + 1 else elemBits t

/-- The elements of a block. -/
def blockLen (t : Ty) : Nat := if isYk t then 16 else 32

/-- The exact sum of a block's products (R97, R98): NaN, an infinity, or a number; an exact zero is +0. -/
def blockSum (ps : List (Fv × Fv)) : Fv :=
  match ps.foldl (fun (a : Fv) p => (fvAdd false a (fvMul p.1 p.2).v).v) (.fin false 0 0) with
  | .fin neg m e => if m = 0 then .fin false 0 0 else .fin neg m e
  | v => v

/-- One K-block added to an accumulator of .f32 bits (R97, R98): the scales are codes of .e8m0, none where the format has none. -/
def accStep (acc : Word) (ps : List (Fv × Fv)) (xa xb : Option Nat) : Word :=
  let x (c : Option Nat) : Int := match c with | some k => ((k % 256 : Nat) : Int) - 127 | none => 0
  let bad (c : Option Nat) : Bool := match c with | some k => k % 256 = 255 | none => false
  let sum := if bad xa || bad xb then .nan false else (blockSum ps).scale (x xa + x xb)
  BitVec.ofNat 32 ((ffmt .f32).deliver .rne 0 false false (fvAdd false ((ffmt .f32).decode acc.toNat) sum).v).bits

/-- One K-block of integer products added to an accumulator that wraps (R99). -/
def accStepInt (acc : Word) (ps : List (Int × Int)) : Word :=
  ps.foldl (fun (a : Word) p => a + BitVec.ofInt 32 (p.1 * p.2)) acc

end Sys2Proof.Machine
end

