-- ==== Sys2Proof/Machine/NarrowOps.lean ====
section
/-! DEFINITION. Packing, block quantisation across the warp, and sparse groups (R131 to R136). -/

namespace Sys2Proof.Machine

/-- A warp-wide result: each lane's register writes and flags, from the state before (R137). -/
def wideOut (out : State → Rd → Nat → LaneOut) (s : State) (c : Rd) : State :=
  let outs := (lanesOf c.m).map (fun l => (l, out s c l))
  (s.applyWrites c.w (laneWrites outs)).orFlags c.w (outs.foldl (fun f e => f ||| e.2.fl) 0)

/-- The same reader for another lane. -/
def Rd.lane (c : Rd) (l : Nat) : Rd := { c with l := l }

/-- A warp-wide fixed-latency operation: PRIV in handler mode (R419). -/
def wideOf (ta tb tc : Ty) (f : RForm) (out : State → Rd → Nat → LaneOut) : WideOp :=
  { pre := privInHandler, slots := slotsR f ta tb tc, exec := wideOut out }

/-- The convergence register that SUB names (R52). -/
def cvOf (f : RForm) : Nat := subBits f 2 0

/-- Field j of w bits of a word replaced (R131). -/
def putField (x w j y : Nat) : Nat := x - x / 2 ^ (w * j) % 2 ^ w * 2 ^ (w * j) + y % 2 ^ w * 2 ^ (w * j)

/-- PACK (R131). -/
def outPack (f : RForm) (s : State) (c : Rd) : LaneOut :=
  let e := s.fenv c f.rnd f.ftz
  let a := srcN s c .f32 f.sa
  let b := srcN s c .f32 f.sb
  let t := elemTy f.ty
  let w := elemBits f.ty
  let hh := subBits f 2 0
  let x := if isPacked2 f.ty then 0 else srcN s c .b32 f.sc
  if subBits f 3 3 = 1 then out32 s c f.dst (putField (putField x w (2 * hh) a) w (2 * hh + 1) b)
  else
    let r := e.conv t .f32 f.sat a
    let q := { e with rng := r.rng }.conv t .f32 f.sat b
    outF s c f.dst .f32 e ⟨putField (putField x w (2 * hh) r.bits) w (2 * hh + 1) q.bits, r.fl ||| q.fl, q.rng⟩

def execPack (h : Hdr) (f : RForm) (s : State) : Out :=
  .next (issueFixed h (checkOf (.pack h f)) { fixedOf (outPack f) with slots := slotsR f .f32 .f32 .b32 } s)

/-- UNPK (R132): exact in .f32. -/
def outUnpk (f : RForm) (s : State) (c : Rd) : LaneOut :=
  let t := elemTy f.ty
  let w := elemBits f.ty
  let x := srcN s c .b32 f.sa / 2 ^ (w * subBits f 2 0) % 2 ^ w
  let r := (ffmt .f32).deliver .rne 0 false false (fvOf t x)
  outD s c f.dst false (BitVec.ofNat 64 r.bits) (flMask flInvalid r.fl)

def execUnpk (h : Hdr) (f : RForm) (s : State) : Out :=
  .next (issueFixed h (checkOf (.unpk h f)) (fixedOf (outUnpk f)) s)

/-- The lanes of the block that holds a lane (R133). -/
def blockLanes (t : Ty) (l : Nat) : List Nat :=
  let n := blockLen t
  (List.range n).map (fun k => l / n * n + k)

/-- QNT (R133): the block of a lane quantised, and the lane's own element of it. A lane outside C gives +0. Every lane of C steps its
generator once under rsr, in a block that R93 gives without a rounding too (log entry 8). -/
def outQnt (f : RForm) (s : State) (c : Rd) (l : Nat) : LaneOut :=
  let cl := c.lane l
  let e := s.fenv cl f.rnd f.ftz
  let q (j : Nat) : QIn :=
    if c.m.getLsbD j then ⟨e.val .f32 false false (srcN s (c.lane j) .f32 f.sa), s.regs.getRng c.w j⟩ else ⟨.fin false 0 0, 1⟩
  let b := quantBlock f.ty e.rnd ((blockLanes f.ty l).map q)
  let k := l % blockLen f.ty
  let x : ERes := (b.els[k]?).getD ⟨0, 0, e.rng⟩
  let fl := flMask (flInvalid ||| flOverflow ||| flInexact) x.fl
  outF s cl f.dst .f32 e ⟨x.bits + b.scale * 2 ^ 8 + (if b.mu.testBit (k / 2) then 2 ^ 16 else 0), fl, x.rng⟩

def wideQnt (f : RForm) : WideOp := wideOf .f32 .b32 .b32 f (outQnt f)

def execQnt (h : Hdr) (f : RForm) (s : State) : Out := .next (issueWide (.qnt h f) h (cvOf f) (wideQnt f) s)

/-- DQNT (R134): the scale byte is that of the lowest lane of C in the block. -/
def outDqnt (f : RForm) (s : State) (c : Rd) (l : Nat) : LaneOut :=
  let cl := c.lane l
  let e := s.fenv cl f.rnd f.ftz
  let a (j : Nat) : Nat := srcN s (c.lane j) .b32 f.sa
  let lead := ((blockLanes f.ty l).find? (fun j => c.m.getLsbD j)).getD l
  let v := blockValue f.ty (byteOf (a lead) 1) (a l / 2 ^ 16 % 2) (a l % 2 ^ blockElemBits f.ty)
  outF s cl f.dst .f32 e (e.round .f32 false ⟨v, flNone⟩)

def wideDqnt (f : RForm) : WideOp := wideOf .b32 .b32 .b32 f (outDqnt f)

def execDqnt (h : Hdr) (f : RForm) (s : State) : Out := .next (issueWide (.dqnt h f) h (cvOf f) (wideDqnt f) s)

/-- The rank of a value of a sparse group (R135): a NaN above all, floats by magnitude, integers by |x| or by value. -/
def sparseKey (t : Ty) (x : Nat) : Nat :=
  match t with
  | .i8 => (intOf .i8 x).natAbs
  | .n8 => x
  | t => if ((ffmt t).decode x).isNan then 2 ^ 20 else x % 2 ^ ((ffmt t).w - 1)

/-- How many positions rank above position k (R135). -/
def sparseRank (t : Ty) (xs : List Nat) (k : Nat) : Nat :=
  let key (j : Nat) : Nat := sparseKey t ((xs[j]?).getD 0)
  ((List.range xs.length).filter (fun j => decide (key k < key j) || (decide (key j = key k) && decide (j < k)))).length

/-- The positions kept of a group of four, in ascending order: two, or one for 1:4 (R95, R135). -/
def sparseKeep (t : Ty) (one : Bool) (xs : List Nat) : List Nat :=
  (List.range 4).filter (fun k => decide (sparseRank t xs k < (if one then 1 else 2)))

/-- SPX (R135). -/
def outSpx (f : RForm) (s : State) (c : Rd) : LaneOut :=
  let wide : Bool := f.ty = .f16 || f.ty = .bf16
  let w := if wide then 16 else 8
  let x := if wide then srcN s c .b32 f.sa + srcN s c .b32 f.sb * 2 ^ 32 else srcN s c .b32 f.sa
  let xs := (List.range 4).map (fun k => x / 2 ^ (w * k) % 2 ^ w)
  let one := f.sub.getLsbD 0
  let ks := sparseKeep f.ty one xs
  let k0 := (ks[0]?).getD 0
  let k1 := (ks[1]?).getD 0
  let v (k : Nat) : Nat := (xs[k]?).getD 0
  let vals := if one then v k0 else v k0 + v k1 * 2 ^ w
  let idx := if one then k0 else k0 + k1 * 4
  let pos := if wide then 32 else if one then 8 else 16
  outD s c f.dst wide (BitVec.ofNat 64 (vals + idx * 2 ^ pos)) 0

def execSpx (h : Hdr) (f : RForm) (s : State) : Out :=
  .next (issueFixed h (checkOf (.spx h f)) (fixedOf (outSpx f)) s)

/-- SPEXP (R136): a later value is written over an earlier one at the same position (R96). -/
def outSpexp (f : RForm) (s : State) (c : Rd) : LaneOut :=
  let wide : Bool := f.ty = .f16 || f.ty = .bf16
  let w := if wide then 16 else 8
  let a := srcN s c .b32 f.sa
  let one := f.sub.getLsbD 0
  let idx := if wide then srcN s c .b32 f.sb else a / 2 ^ (if one then 8 else 16)
  let v (k : Nat) : Nat := a / 2 ^ (w * k) % 2 ^ w
  let x0 := putField 0 w (idx % 4) (v 0)
  let x := if one then x0 else putField x0 w (idx / 4 % 4) (v 1)
  outD s c f.dst wide (BitVec.ofNat 64 x) 0

def execSpexp (h : Hdr) (f : RForm) (s : State) : Out :=
  .next (issueFixed h (checkOf (.spexp h f)) (fixedOf (outSpexp f)) s)

end Sys2Proof.Machine
end

