-- ==== Sys2Proof/Machine/WarpOps.lean ====
section
/-! DEFINITION. Convergence registers, cross-lane exchange, votes, reductions, and the instructions that shape issue (R137 to R143,
R368, R369). -/

namespace Sys2Proof.Machine

/-- CVSET (R138): the new value of the register, from the lowest lane of M. -/
def outCvset (f : RForm) (s : State) (c : Rd) : LaneOut :=
  let old := s.regs.getCv c.w (cvNum f.dst)
  let a := s.src32 c .b32 f.sa
  ⟨[.cv (cvNum f.dst) (match subBits f 1 0 with | 0 => a | 1 => old &&& a | 2 => old ||| a | _ => c.m)], 0⟩

/-- The lanes that wait at CVSET, with their counts (R138, R376). -/
def State.cvsetHold (s : State) (ck : Check) (k : Nat) : State :=
  let w := s.cur.w
  if ck.ok && s.cvWaiters w k then
    let ls := (lanesOf s.cur.mask).filter (fun l => !s.laneBlocked w l)
    let x := s.warp w
    s.setWarp w { x with cvsetWait := ls.foldl (fun m l => nmapSet m l (k, match nmapFind x.cvsetWait l with | some r => r.2 | none => 0)) x.cvsetWait }
  else s

/-- CVSET (R138): it waits while its target has a signer waiting. -/
def execCvset (h : Hdr) (f : RForm) (s : State) : Out :=
  let ck := checkOf (.cvset h f)
  let k := cvNum f.dst
  .next ((issueFixed h ck { fixedOf (outCvset f) with wait := fun s c => s.cvWaiters c.w k } s).cvsetHold ck k)

/-- CVGET (R138). -/
def execCvget (h : Hdr) (f : RForm) (s : State) : Out :=
  .next (issueFixed h (checkOf (.cvget h f)) (fixedOf (fun s c => outT s c f.dst .b32 (s.src c .b32 f.sa))) s)

/-- SHFL (R139): the lane read, the value, and whether there is none. -/
def outShfl (f : RForm) (s : State) (c : Rd) (l : Nat) : LaneOut :=
  let k : Nat := srcN s (c.lane l) .n32 f.sb
  let j : Int := match subBits f 4 3 with
    | 0 => k
    | 1 => (l : Int) - k
    | 2 => (l : Int) + k
    | _ => ((l ^^^ k : Nat) : Int)
  let has : Bool := decide (0 ≤ j ∧ j ≤ 31) && c.m.getLsbD j.toNat
  let x := if has then s.src (c.lane j.toNat) f.ty f.sa else 0
  let d := outT s (c.lane l) f.dst f.ty x
  let q := match f.sc with | .p n => [RegWrite.p l n.toNat (!has)] | _ => []
  ⟨d.ws ++ q, 0⟩

def wideShfl (f : RForm) : WideOp := wideOf f.ty .n32 .b32 f (outShfl f)

def execShfl (h : Hdr) (f : RForm) (s : State) : Out := .next (issueWide (.shfl h f) h (cvOf f) (wideShfl f) s)

/-- The lanes of C whose predicate, inverted by .notp, is 1 (R140). -/
def votes (f : RForm) (s : State) (c : Rd) : Mask :=
  maskOf ((lanesOf c.m).filter (fun l => s.srcP (c.lane l) f.sa != f.sub.getLsbD 5))

/-- VOTE (R140). -/
def outVote (f : RForm) (s : State) (c : Rd) (l : Nat) : LaneOut :=
  let v := votes f s c
  outP s (c.lane l) f.dst
    (match subBits f 4 3 with | 0 => v = c.m | 1 => v ≠ 0 | 2 => v = 0 || v = c.m | _ => (lanesOf v).length = 1)

def wideVote (f : RForm) : WideOp := wideOf .b32 .b32 .b32 f (outVote f)

def execVote (h : Hdr) (f : RForm) (s : State) : Out := .next (issueWide (.vote h f) h (cvOf f) (wideVote f) s)

/-- BALLOT (R140). -/
def outBallot (f : RForm) (s : State) (c : Rd) (l : Nat) : LaneOut :=
  let v := votes f s c
  out32 s (c.lane l) f.dst (if f.sub.getLsbD 6 then v.toNat % 2 ^ l else v.toNat)

def wideBallot (f : RForm) : WideOp := wideOf .b32 .b32 .b32 f (outBallot f)

def execBallot (h : Hdr) (f : RForm) (s : State) : Out := .next (issueWide (.ballot h f) h (cvOf f) (wideBallot f) s)

/-- MATCH (R140). -/
def outMatch (f : RForm) (s : State) (c : Rd) (l : Nat) : LaneOut :=
  let x (j : Nat) : BitVec 64 := s.src (c.lane j) f.ty f.sa
  let ls := (lanesOf c.m).filter (fun j => x j = x l)
  out32 s (c.lane l) f.dst (if f.sub.getLsbD 6 then ls.head?.getD 0 else (maskOf ls).toNat)

def wideMatch (f : RForm) : WideOp := wideOf f.ty .b32 .b32 f (outMatch f)

def execMatch (h : Hdr) (f : RForm) (s : State) : Out := .next (issueWide (.matchOp h f) h (cvOf f) (wideMatch f) s)

/-- The bits of a number in a type's width. -/
def typeBits (t : Ty) (x : Int) : Nat := (BitVec.ofInt (intW t) x).toNat

/-- One combination of the integer reductions (R141), exact for sums. -/
def reduxStep (t : Ty) (op : Nat) (a b : Int) : Int :=
  match op with
  | 0 => a + b
  | 1 => min a b
  | 2 => max a b
  | 3 => intOf t (typeBits t a &&& typeBits t b)
  | 4 => intOf t (typeBits t a ||| typeBits t b)
  | _ => intOf t (typeBits t a ^^^ typeBits t b)

/-- The identity of a reduction (R141). -/
def reduxId (t : Ty) (op : Nat) : Int :=
  match op with
  | 1 => intMax t
  | 2 => intMin t
  | 3 => intOf t (2 ^ intW t - 1)
  | _ => 0

/-- The combination over some lanes, written in the type (R74, R141). -/
def reduxOver (f : RForm) (s : State) (c : Rd) (ls : List Nat) : BitVec 64 :=
  let op := subBits f 5 3
  let x (l : Nat) : Int := intOf f.ty (srcN s (c.lane l) f.ty f.sa)
  intRes f.ty f.sat (ls.foldl (fun a l => reduxStep f.ty op a (x l)) (reduxId f.ty op))

/-- REDUX (R141). -/
def wideRedux (f : RForm) : WideOp :=
  wideOf f.ty .b32 .b32 f (fun s c l => outT s (c.lane l) f.dst f.ty (reduxOver f s c (lanesOf c.m)))

def execRedux (h : Hdr) (f : RForm) (s : State) : Out := .next (issueWide (.redux h f) h (cvOf f) (wideRedux f) s)

/-- PREFIX (R141). -/
def widePrefix (f : RForm) : WideOp :=
  wideOf f.ty .b32 .b32 f (fun s c l =>
    outT s (c.lane l) f.dst f.ty
      (reduxOver f s c ((lanesOf c.m).filter (fun j => decide (j < l) || (j = l && !f.sub.getLsbD 6)))))

def execPrefix (h : Hdr) (f : RForm) (s : State) : Out := .next (issueWide (.prefixOp h f) h (cvOf f) (widePrefix f) s)

/-- A slot or node of the tree of R101: bits of the type, none for a slot that is absent, with the flags raised so far. -/
structure TreeVal where
  x : Option Nat
  fl : FpFlags
  deriving DecidableEq, Repr

/-- Flush-to-zero on bits (R79). -/
def flushBits (t : Ty) (on : Bool) (x : Nat) : Nat :=
  match (ffmt t).flushIn (ftzFor on t) ((ffmt t).decode x) with
  | .fin neg m _ => if m = 0 then (ffmt t).signBit neg else x
  | _ => x

/-- One node of the tree (R101, R142): a sum rounded by rne, where an absent slot is −0, or a minimum or maximum. -/
def treeNode (t : Ty) (op : Nat) (ftz : Bool) (a b : TreeVal) : TreeVal :=
  let neg0 := (ffmt t).signBit true
  if op = 0 then
    let v (x : TreeVal) : Fv := (ffmt t).flushIn (ftzFor ftz t) ((ffmt t).decode (x.x.getD neg0))
    let p := fvAdd false (v a) (v b)
    let r := (ffmt t).deliver .rne 0 false (ftzFor ftz t) p.v
    ⟨some r.bits, a.fl ||| b.fl ||| p.fl ||| r.fl⟩
  else match a.x, b.x with
    | some x, some y =>
      let r := minmax t (op = 2) false (flushBits t ftz x) (flushBits t ftz y)
      ⟨some r.1, a.fl ||| b.fl ||| r.2⟩
    | some x, none => ⟨some (flushBits t ftz x), a.fl ||| b.fl⟩
    | none, y => ⟨y.map (flushBits t ftz), a.fl ||| b.fl⟩

/-- One level of the tree. -/
def treeLevel (t : Ty) (op : Nat) (ftz : Bool) (xs : List TreeVal) : List TreeVal :=
  match xs with
  | a :: b :: r => treeNode t op ftz a b :: treeLevel t op ftz r
  | r => r

/-- The tree of R101 and R102 over 2^levels slots: the root. -/
def treeRoot (t : Ty) (op : Nat) (ftz : Bool) (levels : Nat) (xs : List TreeVal) : TreeVal :=
  match levels with
  | 0 => (xs.head?).getD ⟨none, 0⟩
  | k + 1 => treeRoot t op ftz k (treeLevel t op ftz xs)

/-- A NaN root in its canonical form (R78). -/
def rootRes (t : Ty) (x : Nat) : FRes :=
  match (ffmt t).decode x with
  | .nan sig => (ffmt t).nanRes sig
  | _ => ⟨x, 0⟩

/-- FREDUX (R142). -/
def outFredux (f : RForm) (s : State) (c : Rd) (l : Nat) : LaneOut :=
  let ftz := ftzOn (s.warp c.w) f.ftz
  let slot (j : Nat) : TreeVal :=
    ⟨if c.m.getLsbD j then some (srcN s (c.lane j) f.ty f.sa % 2 ^ (ffmt f.ty).w) else none, 0⟩
  let r := treeRoot f.ty (subBits f 5 3) ftz 5 ((List.range 32).map slot)
  let x := rootRes f.ty (r.x.getD 0)
  outD s (c.lane l) f.dst (isWide f.ty) (BitVec.ofNat 64 x.bits) (r.fl ||| x.fl)

def wideFredux (f : RForm) : WideOp := wideOf f.ty .b32 .b32 f (outFredux f)

def execFredux (h : Hdr) (f : RForm) (s : State) : Out := .next (issueWide (.fredux h f) h (cvOf f) (wideFredux f) s)

/-- ACTMASK (R143). -/
def execActmask (h : Hdr) (f : RForm) (s : State) : Out :=
  .next (issueFixed h (checkOf (.actmask h f)) (fixedOf (fun s c => out32 s c f.dst c.m.toNat)) s)

/-- YIELD (R368): the warp yields for 16 cc, and its next issue slot is a rotation slot from which the count restarts. The count stands one above
the cycles left, and its own cycle counts off the first. -/
def execYield (h : Hdr) (f : RForm) (s : State) : Out :=
  .next (issueFixed h (checkOf (.yield h f))
    { fixedOf (fun _ _ => ⟨[], 0⟩) with
      post := fun s c => s.setWarp c.w { s.warp c.w with yieldLeft := 18, rotNext := true } } s)

/-- PAUSE (R369): the warp is demoted for 256 cc; the count stands one above the cycles left, and its own cycle counts off the first. -/
def execPause (h : Hdr) (f : RForm) (s : State) : Out :=
  .next (issueFixed h (checkOf (.pause h f))
    { fixedOf (fun _ _ => ⟨[], 0⟩) with post := fun s c => s.setWarp c.w { s.warp c.w with demotedLeft := 258 } } s)

end Sys2Proof.Machine
end

