-- ==== Sys2Proof/Machine/Select.lean ====
section
/-! DEFINITION. Which lane set issues next and the fetch of its instruction (R33, R34, R362 to R370). -/

namespace Sys2Proof.Machine

/-! ## Lane sets -/

/-- The lanes of a warp at a pc among some. -/
def State.lanesAt (s : State) (w : Nat) (pc : Nat) (ls : List Nat) : Mask :=
  maskOf (ls.filter (fun l => (s.regs.getPc w l).toNat = pc))

/-- The pcs of lanes, rising. -/
def State.pcsOf (s : State) (w : Nat) (ls : List Nat) : List Nat :=
  ls.foldl (fun a l => insertNat (s.regs.getPc w l).toNat a) []

/-- The lanes of a warp that no wait holds. -/
def State.freeLanes (s : State) (w : Nat) : List Nat := (List.range 32).filter (fun l => !s.laneBlocked w l)

/-- A lane set chosen to issue: its lanes and its pc. -/
structure LaneSet where
  mask : Mask
  pc : Word
  deriving DecidableEq, Repr

/-- The lane sets of a warp by rising pc (R362): `waits` says which lanes the next instruction itself makes wait. -/
def State.laneSets (s : State) (waits : State → Nat → Word → Nat → Bool) (w : Nat) : List LaneSet :=
  let ls := (s.freeLanes w).filter (fun l => !waits s w (s.regs.getPc w l) l)
  (s.pcsOf w ls).map (fun p => ⟨s.lanesAt w p ls, BitVec.ofNat 32 p⟩)

/-- The order of issue in a slot (R364, R365): the lowest pc first, or in a rotation slot the lowest pc above the mark. -/
def slotOrder (rot : Bool) (mark : Word) (xs : List LaneSet) : List LaneSet :=
  if rot then
    match xs.find? (fun x => decide (mark.toNat < x.pc.toNat)) with
    | some x => x :: xs.filter (fun y => y.pc ≠ x.pc)
    | none => xs
  else xs

/-- Whether the warp's next issue slot is a rotation slot (R365, R368). -/
def rotationDue (x : Warp) : Bool := x.rotNext || x.slotCount % 16 = 15

/-- The warp's record after an issue slot (R365, R367, R368, R369). -/
def slotTaken (x : Warp) (rot : Bool) (served : Word) : Warp :=
  { x with rotMark := if rot then served else x.rotMark, slotCount := if x.rotNext then 0 else x.slotCount + 1, rotNext := false,
           waited := 0, aged := false, demotedLeft := 0 }

/-- The pipe to which the next instruction of a lane set issues. -/
def State.pipeAt (s : State) (w : Nat) (pc : Word) : Pipe :=
  match (s.fetch w pc).2 with
  | .word x => pipeOf x
  | _ => .a

/-- An issue slot of a warp: its first set selected, and the second beside it when its pipe differs (R364, R365). Of the two the one with the
lower pc takes effect first (R57, R415). -/
def State.takeSlot (s : State) (waits : State → Nat → Word → Nat → Bool) (w : Nat) (rot : Bool) : State :=
  match slotOrder rot (s.warp w).rotMark (s.laneSets waits w) with
  | [] => s
  | x :: rest =>
    let s1 := s.setWarp w (slotTaken (s.warp w) rot x.pc)
    let put (a : LaneSet) (b : Option (Mask × Word)) : State :=
      { s1 with cur := { w := w, mask := a.mask, pc := a.pc, word := 0, second := b } }
    match rest with
    | [] => put x none
    | y :: _ =>
      if s.pipeAt w x.pc = s.pipeAt w y.pc then put x none
      else if x.pc.toNat < y.pc.toNat then put x (some (y.mask, y.pc))
      else put y (some (x.mask, x.pc))

/-- The set beside the one just issued, selected in its turn (R57, R364). -/
def State.takeSecond (s : State) : State :=
  match s.cur.second with
  | some (mask, pc) => { s with cur := { s.cur with mask := mask, pc := pc, word := 0, second := none } }
  | none => { s with cur := Cur.none }

/-! ## Warps -/

/-- Whether a warp holds a lane set. -/
def State.ready (s : State) (waits : State → Nat → Word → Nat → Bool) (w : Nat) : Bool := !(s.laneSets waits w).isEmpty

/-- A warp that has not been selected for 64 cc and is not demoted is due to become aged (R367, R369). A count of cycles left that stands at 1
is over. -/
def agedDue (x : Warp) : Bool := decide (64 ≤ x.waited) && decide (x.demotedLeft ≤ 1) && !x.aged

/-- Whether a ready warp counts as aged (R367): its mark, or the mark it is due. -/
def Warp.isAged (x : Warp) : Bool := x.aged || agedDue x

/-- Whether one warp is selected before another of its quarter (R367, R368, R369): demoted and yielding warps last, aged ones first,
then the older. -/
def warpBefore (a b : Nat × Warp) : Bool :=
  let last (x : Warp) : Bool := decide (1 < x.demotedLeft) || (decide (1 < x.yieldLeft) && !x.isAged)
  let older : Bool := decide (a.2.order < b.2.order) || (a.2.order = b.2.order && decide (a.2.warpid < b.2.warpid))
  if last a.2 != last b.2 then !last a.2
  else if last a.2 then older
  else if a.2.isAged != b.2.isAged then a.2.isAged
  else if a.2.isAged && a.2.waited != b.2.waited then decide (b.2.waited < a.2.waited)
  else older

/-- The warp that a quarter selects among its ready ones. -/
def bestWarp (xs : List (Nat × Warp)) : Option (Nat × Warp) :=
  match xs with
  | [] => none
  | x :: t => match bestWarp t with
    | none => some x
    | some y => some (if warpBefore y x then y else x)

/-- The lowest WHERE (R399) among some warps. -/
def State.lowestWhere (s : State) (ws : List Nat) : Option Nat :=
  match ws with
  | [] => none
  | w :: t => match s.lowestWhere t with
    | none => some w
    | some v => some (if s.whereOf v < s.whereOf w then v else w)

/-- The warp that takes the next slot: of those that the quarters without a slot in this cycle select, the one of the lowest WHERE (R367, R424;
log entry 2). -/
def State.nextWarp (s : State) (waits : State → Nat → Word → Nat → Bool) : Option Nat :=
  let rs := s.warps.filter (fun e => !s.served.contains (e.1 / 16) && s.ready waits e.1)
  let qs := rs.foldl (fun (a : List Nat) e => insertNat (e.1 / 16) a) []
  s.lowestWhere (qs.filterMap (fun q => (bestWarp (rs.filter (fun e => e.1 / 16 = q))).map (·.1)))

/-! ## Time -/

/-- Counts of a warp after one cycle of its core (R367 to R369); its selection sets them back. A count of cycles left stands at 1 once they
have passed, until the period's end. -/
def tickWarp (x : Warp) : Warp :=
  { x with yieldLeft := if 1 < x.yieldLeft then x.yieldLeft - 1 else x.yieldLeft,
           demotedLeft := if 1 < x.demotedLeft then x.demotedLeft - 1 else x.demotedLeft,
           waited := x.waited + 1 }

/-- The wait kinds that the watchdog counts (R376). -/
def OpWait.counted (k : OpWait) : Bool :=
  match k with
  | .fullEmpty | .ring | .lag | .tile | .slotFree | .drain | .holdRecord | .engineQueue | .launchQueue | .linkFull | .linkEmpty
  | .reorder => true
  | _ => false

/-- The lanes of an outstanding instruction whose wait is counted (R376). -/
def countedLanes (o : Op) : List Nat :=
  (lanesOf o.waitMask).filter (fun l => (nmapFind o.parked l).isNone && (o.waitOf l).1.counted)

/-- One cycle on the counts of lanes. -/
def tickCount (ls : List Nat) (m : NMap Nat) : NMap Nat := ls.foldl (fun m l => dmapSet 0 m l (dmapGet 0 m l + 1)) m

/-- The lanes of a warp that stand at a waiting CVSET after one more cycle, each with the cycles it has stood there (R376, R377). -/
def State.tickCvset (s : State) (w : Nat) (m : NMap (Nat × Nat)) : NMap (Nat × Nat) :=
  if !(List.range 8).any (s.cvWaiters w) then []
  else (List.range 32).filterMap (fun l => (s.cvsetAt w l).map (fun k =>
    (l, k, (match nmapFind m l with | some (_, n) => n | none => 0) + 1)))

/-- One more cycle for the members on a core that have parts held at a slice (R376). -/
def State.tickHeld (s : State) (cid : Nat) (r : HoldRec) : HoldRec :=
  match nmapFind s.groups (r.ctx * 256 + r.gid) with
  | none => r
  | some g =>
    let ms := g.members.filter (fun m => m.live && m.cid = cid && r.held.any (fun p => p.1 = m.rank))
    { r with count := (r.count.filter (fun e => r.held.any (fun p => p.1 = e.1))) |> tickCount (ms.map (·.rank)) }

/-- One cycle of a core (R62, R367 to R369, R377): its count, its warps' counts, and the counts of the waits that the watchdog
counts. -/
def State.tickCore (s : State) (cid : Nat) : State :=
  let here (w : Nat) : Bool := w / 64 = cid
  { s with
    cores := { s.cores with cycles := dmapSet 0 s.cores.cycles cid (s.cyclesOf cid + 1) }
    warps := s.warps.map (fun (e : Nat × Warp) =>
      if here e.1 then
        (e.1, { tickWarp e.2 with cvsetWait := s.tickCvset e.1 e.2.cvsetWait })
      else e)
    holds := s.holds.map (fun (e : Nat × HoldRec) => if e.2.held.isEmpty then e else (e.1, s.tickHeld cid e.2))
    signs := s.signs.map (fun (e : Nat × Sign) =>
      if here (e.1 / 8) && !s.allSigned (e.1 / 8) (e.1 % 8) then (e.1, { e.2 with count := tickCount (lanesOf (e.2.signed &&& ~~~e.2.passed)) e.2.count }) else e)
    ops := s.ops.map (fun (e : Nat × Op) =>
      if here e.2.w && e.2.waits.any (fun x => x.2.1.counted) then
        (e.1, { e.2 with count := tickCount (countedLanes e.2) e.2.count })
      else e) }

/-- The cores that hold warps or reorder entries. -/
def State.busyCores (s : State) : List Nat :=
  s.cores.reorder.foldl (fun a e => if e.2.isEmpty then a else insertNat e.1 a) (s.warps.foldl (fun a e => insertNat (e.1 / 64) a) [])

/-- Cycles of a slice's or a promotion unit's own clock (R7): a free number of them, 1 or 2, goes by while the cores count one. -/
def State.slicePace (s : State) (k : Nat) : Nat := if Config.freeBit (s.free + k) then 2 else 1

/-- Cycles of the slices' own clock (R7): they lower the hold timers of a slice's records (R286), and the promotion unit of each stack counts
its epoch by them (R401). -/
def State.tickSlices (s : State) : State :=
  { s with
    free := s.free + 196
    stackRegs := (List.range 4).foldl (fun (m : NMap StackRegs) k =>
      let r := dmapGet StackRegs.reset s.stackRegs k
      nmapSet m k { r with sc := r.sc + s.slicePace (192 + k) }) s.stackRegs
    holds := s.holds.map (fun (e : Nat × HoldRec) => (e.1, { e.2 with timer := e.2.timer.map (fun t => t - s.slicePace e.2.slice) })) }

/-- The end of a cycle: of every core that is at work, by its own count, and of the slices (R7); each quarter has a slot again (R367). -/
def State.passCycle (s : State) : State := { (s.busyCores.foldl (fun t c => t.tickCore c) s).tickSlices with served := [] }

end Sys2Proof.Machine
end

