-- ==== Sys2Proof/Machine/Footprint.lean ====
section
/-! DEFINITION. Footprints and coverage of pass tiles (R311), the yard, and the places of transient tiles (R23, R307, R312). -/

namespace Sys2Proof.Machine

/-- The first tile and the edge, in tiles, that one stencil entry reaches from a coordinate (R311). -/
def spanOf (k x d : Int) : Int × Nat :=
  if 0 ≤ k then (2 ^ k.toNat * x + d, 2 ^ k.toNat) else (x / 2 ^ (-k).toNat + d, 1)

/-- The tiles of one box, clipped to the resource, as indices (R306, R311). -/
def boxTiles (r : ResRec) (k x y dx dy : Int) : List Nat :=
  let (px, n) := spanOf k x dx
  let (py, _) := spanOf k y dy
  (List.range n).flatMap (fun (j : Nat) => (List.range n).filterMap (fun (i : Nat) =>
    let tx := px + (i : Int)
    let ty := py + (j : Int)
    if 0 ≤ tx ∧ tx < r.wt ∧ 0 ≤ ty ∧ ty < r.ht then some (ty.toNat * r.wt + tx.toNat) else none))

/-- A list with later copies of its members taken out. -/
def dedupNat (xs : List Nat) : List Nat := xs.foldl (fun a x => if a.contains x then a else a ++ [x]) []

/-- The footprint of a pass tile in an input (R311). -/
def footprint (r : ResRec) (i : PassIn) (x y : Nat) : List Nat :=
  if i.all then List.range (r.wt * r.ht) else dedupNat (i.stencil.flatMap (fun d => boxTiles r i.k x y d.1 d.2))

/-- The coverage of a pass tile in a generic output (R311). -/
def coverage (r : ResRec) (k : Int) (x y : Nat) : List Nat := boxTiles r k x y 0 0

/-- The x and y of a pass tile (R308). -/
def tileXY (p : PassRec) (t : Nat) : Nat × Nat := (t % max p.gw 1, t / max p.gw 1)

/-- A resource of a graph. -/
def Graph.res (g : Graph) (r : Nat) : Option ResRec := g.ress[r]?

def Graph.passAt (g : Graph) (p : Nat) : Option PassRec := g.passes[p]?

/-- The keys of a pass tile, a resource tile and a raster tile in a graph's stores. -/
def tileKey (p t : Nat) : Nat := p * 2 ^ 24 + t

/-- Whether a pass is a raster pass (R308). -/
def Graph.isRaster (g : Graph) (p : PassRec) : Bool :=
  p.depth ≠ 0xFFFF || p.outs.any (fun o => match g.res o.1 with | some r => r.kind = 0 | none => false)

/-- Where a byte of a resource tile lives (R307): a virtual address, a physical one, or nowhere. -/
inductive TilePlace where
  | virt (va : Nat)
  | phys (pa : Nat)
  | nowhere
  deriving DecidableEq, Repr

/-- The yard area of a resource of a graph in a stack, if it has one: its runs of bytes (R316). -/
def Graph.yardAt (g : Graph) (r stack : Nat) : Option (List (Nat × Nat)) := nmapFind g.yard (r * 4 + stack)

/-- The yard byte of an offset in an area. -/
def areaByte (es : List (Nat × Nat)) (o : Nat) : Nat :=
  match es with
  | [] => o
  | (b, n) :: t => if o < n then b + o else areaByte t (o - n)

/-- The stack that holds a generic ring (R316). -/
def Graph.ringStack (g : Graph) (r : Nat) : Option Nat := (List.range 4).find? (fun k => (g.yardAt r k).isSome)

/-- The rasteriser that owns a raster tile (R199). -/
def tileOwner (wt t : Nat) : Nat := (t % max wt 1 + 3 * (t / max wt 1)) % 8

/-- Bytes from one slot of a transient resource to the next (R307, R316). -/
def ResRec.stride (r : ResRec) : Nat := r.tbytes + (if r.cdc then 256 else 0)

/-- The place of byte `o` of tile `t` of a resource that transient addresses reach (R307, R312, R319): a colour or depth tile lies in the stack of
its owning rasteriser. -/
def State.genericPlace (s : State) (g : Graph) (ri : Nat) (r : ResRec) (t o : Nat) : TilePlace :=
  if !r.trans then .virt (r.base + t * r.tbytes + o)
  else match nmapFind g.slots (tileKey ri t) with
    | none => .nowhere
    | some n =>
      if n < r.slots then
        match if r.kind = 3 then g.ringStack ri else some (tileOwner r.wt t / 2) with
        | some k => match g.yardAt ri k with
          | some b => .phys (s.yardPa k (areaByte b (n * r.stride + o)))
          | none => .nowhere
        | none => .nowhere
      else .virt (r.ovbase + (n - r.slots) * r.tbytes + o)

/-- The least integer b with 2^b ≥ n (R312). -/
def log2Up (n : Nat) : Nat := if n ≤ 1 then 0 else (n - 1).log2 + 1

/-- What a transient address names (R312): a resource tile and offset, a tile that R311 clips away, or PROT. -/
inductive TransRef where
  | tile (r t o : Nat)
  | clipped
  | prot
  deriving DecidableEq, Repr

/-- A box's sub-tile as a tile (R312): S beyond the box is PROT, a tile beyond the resource is clipped. -/
def subTile (r : ResRec) (ri : Nat) (k : Int) (x y : Nat) (d : Int × Int) (sub o : Nat) : TransRef :=
  let (px, n) := spanOf k x d.1
  let (py, _) := spanOf k y d.2
  if n * n ≤ sub || r.tbytes ≤ o then .prot
  else
    let tx := px + ((sub % n : Nat) : Int)
    let ty := py + ((sub / n : Nat) : Int)
    if 0 ≤ tx ∧ tx < r.wt ∧ 0 ≤ ty ∧ ty < r.ht then .tile ri (ty.toNat * r.wt + tx.toNat) o else .clipped

/-- A resource that transient addresses may reach (R312): no persistent colour resource. -/
def transReach (r : ResRec) : Bool := !(r.kind = 0 && !r.trans)

/-- A transient address resolved against a pass tile (R312); `write` says a store or RMW. -/
def transRef (g : Graph) (p : PassRec) (tile ea : Nat) (write : Bool) : TransRef :=
  let b := ea / 2 ^ 29
  let (x, y) := tileXY p tile
  if b < 4 then
    match p.ins[b]? with
    | none => .prot
    | some i =>
      if i.res = 0xFFFF || write then .prot
      else match g.res i.res with
        | none => .prot
        | some r =>
          if !transReach r then .prot
          else if i.all then
            let k := log2Up r.tbytes
            let t := ea % 2 ^ 29 / 2 ^ k
            let o := ea % 2 ^ k
            if r.wt * r.ht ≤ t || r.tbytes ≤ o then .prot else .tile i.res t o
          else match i.stencil[ea / 2 ^ 25 % 16]? with
            | none => .prot
            | some d => subTile r i.res i.k x y d (ea / 2 ^ 19 % 64) (ea % 2 ^ 19)
  else if b < 6 then
    match p.outs[b - 4]? with
    | none => .prot
    | some (ri, k) =>
      if ri = 0xFFFF || g.isRaster p || ea / 2 ^ 25 % 16 ≠ 0 then .prot
      else match g.res ri with
        | none => .prot
        | some r => if !transReach r then .prot else subTile r ri k x y (0, 0) (ea / 2 ^ 19 % 64) (ea % 2 ^ 19)
  else .prot

end Sys2Proof.Machine
end

