-- ==== Sys2Proof/Machine/Access.lean ====
section
/-! DEFINITION. Effective addresses, the storage each address space reaches, and one access to it by a lane (R231 to R234, R261 to R264,
R404). -/

namespace Sys2Proof.Machine

/-! ## Places -/

/-- Storage that an access reaches. -/
inductive Target where
  /-- Scratch SRAM of a core, by physical offset, reached through the window or not. -/
  | sram (cid ofs : Nat) (win : Bool)
  /-- The core-private column. -/
  | column (cid ofs : Nat)
  /-- A virtual address. -/
  | virt (va : Nat)
  /-- A yard slot, without translation. -/
  | phys (pa : Nat)
  /-- A register, loft or accumulator view of the window: a block of a core and an offset in it. -/
  | view (cid ofs : Nat)
  /-- Reads zero, drops writes: a clipped tile. -/
  | zero
  /-- The window of another card, its scratch view or another: its owner tag turns the access away, so that it reads zero and drops
  writes (R404, log entry 9). -/
  | remote (sram : Bool)
  deriving DecidableEq, Repr

/-- An address resolved, before alignment is judged. -/
inductive Place where
  | here (t : Target)
  | prot
  /-- Outside the allocation: the scratch offset that failed (R262, R412). -/
  | spad (ofs : Nat)
  deriving DecidableEq, Repr

/-- A scratch offset resolved for the part of a workgroup on a core (R262). -/
def scratchPlace (c : WgCore) (cid o : Nat) : Place :=
  if o < 256 * c.ssize then .here (.sram cid (256 * c.sbase + o) false)
  else if 2 ^ 26 ≤ o ∧ o < 2 ^ 26 + c.csize * 2 ^ 20 then .here (.column cid (c.cbase * 2 ^ 20 + (o - 2 ^ 26)))
  else .spad o

/-- The first byte of [o, o + n) that lies outside the allocation or in other storage than the first (R262). -/
def scratchFail (c : WgCore) (o n : Nat) : Option Nat :=
  if n = 0 then none
  else if o < 256 * c.ssize then (if o + n ≤ 256 * c.ssize then none else some (256 * c.ssize))
  else if 2 ^ 26 ≤ o ∧ o < 2 ^ 26 + c.csize * 2 ^ 20 then
    (if o + n ≤ 2 ^ 26 + c.csize * 2 ^ 20 then none else some (2 ^ 26 + c.csize * 2 ^ 20))
  else some o

/-- A window address (R233). -/
def State.windowPlace (s : State) (ea : Nat) : Place :=
  let a := ea % 2 ^ 50
  if 2 ^ 52 ≤ ea || a < 2 ^ 40 || 2 ^ 41 ≤ a then .prot
  else
    let blk := (a - 2 ^ 40) / 2 ^ 24
    let ofs := a % 2 ^ 24
    let card := ea / 2 ^ 50
    if 4 ≤ blk / 64 || 48 ≤ blk % 64 || 0x3C0000 ≤ ofs || !s.reachable card then .prot
    else if card ≠ s.cardNo then .here (.remote (decide (ofs < 2 ^ 20)))
    else
      let cid := blk / 64 * 48 + blk % 64
      .here (if ofs < 2 ^ 20 then .sram cid ofs true else .view cid ofs)

/-- A private address of a lane (R263, R335); every handler lane reaches lane 0's (R419). -/
def State.privPlace (s : State) (w l : Nat) (hm : Bool) (ea : Nat) : Place :=
  if ea < (s.wgOf w).launch.privsize then .here (.virt (s.privVa w (if hm then 0 else l) ea)) else .prot

/-- A generic address (R232). -/
def State.genericAddr (s : State) (w l : Nat) (hm : Bool) (g : Nat) : Place :=
  let top := 0xFE * 2 ^ 48
  if g < top then .here (.virt g)
  else if g < top + 2 ^ 30 then scratchPlace (s.wgCoreOf w) (warpCid w) (g - top)
  else if top + 2 ^ 32 ≤ g ∧ g < top + 2 ^ 33 then s.privPlace w l hm (g - top - 2 ^ 32)
  else if top + 2 ^ 47 ≤ g ∧ g < top + 2 ^ 47 + 2 ^ 42 then
    let x := g - top - 2 ^ 47
    s.windowPlace (x / 2 ^ 40 * 2 ^ 50 + 2 ^ 40 + x % 2 ^ 40)
  else .prot

/-- Whether a generic address lies in the range of the private space (R232). -/
def genericPriv (g : Nat) : Bool := decide (0xFE * 2 ^ 48 + 2 ^ 32 ≤ g) && decide (g < 0xFE * 2 ^ 48 + 2 ^ 33)

/-- A transient address of a lane's workgroup at a pass tile, numbered from one (R312). -/
def State.transPlace (s : State) (w tile1 ea : Nat) (write : Bool) : Place :=
  let g := s.wgOf w
  if tile1 = 0 then .prot
  else match g.graph with
    | none => .prot
    | some k => match nmapFind s.graphs k with
      | none => .prot
      | some gr => match gr.passAt g.pass with
        | none => .prot
        | some p => match transRef gr p (tile1 - 1) ea write with
          | .prot => .prot
          | .clipped => .here .zero
          | .tile ri t o => match gr.res ri with
            | none => .prot
            | some r => match s.genericPlace gr ri r t o with
              | .virt va => .here (.virt va)
              | .phys pa => .here (.phys pa)
              | .nowhere => .here .zero

/-- The storage that `n` bytes at a place touch, for the order of a lane's accesses (R238): class 1 device and host memory, 2 scratch, 3 a
column, 4 a view of a core, 5 none, 7 a yard slot without translation. -/
def placeSpan (p : Place) (n : Nat) : Nat × Nat × Nat :=
  match p with
  | .here (.virt va) => (1, va, n)
  | .here (.phys pa) => (7, pa, n)
  | .here (.sram cid o _) => (2, cid * 2 ^ 20 + o, n)
  | .here (.column cid o) => (3, cid * 2 ^ 29 + o, n)
  | .here (.view cid o) => (4, cid * 2 ^ 24 + o, n)
  | _ => (5, 0, 0)

/-- An effective address of a space resolved (R231, R263). -/
def State.place (s : State) (w : Nat) (r : LaneRec) (sp : Space) (ea : Nat) (write : Bool) : Place :=
  match sp with
  | .generic => s.genericAddr w r.lane r.hm ea
  | .global => if ea < 2 ^ 56 then .here (.virt ea) else .prot
  | .scratch => scratchPlace (s.wgCoreOf w) (warpCid w) ea
  | .window => s.windowPlace ea
  | .constant => if ea < (s.wgOf w).launch.constlen then .here (.virt ((s.wgOf w).launch.constbase + ea)) else .prot
  | .transient => s.transPlace w r.aux ea write
  | .priv => s.privPlace w r.lane r.hm ea

/-- The causes of R264 that are judged at issue: PROT, ALIGN, SPAD, FEUNS, in that order; `fe` says that a full-empty qualifier is
set. -/
def placeCause (p : Place) (ea n : Nat) (fe : Bool) : Option (Cause × Nat × BitVec 64) :=
  let a := BitVec.ofNat 64 ea
  match p with
  | .prot => some (.prot, 0, a)
  | .spad o => if ea % n ≠ 0 then some (.align, 0, a) else some (.spad, 0, BitVec.ofNat 64 o)
  | .here t =>
    if ea % n ≠ 0 then some (.align, 0, a)
    else if fe then match t with | .sram _ _ _ | .remote true => none | _ => some (.feuns, 0, a)
    else none

/-! ## Owner tags -/

/-- The tag of the unit that a place of a core belongs to (R403). -/
def State.tagAt (s : State) (t : Target) : Option Nat :=
  let k := s.cores
  match t with
  | .sram cid o _ => nmapFind k.tagScratch (cid * 4096 + o / 256)
  | .column cid o => nmapFind k.tagCol (cid * 512 + o / 2 ^ 20)
  | .view cid o =>
    if o < 0x300000 then nmapFind k.tagSlot (cid * 64 + (o - 0x100000) / 0x8000)
    else if o < 0x340000 then nmapFind k.tagSlot (cid * 64 + (o - 0x300000) / 0x1000)
    else if o < 0x380000 then nmapFind k.tagLoft (cid * 256 + (o - 0x340000) / 1024)
    else nmapFind k.tagAcc (cid * 32 + (o - 0x380000) / 0x2000)
  | _ => none

/-- A dropped write counted at a stack (R404). -/
def State.countDrop (s : State) (cid : Nat) : State :=
  let k := cidStack cid
  let r := (nmapFind s.stackRegs k).getD StackRegs.reset
  { s with stackRegs := nmapSet s.stackRegs k { r with tagdrop := satInc r.tagdrop } }

/-! ## Stores of a core -/

/-- Whether the granule of a scratch byte is full (R254). -/
def State.feFull (s : State) (cid o : Nat) : Bool := dmapGet false s.cores.fe (cid * 2 ^ 16 + o / 16)

/-- A full-empty bit set or cleared (R254); its change ends the demotion of the core's warps (R369). -/
def State.setFe (s : State) (cid o : Nat) (full : Bool) : State :=
  if s.feFull cid o = full then s
  else { s with cores := { s.cores with fe := dmapSet false s.cores.fe (cid * 2 ^ 16 + o / 16) full } }.wakeCore cid

/-- Bytes of a sparse byte store. -/
def bytesAt (m : NMap Byte) (a n : Nat) : List Byte := (List.range n).map (fun k => dmapGet 0 m (a + k))

/-- Bytes put in a sparse byte store. -/
def bytesPut (m : NMap Byte) (a : Nat) (bs : List Byte) : NMap Byte :=
  match bs with
  | [] => m
  | b :: t => bytesPut (dmapSet 0 m a b) (a + 1) t

/-- Scratch bytes read and written (R254, R429). -/
def State.sramRead (s : State) (cid o n : Nat) : List Byte := bytesAt s.cores.scratch (cid * 2 ^ 20 + o) n

def State.sramWrite (s : State) (cid o : Nat) (bs : List Byte) : State :=
  { s with
    cores := { s.cores with scratch := bytesPut s.cores.scratch (cid * 2 ^ 20 + o) bs }
    mem := { s.mem with poison := poisonAfter s.mem.poison 2 16 (cid * 2 ^ 20 + o) bs.length } }

/-- Loft bytes (R149). -/
def State.loftRead (s : State) (cid o n : Nat) : List Byte := bytesAt s.cores.loft (cid * 2 ^ 18 + o) n

def State.loftWrite (s : State) (cid o : Nat) (bs : List Byte) : State :=
  { s with
    cores := { s.cores with loft := bytesPut s.cores.loft (cid * 2 ^ 18 + o) bs }
    mem := { s.mem with poison := poisonAfter s.mem.poison 5 16 (cid * 2 ^ 18 + o) bs.length } }

/-- The key of a tile element (R150). -/
def accKey (cid f i j : Nat) : Nat := (cid * 32 + f) * 2048 + i * 64 + j

/-- The registers that the views show of a warp slot: those of a warp that has exited are free (R234, R423). -/
def State.viewRegs (s : State) (w : Nat) : Nat × Nat := if (s.warp w).live = 0 then (0, 0) else ((s.warp w).nv, (s.warp w).ns)

/-- One 32-bit unit of a register or accumulator view, by its block offset (R233): beyond the holder's allocation it reads 0. -/
def State.viewWord (s : State) (cid o : Nat) : Word :=
  if o < 0x300000 then
    let x := o - 0x100000
    let w := cid * 64 + x / 0x8000
    let n := x % 0x8000 / 0x80
    if n < (s.viewRegs w).1 then s.regs.getV w (x % 0x80 / 4) n else 0
  else if o < 0x340000 then
    let x := o - 0x300000
    let w := cid * 64 + x / 0x1000
    let n := x % 0x1000 / 4
    if n < (s.viewRegs w).2 then s.regs.getS w n else 0
  else
    let x := o - 0x380000
    dmapGet 0 s.cores.acc (cid * 2 ^ 16 + x / 4)

/-- One 32-bit unit of a register or accumulator view written. -/
def State.setViewWord (s : State) (cid o : Nat) (d : Word) : State :=
  if o < 0x300000 then
    let x := o - 0x100000
    let w := cid * 64 + x / 0x8000
    let n := x % 0x8000 / 0x80
    if n < (s.viewRegs w).1 then s.applyWrite w (.v (x % 0x80 / 4) n d) else s
  else if o < 0x340000 then
    let x := o - 0x300000
    let w := cid * 64 + x / 0x1000
    let n := x % 0x1000 / 4
    if n < (s.viewRegs w).2 then s.applyWrite w (.s n d) else s
  else
    let x := o - 0x380000
    { s with
      cores := { s.cores with acc := dmapSet 0 s.cores.acc (cid * 2 ^ 16 + x / 4) d }
      mem := { s.mem with poison := poisonAfter s.mem.poison 5 16 (2 ^ 40 + (cid * 2 ^ 16 + x / 4) * 4) 4 } }

/-- Whether a loft byte of a core lies in the allocation of a workgroup that stands there (R234). -/
def State.loftHeld (s : State) (cid o : Nat) : Bool :=
  s.wgs.any (fun e => e.2.cores.any (fun c => c.cid = cid && decide (1024 * c.loftb ≤ o) && decide (o < 1024 * c.loftb + c.lsize)))

/-- Bytes of a register, loft or accumulator view. -/
def State.viewRead (s : State) (cid o n : Nat) : List Byte :=
  if 0x340000 ≤ o ∧ o < 0x380000 then
    ((s.loftRead cid (o - 0x340000) n).zipIdx).map (fun e => if s.loftHeld cid (o - 0x340000 + e.2) then e.1 else 0)
  else (List.range n).map (fun k => BitVec.ofNat 8 ((s.viewWord cid ((o + k) / 4 * 4)).toNat / 2 ^ (8 * ((o + k) % 4))))

/-- A byte of a word replaced. -/
def wordByte (x : Word) (k : Nat) (b : Byte) : Word := BitVec.ofNat 32 (putField x.toNat 8 k b.toNat)

/-- Bytes of a register, loft or accumulator view written. -/
def State.viewWrite (s : State) (cid o : Nat) (bs : List Byte) : State :=
  if 0x340000 ≤ o ∧ o < 0x380000 then
    let x := o - 0x340000
    let old := s.loftRead cid x bs.length
    if (List.range bs.length).all (fun k => s.loftHeld cid (x + k)) then s.loftWrite cid x bs
    else if (List.range bs.length).any (fun k => s.loftHeld cid (x + k)) then
      s.loftWrite cid x (bs.zipIdx.map (fun e => if s.loftHeld cid (x + e.2) then e.1 else (old[e.2]?).getD 0))
    else s
  else match bs with
    | [] => s
    | b :: t =>
      State.viewWrite (s.setViewWord cid (o / 4 * 4) (wordByte (s.viewWord cid (o / 4 * 4)) (o % 4) b)) cid (o + 1) t

/-- Whether a view's bytes are poisoned, with the store class (R427, R429). -/
def State.viewPoison (s : State) (cid o n : Nat) : Option Nat :=
  let p := s.mem.poison
  if o < 0x300000 then
    let x := o - 0x100000
    let w := cid * 64 + x / 0x8000
    if decide (x % 0x8000 / 0x80 < (s.viewRegs w).1) && (List.range ((n + 3) / 4)).any (fun k => poisonHit p 1 1 (laneKey w (x % 0x80 / 4 + k) * 256 + x % 0x8000 / 0x80) 1) then some 1 else none
  else if o < 0x340000 then
    let x := o - 0x300000
    if (List.range ((n + 3) / 4)).any (fun k => decide (x % 0x1000 / 4 + k < (s.viewRegs (cid * 64 + x / 0x1000)).2)
        && poisonHit p 1 1 (2 ^ 40 + (cid * 64 + x / 0x1000) * 1024 + x % 0x1000 / 4 + k) 1) then some 1 else none
  else if o < 0x380000 then if poisonHit p 5 16 (cid * 2 ^ 18 + (o - 0x340000)) n then some 5 else none
  else if poisonHit p 5 16 (2 ^ 40 + cid * 2 ^ 18 + (o - 0x380000)) n then some 5 else none

/-! ## One access -/

/-- How an access ends: its bytes, a parked translation fault, a cause, or a wait for a line that an engine owns. -/
inductive Acc where
  | ok (bs : List Byte)
  | park (va kind level : Nat) (entry : BitVec 64)
  | trap (c : Cause) (sub : Nat) (addr : BitVec 64)
  | wait
  deriving DecidableEq, Repr

/-- Who accesses: a context, the core it stands at, and whether it goes past L1. -/
structure Who where
  ctx : Nat
  cid : Nat
  nol1 : Bool
  deriving DecidableEq, Repr

/-- A read or write of `n` bytes at a physical address of device memory (R239 to R241, R392, R429). -/
def State.physAccess (s : State) (q : Who) (ea pa n : Nat) (w : Option (List Byte)) : State × Acc :=
  match s.gate q.ctx q.cid pa n w.isNone q.nol1 with
  | .prot => (s, .trap .prot 0 (BitVec.ofNat 64 ea))
  | .secv => (s, .trap .secv 0 0)
  | .poison cls => (s, .trap .poison cls (poisonPa pa))
  | .wait => (s, .wait)
  | .pass =>
    match w with
    | none => let (s1, bs) := s.coreRead q.cid pa n q.nol1; (s1, .ok bs)
    | some bs => (s.coreWrite q.cid pa bs q.nol1, .ok [])

/-- A consumption of poison through a translated address names that address (R429). -/
def Acc.withVa (a : Acc) (va : Nat) : Acc :=
  match a with
  | .trap .poison cls _ => .trap .poison cls (poisonVa va)
  | a => a

/-- A read or write through translation (R393). -/
def State.virtAccess (s : State) (q : Who) (ea va n : Nat) (w : Option (List Byte)) : State × Acc :=
  match s.translateAt q.cid q.ctx va (if w.isNone then .read else .write) with
  | (s1, .fault kind level e) => (s1, .park va kind level e)
  | (s1, .secv) => (s1, .trap .secv 0 0)
  | (s1, .poison cls) => (s1, .trap .poison cls (poisonVa va))
  | (s1, .to true a) =>
    match w with
    | none => (s1, .ok (s1.readHost a n))
    | some bs => (s1.writeHost a bs, .ok [])
  | (s1, .to false a) => let (s2, r) := s1.physAccess q ea a n w; (s2, r.withVa va)

/-- A read or write of a target (R231, R234, R404). -/
def State.access (s : State) (q : Who) (t : Target) (ea n : Nat) (w : Option (List Byte)) : State × Acc :=
  match t with
  | .virt va => s.virtAccess q ea va n w
  | .phys pa => s.physAccess q ea pa n w
  | .zero => (s, .ok (List.replicate n 0))
  | .remote _ => (s, .ok (List.replicate n 0))
  | .column cid o => s.physAccess { q with nol1 := true } ea (s.columnPa cid o) n w
  | .sram cid o win =>
    if win && s.tagAt t ≠ some q.ctx then
      (if w.isSome then s.countDrop cid else s, .ok (List.replicate n 0))
    else match w with
      | none => if poisonHit s.mem.poison 2 16 (cid * 2 ^ 20 + o) n then (s, .trap .poison 2 0) else (s, .ok (s.sramRead cid o n))
      | some bs => (if win then (s.sramWrite cid o bs).wakeCore cid else s.sramWrite cid o bs, .ok [])
  | .view cid o =>
    if s.tagAt t ≠ some q.ctx then (if w.isSome then s.countDrop cid else s, .ok (List.replicate n 0))
    else match w with
      | none => match s.viewPoison cid o n with
        | some cls => (s, .trap .poison cls 0)
        | none => (s, .ok (s.viewRead cid o n))
      | some bs => ((s.viewWrite cid o bs).wakeCore cid, .ok [])

/-- An access that did not end with its bytes, as the end of a lane's part. -/
def Acc.perf (a : Acc) : Perf :=
  match a with
  | .ok _ => .done []
  | .park va kind level e => .park va kind level e
  | .trap c sub addr => .trap c sub addr
  | .wait => .wait .release 0

/-- The writes of a destination of several registers, lowest part first (R56). -/
def dstWords (hm : Bool) (o : Opnd) (l : Nat) (ws : List Word) : List RegWrite :=
  ws.zipIdx.flatMap (fun e => match o with
    | .v n => [if hm then .hv l (n.toNat + e.2) e.1 else .v l (n.toNat + e.2) e.1]
    | .s n => [if hm then .hs (n.toNat + e.2) e.1 else .s (n.toNat + e.2) e.1]
    | .p n => [.p l n.toNat (e.1.getLsbD 0)]
    | _ => [])

/-- Bytes as 32-bit words, lowest first. -/
def wordsOf (n : Nat) (x : Nat) : List Word := (List.range n).map (fun k => BitVec.ofNat 32 (x / 2 ^ (32 * k)))

end Sys2Proof.Machine
end

