-- ==== Sys2Proof/Machine/MemOps.lean ====
section
/-! DEFINITION. Loads, stores, prefetch, cache control, atomics, fences and full-empty bits (R263 to R276). -/

namespace Sys2Proof.Machine

/-! ## Format M -/

/-- The effective address of a lane, and whether it lies in the range of its space's addresses (R263). -/
def memEa (f : MForm) (s : State) (c : Rd) : Nat × Bool :=
  let wide := spaceWide f.space
  let b : Int := ((if wide then s.src c .n64 f.base else s.src c .b32 f.base).toNat : Int)
  let x := intOf .i32 (srcN s c .i32 f.index) * (if f.scl then (widthBytes f.width : Int) else 1)
  let ea := b + x + f.ofs.toInt
  if wide then ((BitVec.ofInt 64 ea).toNat, true) else ((BitVec.ofInt 64 ea).toNat, decide (0 ≤ ea ∧ ea < 2 ^ 32))

/-- The record of a lane as it stands now, for resolving an address at issue. -/
def State.nowRec (s : State) (c : Rd) : LaneRec :=
  { noRec c.l with hm := s.inHandler c.w c.l, aux := match (s.warp c.w).tile with | some t => t + 1 | none => 0 }

/-- The place a lane's address names. -/
def memPlace (f : MForm) (write : Bool) (s : State) (c : Rd) : Place :=
  let r := memEa f s c
  if r.2 then s.place c.w (s.nowRec c) f.space r.1 write else .prot

/-- The causes of a format-M access judged at issue (R264). -/
def memCause (f : MForm) (write : Bool) (s : State) (c : Rd) : Option (Cause × Nat × BitVec 64) :=
  placeCause (memPlace f write s c) (memEa f s c).1 (widthBytes f.width) (f.fe ≠ .ignore)

/-- The data of a store: up to four registers (R265). -/
def storeData (f : MForm) (s : State) (c : Rd) : BitVec 128 :=
  match f.dst with
  | .v n => BitVec.ofNat 128 ((List.range (widthRegs f.width)).foldr (fun k a => (s.rdV c.w c.l (n.toNat + k)).toNat + 2 ^ 32 * a) 0)
  | .s n => BitVec.ofNat 128 ((List.range (widthRegs f.width)).foldr (fun k a => (s.rdS c.w c.l (n.toNat + k)).toNat + 2 ^ 32 * a) 0)
  | o => (s.src c (widthTy f.width) o).zeroExtend 128

/-- The operand values of a format-M instruction (R418). -/
def slotsM (f : MForm) (store : Bool) (s : State) (c : Rd) : LaneRec :=
  { noRec c.l with
    a := if spaceWide f.space then s.src c .n64 f.base else s.src c .b32 f.base
    b := BitVec.ofInt 64 (intOf .i32 (srcN s c .i32 f.index))
    c := if store then storeData f s c else 0
    addr := BitVec.ofNat 64 (memEa f s c).1 }

/-- Whether a scope reaches beyond the core's L1 (R236, R244). -/
def scopeWide (x : Scope) : Bool := !(x = .thread || x = .warp || x = .core)

/-- Bytes loaded, as the registers' words (R73, R265). -/
def loadWords (w : Width) (bs : List Byte) : List Word :=
  let x := ofBytes bs
  match w with
  | .i8 => [(intRes .i8 false (intOf .i8 x)).truncate 32]
  | .i16 => [(intRes .i16 false (intOf .i16 x)).truncate 32]
  | w => wordsOf (widthRegs w) x

/-- Whether a lane's full-empty wait holds it (R266): the granule is not in the state waited for. A window access that the owner tag
turns away does not wait (R404). -/
def State.feHolds (s : State) (ctx : Nat) (t : Target) (full : Bool) : Bool :=
  match t with
  | .sram cid o win => if win && s.tagAt t ≠ some ctx then false else s.feFull cid o != full
  | _ => false

/-- A granule set or cleared through a target. -/
def State.feThrough (s : State) (ctx : Nat) (t : Target) (full : Bool) : State :=
  match t with
  | .sram cid o win => if win && s.tagAt t ≠ some ctx then s else s.setFe cid o full
  | _ => s

/-- The aligned 16 bytes that hold an address: what a core has written of them goes home together (R237). -/
def unit16 (a : Nat) : Nat := a / 16 * 16

/-- The written bytes of the lines that an access touches sent home before a read that is performed there (R244). -/
def State.flushPlace (s : State) (ctx cid : Nat) (t : Target) (n : Nat) : State × Bool :=
  let go (u : State) (pa : Nat) : State × Bool := if u.dirtyOwned cid (unit16 pa) (unit16 (pa + n + 15)) then (u, true) else (u.writeBackRange cid (unit16 pa) (unit16 (pa + n + 15)), false)
  match t with
  | .virt va => match s.translateAt cid ctx va .read with
    | (s1, .to false pa) => go s1 pa
    | _ => (s, false)
  | .phys pa => go s pa
  | _ => (s, false)

/-- One lane's part of LD (R265, R266, R244). An acquire wider than the core is performed at the home, the core's own written bytes first
among them. -/
def perfLd (f : MForm) (s : State) (o : Op) (l : Nat) : State × Perf :=
  let r := opRec o l
  let ctx := (s.warp o.w).ctx
  let n := widthBytes f.width
  let far : Bool := f.ord = .acq && scopeWide f.scope
  match s.place o.w r f.space r.addr.toNat false with
  | .here t =>
    let s0 : State × Bool := if far then s.flushPlace ctx (warpCid o.w) t n else (s, false)
    if f.fe ≠ .ignore && s.feHolds ctx t true then (s, .wait .fullEmpty r.addr.toNat)
    else if s0.2 then (s, .wait .release 0)
    else match s0.1.access ⟨ctx, warpCid o.w, f.cache = .nol1 || far⟩ t r.addr.toNat n none with
      | (s1, .ok bs) =>
        let s2 := if f.fe = .clear then s1.feThrough ctx t false else s1
        let s3 := if f.ord = .acq then s2.acquireAt (warpCid o.w) f.scope else s2
        (s3, .done (dstWords r.hm f.dst l (loadWords f.width bs)))
      | (s1, a) => (s1, a.perf)
  | _ => (s, .trap .prot 0 r.addr)

/-- The storage that a format-M access touches (R238): with a full-empty qualifier the whole granule (R266). -/
def memSpan (f : MForm) (write : Bool) (s : State) (c : Rd) : Nat × Nat × Nat :=
  let p := placeSpan (memPlace f write s c) (widthBytes f.width)
  if f.fe = .ignore then p else (p.1, p.2.1 / 16 * 16, 16)

/-- Whether a format-M access is performed at the home whatever L1 holds (R244, R267). -/
def memFar (f : MForm) (ord : Sys2Proof.Ord) : Bool := f.cache = .nol1 || (f.ord = ord && scopeWide f.scope)

/-- LD (R265): an acquire by its ORD or its full-empty bit (R243). -/
def opLd (f : MForm) : LongOp :=
  { cause := memCause f false, slots := slotsM f false, span := memSpan f false
    ord := { mem := true, wr := f.fe ≠ .ignore, acq := f.ord = .acq || f.fe ≠ .ignore, l2 := if memFar f .acq then .always else .miss }
    pend := fun s c => pendOf (s.inHandler c.w c.l) f.dst c.l (widthRegs f.width)
    perf := perfLd f }

def execLd (h : Hdr) (f : MForm) (s : State) : Out := .next (issueLong (.ld h f) h (opLd f) s)

/-- One lane's part of ST (R265, R266, R244). -/
def perfSt (f : MForm) (s : State) (o : Op) (l : Nat) : State × Perf :=
  let r := opRec o l
  let ctx := (s.warp o.w).ctx
  let n := widthBytes f.width
  let far : Bool := f.ord = .rel && scopeWide f.scope
  match s.place o.w r f.space r.addr.toNat true with
  | .here t =>
    if f.fe ≠ .ignore && s.feHolds ctx t false then (s, .wait .fullEmpty r.addr.toNat)
    else if f.ord = .rel && s.releaseHeld (warpCid o.w) f.scope then (s, .wait .release 0)
    else
      let s0 := if f.ord = .rel then s.releaseAt (warpCid o.w) f.scope else s
      match s0.access ⟨ctx, warpCid o.w, f.cache = .nol1 || far⟩ t r.addr.toNat n (some (bytesOf n r.c.toNat)) with
      | (s1, .ok _) => (if f.fe = .set then s1.feThrough ctx t true else s1, .done [])
      | (s1, a) => (s1, a.perf)
  | _ => (s, .trap .prot 0 r.addr)

/-- ST (R265): a release by its ORD, and by the granule it sets full; its wait for the granule is an acquire (R243). -/
def opSt (f : MForm) : LongOp :=
  { cause := memCause f true, slots := slotsM f true, span := memSpan f true
    ord := { mem := true, wr := true, acq := f.fe ≠ .ignore, rel := f.ord = .rel || f.fe ≠ .ignore
             l2 := if memFar f .rel then .always else .never }
    perf := perfSt f }

def execSt (h : Hdr) (f : MForm) (s : State) : Out := .next (issueLong (.st h f) h (opSt f) s)

/-- A line brought into a core's L1, when nothing stands in its way (R269). -/
def State.prefetchLine (s : State) (ctx cid pa : Nat) : State :=
  let line := pa / 128 * 128
  match s.gate ctx cid line 128 true false with
  | .pass => (s.coreRead cid line 128 false).1
  | _ => s

/-- One lane's part of PRFM (R269): nothing on private addresses, whichever space names them. -/
def perfPrfm (f : MForm) (s : State) (o : Op) (l : Nat) : State × Perf :=
  let r := opRec o l
  let ctx := (s.warp o.w).ctx
  let bring (t : State) (pa : Nat) : State := if f.cache = .nol1 then t else t.prefetchLine ctx (warpCid o.w) pa
  if f.space = .priv || (f.space = .generic && genericPriv r.addr.toNat) then (s, .done [])
  else match s.place o.w r f.space r.addr.toNat false with
  | .here (.virt va) =>
    match s.translateAt (warpCid o.w) ctx va .read with
    | (s1, .to false a) => (bring s1 a, .done [])
    | _ => (s, .done [])
  | .here (.phys pa) => (bring s pa, .done [])
  | _ => (s, .done [])

def opPrfm (f : MForm) : LongOp := { slots := slotsM f false, perf := perfPrfm f }

/-- PRFM (R269). -/
def execPrfm (h : Hdr) (f : MForm) (s : State) : Out := .next (issueLong (.prfm h f) h (opPrfm f) s)

/-! ## Cache control -/

/-- The L1 lines that overlap a physical range written back, and dropped when `inv` holds (R270). -/
def State.cctlPhys (s : State) (cid lo n : Nat) (inv : Bool) : State :=
  let a := lo / 128 * 128
  let b := (lo + n + 127) / 128 * 128
  let s1 := s.writeBackRange cid a b
  if inv then s1.invalidate cid (nmapClear s1.mem.l1 (l1Key cid a) (l1Key cid b)) else s1

/-- The physical runs that a virtual range reaches, page by page; a part that no translation reaches holds no lines (R270). -/
def State.cctlRuns (s : State) (c cid fuel va n : Nat) : List (Nat × Nat) :=
  match fuel with
  | 0 => []
  | k + 1 =>
    if n = 0 then []
    else
      let m := min n (4096 - va % 4096)
      (match (s.translateAt cid c va .read).2 with | .to false a => [(a, m)] | _ => []) ++ State.cctlRuns s c cid k (va + m) (n - m)

/-- One lane's part of CCTL (R270); it waits for a line that a job owns before it sends bytes to it (R250). -/
def perfCctl (f : RForm) (s : State) (o : Op) (l : Nat) : State × Perf :=
  let r := opRec o l
  let cid := warpCid o.w
  let n := (r.b.truncate 32 : Word).toNat
  let inv := f.sub.getLsbD 0
  if f.sub.getLsbD 1 then
    if s.dirtyOwned cid 0 (2 ^ 52) then (s, .wait .release 0)
    else
      let s2 := s.writeBackAll cid
      (if inv then s2.invalidate cid (nmapClear s2.mem.l1 (l1Key cid 0) (l1Key (cid + 1) 0)) else s2, .done [])
  else match s.genericAddr o.w l r.hm r.a.toNat with
    | .here (.virt va) =>
      let rs := s.cctlRuns (s.warp o.w).ctx cid (n / 4096 + 2) va n
      if rs.any (fun p => s.dirtyOwned cid (p.1 / 128 * 128) ((p.1 + p.2 + 127) / 128 * 128)) then (s, .wait .release 0)
      else (rs.foldl (fun (t : State) p => t.cctlPhys cid p.1 p.2 inv) s, .done [])
    | _ => (s, .done [])

def opCctl (f : RForm) : LongOp := { slots := slotsR f .n64 .n32 .b32, ord := { mem := true }, perf := perfCctl f }

/-- CCTL (R270). -/
def execCctl (h : Hdr) (f : RForm) (s : State) : Out := .next (issueLong (.cctl h f) h (opCctl f) s)

/-! ## Atomics -/

/-- The bytes of an atomic's type (R272). -/
def atomBytes (t : Ty) : Nat := if isWide t then 8 else 4

/-- F(old, b) of R272 for one element of a floating type. -/
def atomFloat (t : Ty) (op a b : Nat) : Nat :=
  match op with
  | 0 => ((ffmt t).deliver .rne 0 false false (fvAdd false ((ffmt t).decode a) ((ffmt t).decode b)).v).bits
  | _ =>
    let r := (minmax t (op = 2) false a b).1
    if ((ffmt t).decode r).isNan then ((ffmt t).nanRes false).bits else r

/-- F(old, b) of R272, as bits of the type. -/
def atomF (t : Ty) (op old b : Nat) : Nat :=
  match t with
  | .f32 | .f64 => atomFloat t op old b
  | .f16x2 | .bf16x2 =>
    let e := elemTy t
    atomFloat e op (half old 0) (half b 0) + atomFloat e op (half old 1) (half b 1) * 2 ^ 16
  | t =>
    let x := intOf t old
    let y := intOf t b
    typeBits t (match op with
      | 0 => x + y
      | 1 => min x y
      | 2 => max x y
      | 3 => (((typeBits t x) &&& (typeBits t y) : Nat) : Int)
      | 4 => (((typeBits t x) ||| (typeBits t y) : Nat) : Int)
      | 5 => (((typeBits t x) ^^^ (typeBits t y) : Nat) : Int)
      | _ => y)

/-- The atomics that host memory offers (R274): integer add, exchange and compare-and-swap. -/
def hostAtomic (cas : Bool) (op : Nat) (t : Ty) : Bool :=
  cas || op = 6 || (op = 0 && [Ty.i32, .n32, .i64, .n64].contains t)

/-- The scope code of an atomic or fence (R49). -/
def scopeOfCode (k : Nat) : Scope :=
  match k with
  | 0 => .thread | 1 => .warp | 2 => .core | 3 => .gang | 4 => .stack | 5 => .card | 6 => .fabric | _ => .system

/-- An atomic's place by storage (R274): the causes judged at issue. -/
def atomCause (f : RForm) (s : State) (c : Rd) : Option (Cause × Nat × BitVec 64) :=
  let a := srcN s c .n64 f.sa
  match s.genericAddr c.w c.l (s.inHandler c.w c.l) a with
  | .here (.view _ _) | .here (.remote false) => some (.prot, 0, BitVec.ofNat 64 a)
  | p => placeCause p a (atomBytes f.ty) false

/-- A read-modify-write at a target through `access` (R247, R273): the old value, and what is written if anything. -/
def State.rmwAt (s : State) (q : Who) (t : Target) (ea n : Nat) (g : Nat → Option Nat) : State × Except Acc Nat :=
  match s.access q t ea n none with
  | (s1, .ok bs) =>
    let old := ofBytes bs
    match g old with
    | none => (s1, .ok old)
    | some x => match s1.access q t ea n (some (bytesOf n x)) with
      | (s2, .ok _) => (s2, .ok old)
      | (s2, a) => (s2, .error a)
  | (s1, a) => (s1, .error a)

/-- A read-modify-write of device memory at a physical address (R247): in the core's L1, or at the home. -/
def State.rmwPhys (s : State) (q : Who) (ea pa n : Nat) (sc : Scope) (g : Nat → Option Nat) : State × Except Acc Nat :=
  if scopeWide sc then
    if s.ownedByJob pa n then (s, .error .wait) else (s.writeBackRange q.cid (unit16 pa) (unit16 (pa + n + 15))).rmwAt { q with nol1 := true } (.phys pa) ea n g
  else s.rmwAt { q with nol1 := false } (.phys pa) ea n g

/-- A read-modify-write at the place of R247; `host` says whether host memory offers it. -/
def State.rmw (s : State) (q : Who) (t : Target) (ea n : Nat) (sc : Scope) (host : Bool) (g : Nat → Option Nat) : State × Except Acc Nat :=
  match t with
  | .virt va =>
    match s.translateAt q.cid q.ctx va .write with
    | (s1, .to true a) =>
      if !host then (s1, .error (.trap .prot 0 (BitVec.ofNat 64 ea)))
      else
        let old := ofBytes (s1.readHost a n)
        (match g old with | some x => s1.writeHost a (bytesOf n x) | none => s1, .ok old)
    | (s1, .to false a) =>
      match s1.rmwPhys q ea a n sc g with
      | (s2, .error e) => (s2, .error (e.withVa va))
      | r => r
    | (s1, .fault kind level e) => (s1, .error (.park va kind level e))
    | (s1, .secv) => (s1, .error (.trap .secv 0 0))
    | (s1, .poison cls) => (s1, .error (.trap .poison cls (poisonVa va)))
  | .phys pa => s.rmwPhys q ea pa n sc g
  | t => s.rmwAt q t ea n g

/-- One lane's part of ATOM, RED and CAS (R273). -/
def perfAtom (f : RForm) (cas ret : Bool) (s : State) (o : Op) (l : Nat) : State × Perf :=
  let r := opRec o l
  let cid := warpCid o.w
  let n := atomBytes f.ty
  let op := subBits f 2 0
  let ord := subBits f 4 3
  let sc := scopeOfCode (subBits f 7 5)
  let a := r.a.toNat
  match s.genericAddr o.w l r.hm a with
  | .here t =>
    if (ord = 2 ∨ ord = 3) ∧ s.releaseHeld cid sc = true then (s, .wait .release 0) else
    let s0 := if ord = 2 ∨ ord = 3 then s.releaseAt cid sc else s
    let b := r.b.toNat % 2 ^ (8 * n)
    let g (old : Nat) : Option Nat :=
      if cas then (if old = b then some (r.c.toNat % 2 ^ (8 * n)) else none) else some (atomF f.ty op old b)
    match s0.rmw ⟨(s.warp o.w).ctx, cid, false⟩ t a n sc (hostAtomic cas op f.ty) g with
    | (s1, .ok old) =>
      let s2 := if ord = 1 ∨ ord = 3 then s1.acquireAt cid sc else s1
      (s2, .done (if ret then dstWords r.hm f.dst l (wordsOf (tyRegs f.ty) old) else []))
    | (s1, .error e) => (s1, e.perf)
  | _ => (s, .trap .prot 0 r.a)

/-- An atomic (R271). -/
def opAtom (f : RForm) (cas ret : Bool) : LongOp :=
  { cause := atomCause f
    slots := fun s c => { slotsR f .n64 f.ty f.ty s c with addr := s.src c .n64 f.sa }
    ord := { mem := true, wr := true, acq := f.sub.getLsbD 3, rel := f.sub.getLsbD 4
             l2 := if scopeWide (scopeOfCode (subBits f 7 5)) then .always else .miss }
    span := fun s c => placeSpan (s.genericAddr c.w c.l (s.inHandler c.w c.l) (srcN s c .n64 f.sa)) (atomBytes f.ty)
    pend := fun s c => if ret then pendOf (s.inHandler c.w c.l) f.dst c.l (tyRegs f.ty) else []
    perf := perfAtom f cas ret }

/-- ATOM (R273). -/
def execAtom (h : Hdr) (f : RForm) (s : State) : Out := .next (issueLong (.atom h f) h (opAtom f false true) s)

/-- RED (R273). -/
def execRed (h : Hdr) (f : RForm) (s : State) : Out := .next (issueLong (.red h f) h (opAtom f false false) s)

/-- CAS (R273). -/
def execCas (h : Hdr) (f : RForm) (s : State) : Out := .next (issueLong (.cas h f) h (opAtom f true true) s)

/-- One lane's part of FENCE (R244, R275): release, then acquire. -/
def perfFence (f : RForm) (s : State) (o : Op) (_ : Nat) : State × Perf :=
  let cid := warpCid o.w
  let sc := scopeOfCode (subBits f 4 2)
  if f.sub.getLsbD 1 && s.releaseHeld cid sc then (s, .wait .release 0)
  else
    let s1 := if f.sub.getLsbD 1 then s.releaseAt cid sc else s
    (if f.sub.getLsbD 0 then s1.acquireAt cid sc else s1, .done [])

/-- A fence stands between the accesses before it and those after it, whichever of the two it is (R245). -/
def opFence (f : RForm) : LongOp :=
  { slots := slotsR f .b32 .b32 .b32, ord := { mem := true, acq := true, rel := true }, perf := perfFence f }

/-- FENCE (R275). -/
def execFence (h : Hdr) (f : RForm) (s : State) : Out := .next (issueLong (.fence h f) h (opFence f) s)

/-! ## Full-empty bits -/

/-- The causes of FESET and FEQRY for a range of `n` bytes from a scratch offset (R264, R276). More than 65,536 granules reach beyond every
allocation, wherever the range starts. -/
def feRangeCause (c : WgCore) (cid o n : Nat) : Option (Cause × Nat × BitVec 64) :=
  if o % 16 ≠ 0 then some (.align, 0, BitVec.ofNat 64 o)
  else if n = 0 then none
  else if 2 ^ 20 < n then some (.spad, 0, BitVec.ofNat 64 ((scratchFail c o n).getD (o + 2 ^ 20)))
  else match scratchFail c o n with
    | some x => some (.spad, 0, BitVec.ofNat 64 x)
    | none => match scratchPlace c cid o with
      | .here (.sram _ _ _) => none
      | _ => some (.feuns, 0, BitVec.ofNat 64 o)

/-- The bits of a run of granules of a core set or cleared (R276). -/
def State.setFeRun (s : State) (cid o : Nat) (full : Bool) (n : Nat) : State :=
  match n with
  | 0 => s
  | k + 1 => State.setFeRun (s.setFe cid o full) cid (o + 16) full k

/-- One lane's part of FESET (R276). -/
def perfFeset (f : RForm) (s : State) (o : Op) (l : Nat) : State × Perf :=
  let r := opRec o l
  let c := s.wgCoreOf o.w
  (s.setFeRun (warpCid o.w) (256 * c.sbase + (r.a.truncate 32 : Word).toNat) (f.sub.getLsbD 0) (r.b.truncate 32 : Word).toNat, .done [])

def opFeset (f : RForm) : LongOp :=
  { cause := fun s c => feRangeCause (s.wgCoreOf c.w) (warpCid c.w) (srcN s c .b32 f.sa) (16 * srcN s c .n32 f.sb)
    slots := fun s c => { slotsR f .b32 .n32 .b32 s c with addr := s.src c .b32 f.sa }
    ord := { mem := true, wr := true, rel := f.sub.getLsbD 0 }
    span := fun s c => placeSpan (scratchPlace (s.wgCoreOf c.w) (warpCid c.w) (srcN s c .b32 f.sa)) (16 * srcN s c .n32 f.sb)
    perf := perfFeset f }

/-- FESET (R276). -/
def execFeset (h : Hdr) (f : RForm) (s : State) : Out := .next (issueLong (.feset h f) h (opFeset f) s)

/-- The mask of 32 granules from a scratch offset; those beyond the allocation read 0 (R276). -/
def State.feMask (s : State) (c : WgCore) (cid o : Nat) : Mask :=
  maskOf ((List.range 32).filter (fun k => decide (o + 16 * k < 256 * c.ssize) && s.feFull cid (256 * c.sbase + o + 16 * k)))

/-- One lane's part of FEQRY (R276). -/
def perfFeqry (f : RForm) (s : State) (o : Op) (l : Nat) : State × Perf :=
  let r := opRec o l
  (s, .done (dstWords r.hm f.dst l [s.feMask (s.wgCoreOf o.w) (warpCid o.w) (r.a.truncate 32 : Word).toNat]))

def opFeqry (f : RForm) : LongOp :=
  { cause := fun s c => feRangeCause (s.wgCoreOf c.w) (warpCid c.w) (srcN s c .b32 f.sa) 1
    slots := fun s c => { slotsR f .b32 .b32 .b32 s c with addr := s.src c .b32 f.sa }
    pend := fun s c => pendOf (s.inHandler c.w c.l) f.dst c.l 1
    ord := { mem := true }
    span := fun s c => placeSpan (scratchPlace (s.wgCoreOf c.w) (warpCid c.w) (srcN s c .b32 f.sa)) 512
    perf := perfFeqry f }

/-- FEQRY (R276). -/
def execFeqry (h : Hdr) (f : RForm) (s : State) : Out := .next (issueLong (.feqry h f) h (opFeqry f) s)

end Sys2Proof.Machine
end

