-- ==== Sys2Proof/Machine/CounterOps.lean ====
section
/-! DEFINITION. Arrival counters (R277 to R282) and neighbour links (R21, R302, R303). -/

namespace Sys2Proof.Machine

/-! ## Arrival counters -/

/-- A counter's handle (R277). -/
def State.handleOf (s : State) (k serial : Nat) : Word :=
  BitVec.ofNat 32 (serial % 256 * 2 ^ 16 + s.cardNo * 2 ^ 14 + k % 2 ^ 14)

/-- The counter that a handle names for a context; none when stale, freed or foreign (R277, R280). -/
def State.counterOf (s : State) (ctx : Nat) (hd : Word) : Option (Nat × Counter) :=
  let n := hd.toNat
  match nmapFind s.counters (n % 2 ^ 14) with
  | some c => if c.ctx = ctx && n = (s.handleOf (n % 2 ^ 14) c.serial).toNat then some (n % 2 ^ 14, c) else none
  | none => none

/-- The live lanes of a workgroup, on every core it occupies (R279). -/
def State.wgLanes (s : State) (wg : Nat) : List Nat :=
  s.warps.flatMap (fun e => if e.2.wg = wg then (lanesOf e.2.live).map (laneKey e.1) else [])

/-- Whether the owner tag of a granule lets a device agent of a context write it (R404). -/
def State.granuleOwned (s : State) (ctx cid g : Nat) : Bool := s.tagAt (.sram cid (16 * g) true) = some ctx

/-- A granule of a core's scratch written and set full by a device agent of a context, a memory event at that core (R369): dropped and
counted when the owner tag differs (R280, R286, R404). A granule of another card, core 192 here, is written there (log entry 9). -/
def State.fillGranule (s : State) (ctx cid g : Nat) (bs : List Byte) : State :=
  if 192 ≤ cid then s
  else if s.granuleOwned ctx cid g then ((s.sramWrite cid (16 * g) bs).setFe cid (16 * g) true).wakeCore cid
  else s.countDrop cid

/-- The scratch granule that a generic address names for a lane (R279): core and physical granule, or the cause. -/
def State.granuleOf (s : State) (w l : Nat) (hm : Bool) (g : Nat) : Except (Cause × Nat) (Nat × Nat) :=
  if g % 16 ≠ 0 then .error (.align, g)
  else match s.genericAddr w l hm g with
    | .here (.sram cid o _) => .ok (cid, o / 16)
    | .here (.remote true) => .ok (192, 0)
    | .here (.column _ _) => .error (.feuns, g)
    | .spad o => .error (.spad, o)
    | _ => .error (.prot, g)

/-- The lowest free counter of a stack. -/
def State.freeCounter (s : State) (stack : Nat) : Option Nat :=
  ((List.range 4096).map (fun k => stack * 4096 + k)).find? (fun k => (nmapFind s.counters k).isNone)

/-- The SERIAL of a counter's next allocation: a free value other than the last one (R277; log entry 4). -/
def State.freshSerial (s : State) (k : Nat) : Nat := (dmapGet 0 s.ctrSerials k + 1 + (Config.freeWord s.free).toNat % 255) % 256

/-- ACINIT for its warp (R279). -/
def perfAcinit (f : RForm) (s : State) (o : Op) (l : Nat) : State × Perf :=
  let r := opRec o l
  let ctx := (s.warp o.w).ctx
  let n := (r.a.truncate 32 : Word).toNat
  match s.granuleOf o.w l r.hm r.b.toNat with
  | .error (c, a) => (s, .trap c 0 (BitVec.ofNat 64 a))
  | .ok (cid, g) =>
    if n = 0 || 2 ^ 24 < n then (s, .trap .arr 1 0)
    else match s.freeCounter (cidStack (warpCid o.w)) with
      | none => (s, .trap .arr 2 0)
      | some k =>
        let ser := s.freshSerial k
        let ex := f.sub.getLsbD 0
        let c : Counter :=
          { ctx := ctx, serial := ser, count := 0, target := n, round := 0, cid := cid, granule := g, addr := r.b, wg := (s.warp o.w).wg, exit := ex,
            auto := f.sub.getLsbD 1, complete := false, enrolled := if ex then s.wgLanes (s.warp o.w).wg else [], arrived := [] }
        let d := s.handleOf k ser
        ({ s with free := s.free + 1, counters := nmapSet s.counters k c, ctrSerials := dmapSet 0 s.ctrSerials k ser },
          .done ((lanesOf o.lanes).flatMap (fun j => dstWords r.hm f.dst j [d])))

def opAcinit (f : RForm) : LongOp :=
  { slots := fun s c => { slotsR f .n32 .n64 .b32 s c with addr := s.src c .n64 f.sb }
    pend := fun s c => pendOf (s.inHandler c.w c.l) f.dst c.l 1
    once := true, ord := { mem := true }, span := fun _ _ => (5, 0, 0), perf := perfAcinit f }

/-- ACINIT (R279). -/
def execAcinit (h : Hdr) (f : RForm) (s : State) : Out := .next (issueLong (.acinit h f) h (opAcinit f) s)

/-- One arrival at a counter by a lane (R280): the count it makes, and at the target the granule and the round. -/
def State.arriveAt (s : State) (k : Nat) (c : Counter) (lane : Nat) : State × Nat :=
  let n := c.count + 1
  let c1 := { c with count := n, arrived := if c.enrolled.contains lane then lane :: c.arrived else c.arrived }
  if n = c.target then
    let s1 := s.fillGranule c.ctx c.cid c.granule (bytesOf 16 (c.round % 2 ^ 32))
    let c2 := if c.auto then { c1 with count := 0, round := c.round + 1, arrived := [] } else { c1 with complete := true }
    ({ s1 with counters := nmapSet s1.counters k c2 }, n)
  else ({ s with counters := nmapSet s.counters k c1 }, n)

/-- One lane's part of ARRIVE (R256, R280). -/
def perfArrive (f : RForm) (s : State) (o : Op) (l : Nat) : State × Perf :=
  let r := opRec o l
  match s.counterOf (s.warp o.w).ctx (r.a.truncate 32) with
  | none => (s, .trap .arr 4 0)
  | some (k, c) =>
    if c.complete && !c.auto then (s, .trap .arr 3 0)
    else if s.releaseHeld (warpCid o.w) (scopeOfCode (subBits f 7 5)) then (s, .wait .release 0)
    else
      let s1 := s.releaseAt (warpCid o.w) (scopeOfCode (subBits f 7 5))
      let (s2, n) := s1.arriveAt k c (laneKey o.w l)
      (s2, .done (dstWords r.hm f.dst l [BitVec.ofNat 32 n]))

def opArrive (f : RForm) : LongOp :=
  { slots := slotsR f .b32 .b32 .b32, pend := fun s c => pendOf (s.inHandler c.w c.l) f.dst c.l 1
    ord := { mem := true, wr := true, rel := true }, span := fun _ _ => (6, 0, 1), perf := perfArrive f }

/-- ARRIVE (R280). -/
def execArrive (h : Hdr) (f : RForm) (s : State) : Out := .next (issueLong (.arrive h f) h (opArrive f) s)

/-- The counters at which an exiting lane arrives (R281): those with .exit that have it enrolled, as a lane of the workgroup that created the
counter, and not arrived in their round. -/
def State.autoDue (s : State) (w l : Nat) : NMap Counter :=
  s.counters.filter (fun e => e.2.exit && e.2.wg = (s.warp w).wg && e.2.ctx = (s.warp w).ctx && e.2.enrolled.contains (laneKey w l)
    && !e.2.arrived.contains (laneKey w l) && !(e.2.complete && !e.2.auto))

/-- The automatic arrival of an exiting lane (R281), after a release at card scope. -/
def State.autoArrive (s : State) (w l : Nat) : State :=
  let key := laneKey w l
  let due := s.autoDue w l
  if due.isEmpty then s
  else due.foldl (fun (t : State) e =>
    match nmapFind t.counters e.1 with | some c => (t.arriveAt e.1 c key).1 | none => t) (s.releaseAt (warpCid w) .card)

/-- ACFREE for its warp (R282). -/
def perfAcfree (_ : RForm) (s : State) (o : Op) (l : Nat) : State × Perf :=
  match s.counterOf (s.warp o.w).ctx ((opRec o l).a.truncate 32) with
  | none => (s, .trap .arr 4 0)
  | some (k, _) => ({ s with counters := nmapErase s.counters k }, .done [])

def opAcfree (f : RForm) : LongOp := { slots := slotsR f .b32 .b32 .b32, once := true, perf := perfAcfree f }

/-- ACFREE (R282). -/
def execAcfree (h : Hdr) (f : RForm) (s : State) : Out := .next (issueLong (.acfree h f) h (opAcfree f) s)

/-! ## Neighbour links -/

/-- The neighbour of a core in a direction: 0 north, 1 east, 2 south, 3 west (R16). -/
def neighbour (cid dir : Nat) : Option Nat :=
  let c := cidCore cid
  let base := cid - c
  match dir with
  | 0 => if 8 ≤ c then some (base + c - 8) else none
  | 1 => if c % 8 < 7 then some (base + c + 1) else none
  | 2 => if c < 40 then some (base + c + 8) else none
  | _ => if 0 < c % 8 then some (base + c - 1) else none

/-- The opposite direction. -/
def oppositeDir (dir : Nat) : Nat := (dir + 2) % 4

/-- Whether a workgroup holds a core. -/
def Wg.holds (g : Wg) (cid : Nat) : Bool := g.cores.any (fun c => c.cid = cid)

/-- PROT of a link that is not usable (R302). -/
def linkCause (f : RForm) (s : State) (c : Rd) : Option (Cause × Nat × BitVec 64) :=
  match neighbour (warpCid c.w) (subBits f 1 0) with
  | some n => if (s.wgOf c.w).holds n then none else some (.prot, 0, 0)
  | none => some (.prot, 0, 0)

/-- The receive queue of a link at a core and direction, and what is on its way to it: each entry with the workgroup of its gang. -/
def State.linkQ (s : State) (k : Nat) : List LinkEntry := dmapGet [] s.cores.links k

def State.flightQ (s : State) (k : Nat) : List LinkEntry := dmapGet [] s.cores.flight k

/-- The end of a link that an instruction uses: whether it sends, and the direction (R302). -/
def linkUse (i : Instr) : Option (Bool × Nat) :=
  match i with
  | .nnsend _ f => some (true, subBits f 1 0)
  | .nnrecv _ f => some (false, subBits f 1 0)
  | _ => none

/-- Whether an earlier instruction of the workgroup still waits at the same end of the same link of the core (R303): it goes first. -/
def State.linkAhead (s : State) (o : Op) : Bool :=
  s.ops.any (fun e => decide (e.2.seq < o.seq) && warpCid e.2.w = warpCid o.w && (s.warp e.2.w).wg = (s.warp o.w).wg
    && decide (e.2.todo ≠ 0) && decide (linkUse e.2.instr = linkUse o.instr))

/-- NNSEND for its warp (R21, R302, R303). DEDUCED (log entry 92): the 32 entries are those of the queue and of the link that leads to it, whichever
gang they belong to. -/
def perfNnsend (f : RForm) (s : State) (o : Op) (_ : Nat) : State × Perf :=
  let dir := subBits f 1 0
  match neighbour (warpCid o.w) dir with
  | none => (s, .trap .prot 0 0)
  | some n =>
    let k := n * 4 + oppositeDir dir
    if s.linkAhead o || decide (32 ≤ (s.linkQ k ++ s.flightQ k).length) then (s, .wait .linkFull dir)
    else
      let e : LinkEntry :=
        { wg := (s.warp o.w).wg, bad := false, words := (List.range 32).map (fun l => if o.lanes.getLsbD l then ((opRec o l).a.truncate 32 : Word) else 0) }
      ({ s with cores := { s.cores with flight := dmapSet [] s.cores.flight k (s.flightQ k ++ [e]) } }, .done [])

def opNnsend (f : RForm) : LongOp := { cause := linkCause f, slots := slotsR f .b32 .b32 .b32, once := true, perf := perfNnsend f }

/-- NNSEND (R302). -/
def execNnsend (h : Hdr) (f : RForm) (s : State) : Out := .next (issueLong (.nnsend h f) h (opNnsend f) s)

/-- NNRECV for its warp (R302, R303): the oldest entry of its gang's. -/
def perfNnrecv (f : RForm) (s : State) (o : Op) (l : Nat) : State × Perf :=
  let k := warpCid o.w * 4 + subBits f 1 0
  let q := s.linkQ k
  let n := (q.takeWhile (fun e => e.wg ≠ (s.warp o.w).wg)).length
  match (if s.linkAhead o then none else q[n]?) with
  | none => (s, .wait .linkEmpty (subBits f 1 0))
  | some e =>
    if e.bad then (s, .trap .poison 12 0)
    else
    ({ s with cores := { s.cores with links := dmapSet [] s.cores.links k (q.eraseIdx n) } },
      .done ((lanesOf o.lanes).flatMap (fun j => dstWords (opRec o l).hm f.dst j [(e.words[j]?).getD 0])))

def opNnrecv (f : RForm) : LongOp :=
  { cause := linkCause f, slots := slotsR f .b32 .b32 .b32, pend := fun s c => pendOf (s.inHandler c.w c.l) f.dst c.l 1
    once := true, perf := perfNnrecv f }

/-- NNRECV (R302). -/
def execNnrecv (h : Hdr) (f : RForm) (s : State) : Out := .next (issueLong (.nnrecv h f) h (opNnrecv f) s)

/-- An entry arrives in a core's receive queue for a direction, in the order sent (R21, R303, R369). -/
def execNeighbourEntryArrival (cid dir : Nat) (s : State) : Out :=
  let k := cid * 4 + dir
  .next (match s.flightQ k with
    | [] => s
    | e :: rest =>
      { s with cores := { s.cores with flight := dmapSet [] s.cores.flight k rest,
                                       links := dmapSet [] s.cores.links k (s.linkQ k ++ [e]) } }.wakeCore cid)

end Sys2Proof.Machine
end

