-- ==== Sys2Proof/Machine/GroupOps.lean ====
section
/-! DEFINITION. Multicast groups (R283 to R288). -/

namespace Sys2Proof.Machine

/-- The key of a group identifier of a context (R283). -/
def groupKey (ctx gid : Nat) : Nat := ctx * 256 + gid

/-- A group is complete once N members have joined (R283). -/
def McGroup.complete (g : McGroup) : Bool := decide (g.n ≤ g.members.length)

/-- The live members of a group. -/
def McGroup.live (g : McGroup) : List McMember := g.members.filter (·.live)

/-- The live member that a workgroup's part on a core is. -/
def McGroup.memberOf (g : McGroup) (wg cid : Nat) : Option McMember := g.live.find? (fun m => m.wg = wg && m.cid = cid)

def McGroup.rank (g : McGroup) (r : Nat) : Option McMember := g.members.find? (fun m => m.rank = r)

/-- Whether a fill of a group identifier is still in flight or held (R284, R287). -/
def State.fillsLeft (s : State) (ctx gid : Nat) : Bool :=
  s.holds.any (fun e => e.2.ctx = ctx && e.2.gid = gid && !e.2.held.isEmpty)

/-! ## Hold records -/

/-- The scratch granule of a member that receives part k of a line (R285). -/
def memberGranule (c : WgCore) (g : McGroup) (ofs k : Nat) : Nat := (256 * c.sbase + g.base + ofs) / 16 + k

/-- The part of a workgroup on a core. -/
def State.memberCore (s : State) (m : McMember) : WgCore :=
  match nmapFind s.wgs m.wg with
  | some g => (g.cores.find? (fun c => c.cid = m.cid)).getD WgCore.empty
  | none => WgCore.empty

/-- Whether every live member has asked (R286). -/
def allAsked (g : McGroup) (r : HoldRec) : Bool := g.live.all (fun m => r.asks.contains m.rank)

/-- The line read once, and its fill sent to every live member (R257, R286). -/
def State.readHold (s : State) (g : McGroup) (r : HoldRec) : HoldRec :=
  let host : Bool := decide (2 ^ 60 ≤ r.pa)
  let bs := if host then s.readHost (r.pa - 2 ^ 60) 128 else s.readHome r.pa 128
  let bad := if host then [] else (List.range 8).filter (fun k => (s.homePoison (r.pa + 16 * k) 16).isSome)
  { r with fill := some bs, bad := bad, timer := none,
           held := g.live.flatMap (fun m => (List.range 8).map (fun k => (m.rank, k))) }

/-- Whether a part of a fill can land or is dropped: its granule is empty, its member has left, or its generation is over (R286). -/
def State.partReady (s : State) (r : HoldRec) (p : Nat × Nat) : Bool :=
  match nmapFind s.groups (groupKey r.ctx r.gid) with
  | none => true
  | some g =>
    if g.gen ≠ r.gen then true
    else match g.rank p.1 with
      | none => true
      | some m => !m.live || !s.feFull m.cid (16 * memberGranule (s.memberCore m) g r.ofs p.2)

/-- A stale fill counted at a stack (R286, R428). -/
def State.countStale (s : State) (stack : Nat) : State :=
  let r := (nmapFind s.stackRegs stack).getD StackRegs.reset
  { s with stackRegs := nmapSet s.stackRegs stack { r with mcstale := satInc r.mcstale } }

/-- One part of a fill lands: bytes and full bit, poison with the data (R286, R429); at a member that has left it is dropped, at one
of another generation or at a granule of another owner (R404) dropped and counted. -/
def State.landPart (s : State) (r : HoldRec) (p : Nat × Nat) : State :=
  match nmapFind s.groups (groupKey r.ctx r.gid) with
  | none => s
  | some g =>
    if g.gen ≠ r.gen then s.countStale g.anchor
    else match g.rank p.1 with
      | none => s
      | some m =>
        if !m.live then s
        else
          let gr := memberGranule (s.memberCore m) g r.ofs p.2
          let s1 := s.fillGranule r.ctx m.cid gr (((r.fill.getD []).drop (16 * p.2)).take 16)
          if r.bad.contains p.2 && s.granuleOwned r.ctx m.cid gr then
            { s1 with mem := { s1.mem with poison := nmapSet s1.mem.poison (poisonKey 2 (m.cid * 2 ^ 16 + gr)) () } }
          else s1

/-- The parts of a fill that can land do (R286). -/
def State.landReady (s : State) (id : Nat) : State :=
  match nmapFind s.holds id with
  | none => s
  | some r =>
    let now := r.held.filter (s.partReady r)
    let s1 := now.foldl (fun (t : State) p => t.landPart r p) s
    { s1 with holds := nmapModify s1.holds id (fun q => { q with held := q.held.filter (fun p => !now.contains p) }) }

/-- Whether a record's line is to be read (R286): its group is complete, and every live member has asked or the timer has run out; `now` says
that it has. -/
def holdDue (now : Bool) (g : McGroup) (r : HoldRec) : Bool :=
  r.fill.isNone && !r.waiting && g.complete && !g.live.isEmpty && !r.asks.isEmpty && (now || allAsked g r || r.timer = some 0)

/-- A record with nothing left for it to do (R286, R287). -/
def holdOver (g : McGroup) (r : HoldRec) : Bool :=
  (g.live.isEmpty && r.held.isEmpty) || (r.fill.isSome && r.held.isEmpty && allAsked g r)

/-- A hold record looked at again (R286, R287): its line is read when that is due and delivered at once to every granule that is empty; the
record goes when nothing is left for it to do. A read of a line that a job owns waits for it, as a plain read at the slice does (R250, R257). -/
def State.examine (s : State) (now : Bool) (id : Nat) : State :=
  match nmapFind s.holds id with
  | none => s
  | some r =>
    match nmapFind s.groups (groupKey r.ctx r.gid) with
    | none => s
    | some g =>
      let put (q : HoldRec) : State := { s with holds := nmapSet s.holds id q }
      let s1 :=
        if !holdDue now g r then s
        else if r.pa < 2 ^ 60 && s.ownedByJob r.pa 128 then put { r with timer := some 0 }
        else (put (s.readHold g r)).landReady id
      match nmapFind s1.holds id with
      | none => s1
      | some q => if holdOver g q then { s1 with holds := nmapErase s1.holds id } else s1

/-- An ask recorded (R286): the rank, and the timer from the first ask after completion. -/
def askRec (g : McGroup) (r : HoldRec) (rank : Nat) : HoldRec :=
  { r with asks := if r.asks.contains rank then r.asks else r.asks ++ [rank],
           timer := if g.complete && r.timer.isNone && r.fill.isNone && !r.waiting then some g.hold else r.timer }

/-- Whether a slice has a free record (R286): it holds 64. -/
def State.recordFree (s : State) (slice : Nat) : Bool :=
  decide ((s.holds.filter (fun e => e.2.slice = slice && !e.2.waiting)).length < 64)

/-- Asks that waited at their slice get a free record (R285, R286). -/
def State.openRecord (s : State) (id : Nat) : State :=
  match nmapFind s.holds id with
  | none => s
  | some r =>
    if r.waiting && s.recordFree r.slice then
      let timer := match nmapFind s.groups (groupKey r.ctx r.gid) with
        | some g => if g.complete then some g.hold else none
        | none => none
      { s with holds := nmapSet s.holds id { r with waiting := false, timer := timer } }.examine false id
    else s

/-- The hold record of a key (R285, R286). -/
def State.holdOf (s : State) (ctx gid gen ea : Nat) : Option (Nat × HoldRec) :=
  s.holds.find? (fun e => e.2.ctx = ctx && e.2.gid = gid && e.2.gen = gen && e.2.ea = ea)

/-- An ask reaches its home slice (R285, R286): it joins the record of its key or makes one. While the slice holds 64 records an ask that needs
one waits there: the LDMC with it, unless its granules are `full`, when it completes at once all the same. -/
def State.ask (s : State) (ctx gid : Nat) (g : McGroup) (rank ea ofs pa : Nat) (full : Bool) : Option State :=
  match s.holdOf ctx gid g.gen ea with
  | some (id, r) =>
    if r.waiting && !full then none
    else some ({ s with holds := nmapSet s.holds id (askRec g r rank) }.examine false id)
  | none =>
    let slice := g.anchor * 48 + pa % 2 ^ 52 / 128 % 48
    let room := s.recordFree slice
    if !room && !full then none
    else
      let id := s.serial + 1
      let r : HoldRec :=
        { ctx := ctx, gid := gid, gen := g.gen, ea := ea, pa := pa, ofs := ofs, slice := slice, asks := [], timer := none, fill := none,
          bad := [], held := [], waiting := !room, count := [] }
      some ({ s with serial := id, holds := nmapSet s.holds id (askRec g r rank) }.examine false id)

/-! ## LDMC -/

/-- The causes of LDMC judged from the address (R285). -/
def ldmcCause (f : MForm) (s : State) (c : Rd) : Option (Cause × Nat × BitVec 64) :=
  let ea := (memEa f s c).1
  if ea % 128 ≠ 0 then some (.align, 0, BitVec.ofNat 64 ea)
  else if f.space = .generic && genericPriv ea then some (.prot, 0, BitVec.ofNat 64 ea)
  else match memPlace f false s c with
    | .here (.virt _) => none
    | _ => some (.prot, 0, BitVec.ofNat 64 ea)

/-- One lane's part of LDMC (R285, R286). The part of the member's slot whose eight granules are full completes at once. What the asking core's
lanes have written of the line goes home first, so that the fill is no older (R246, R257). -/
def perfLdmc (f : MForm) (s : State) (o : Op) (l : Nat) : State × Perf :=
  let r := opRec o l
  let x := s.warp o.w
  let cid := warpCid o.w
  let ctl := r.data % 2 ^ 32
  let gid := ctl % 256
  let ofs := ctl / 256
  let ea := r.addr.toNat
  match nmapFind s.groups (groupKey x.ctx gid) with
  | none => (s, .trap .mcg 5 0)
  | some g =>
    match g.memberOf x.wg cid with
    | none => (s, .trap .mcg 5 0)
    | some m =>
      if g.slot * 128 ≤ ofs || ofs % 128 ≠ 0 then (s, .trap .mcg 6 0)
      else match s.place o.w r f.space ea false with
        | .here (.virt va) =>
          if (match s.holdOf x.ctx gid g.gen va with | some (_, q) => decide (q.ofs ≠ ofs) | none => false) then (s, .trap .mcg 7 0)
          else
            let full := (List.range 8).all (fun k => s.feFull cid (16 * memberGranule (s.wgCoreOf o.w) g ofs k))
            let go (t : State) (pa : Nat) : State × Perf :=
              let home : Bool := decide (pa < 2 ^ 60) && !full
              if home && t.dirtyOwned cid pa (pa + 128) then (t, .wait .release 0)
              else
                match (if home then t.writeBackRange cid pa (pa + 128) else t).ask x.ctx gid g m.rank va ofs pa full with
                | some t1 => (t1, .done [])
                | none => (t, .wait .holdRecord (gid + 256 * g.gen))
            match s.translateAt cid x.ctx va .read with
            | (s1, .to true a) => go s1 (2 ^ 60 + a)
            | (s1, .to false a) =>
              if !s1.reachable (a / 2 ^ 50) || s1.paKind a = .reserved then (s1, .trap .prot 0 r.addr)
              else if s1.secBreach x.ctx a then (s1, .trap .secv 0 0)
              else go s1 a
            | (s1, .fault kind level e) => (s1, .park va kind level e)
            | (s1, .secv) => (s1, .trap .secv 0 0)
            | (s1, .poison cls) => (s1, .trap .poison cls (poisonVa va))
        | _ => (s, .trap .prot 0 r.addr)

def opLdmc (f : MForm) : LongOp :=
  { cause := ldmcCause f
    slots := fun s c => { slotsM f false s c with data := (s.src c .b32 f.dst).toNat }
    ord := { mem := true }, span := fun s c => placeSpan (memPlace f false s c) 128
    perf := perfLdmc f }

/-- LDMC (R285). -/
def execLdmc (h : Hdr) (f : MForm) (s : State) : Out := .next (issueLong (.ldmc h f) h (opLdmc f) s)

/-! ## MCJOIN and MCLEAVE -/

/-- MCJOIN for its warp (R284). -/
def perfMcjoin (f : RForm) (s : State) (o : Op) (l : Nat) : State × Perf :=
  let r := opRec o l
  let x := s.warp o.w
  let cid := warpCid o.w
  let a := (r.a.truncate 32 : Word).toNat
  let b := (r.b.truncate 32 : Word).toNat
  let c := (r.c.truncate 32 : Word).toNat
  let gid := a % 256
  let n := a / 2 ^ 8 % 256 + 1
  let rank := a / 2 ^ 16 % 256
  let base := b % 2 ^ 20
  let slot := b / 2 ^ 20
  let wc := s.wgCoreOf o.w
  let key := groupKey x.ctx gid
  let done (t : State) (gen : Nat) : State × Perf :=
    (t, .done ((lanesOf o.lanes).flatMap (fun j => dstWords r.hm f.dst j [BitVec.ofNat 32 gen])))
  let put (t : State) (g : McGroup) : State := { t with groups := nmapSet t.groups key g }
  let me : McMember := { rank := rank, wg := x.wg, cid := cid, live := true }
  if base % 128 ≠ 0 then (s, .trap .align 0 (BitVec.ofNat 64 base))
  else if 256 * wc.ssize ≤ base || 256 * wc.ssize < base + 128 * slot then
    (s, .trap .spad 0 (BitVec.ofNat 64 (max base (256 * wc.ssize))))
  else if 2 ^ 24 ≤ a || 2 ^ 16 ≤ c || slot = 0 || n ≤ rank then (s, .trap .mcg 1 0)
  else
    let fresh (t : State) : State × Perf :=
      let gen := match nmapFind t.gens key with | some k => (k + 1) % 16 | none => 0
      let g : McGroup :=
        { gen := gen, n := n, base := base, slot := slot, hold := c, anchor := cidStack cid, members := [me], spent := [] }
      done (put { t with gens := nmapSet t.gens key gen } g) gen
    match nmapFind s.groups key with
    | none => fresh s
    | some g =>
      if g.live.isEmpty then (if s.fillsLeft x.ctx gid then (s, .wait .drain (gid + 256 * g.gen)) else fresh s)
      else
        let same : Bool := g.n = n && g.base = base && g.slot = slot && g.hold = c
        match g.memberOf x.wg cid with
        | some m => if same && m.rank = rank then done s g.gen else (s, .trap .mcg 2 0)
        | none =>
          if g.complete then (s, .trap .mcg 4 0)
          else if !same then (s, .trap .mcg 2 0)
          else if (g.rank rank).isSome then (s, .trap .mcg 3 0)
          else done (put s { g with members := g.members ++ [me] }) g.gen

def opMcjoin (f : RForm) : LongOp :=
  { slots := slotsR f .b32 .b32 .b32, pend := fun s c => pendOf (s.inHandler c.w c.l) f.dst c.l 1, once := true, perf := perfMcjoin f }

/-- MCJOIN (R284). -/
def execMcjoin (h : Hdr) (f : RForm) (s : State) : Out := .next (issueLong (.mcjoin h f) h (opMcjoin f) s)

/-- The hold records of a group identifier. -/
def State.holdIds (s : State) (ctx gid : Nat) : List Nat :=
  (s.holds.filter (fun e => e.2.ctx = ctx && e.2.gid = gid)).map (·.1)

/-- Parts waiting for full granules of a member taken out of a record (R287): those in flight stay. -/
def State.dropWaiting (s : State) (g : McGroup) (m : McMember) (r : HoldRec) : HoldRec :=
  { r with held := r.held.filter (fun p => !(p.1 = m.rank &&
      s.feFull m.cid (16 * memberGranule (s.memberCore m) g r.ofs p.2))) }

/-- A member leaves its group (R287): its waiting fills go, and every record of the group is looked at again. -/
def State.leaveGroup (s : State) (ctx gid wg cid : Nat) : State :=
  let key := groupKey ctx gid
  match nmapFind s.groups key with
  | none => s
  | some g =>
    match g.memberOf wg cid with
    | none => s
    | some m =>
      let g1 := { g with members := g.members.map (fun q => if q.rank = m.rank then { q with live := false } else q) }
      let s1 := { s with
        groups := nmapSet s.groups key g1
        holds := s.holds.map (fun (e : Nat × HoldRec) =>
          if e.2.ctx = ctx && e.2.gid = gid && e.2.gen = g.gen then (e.1, s.dropWaiting g m e.2) else e) }
      (s1.holdIds ctx gid).foldl (fun (t : State) id => t.examine false id) s1

/-- A workgroup's part on a core leaves every group of its context (R287). -/
def State.leaveAll (s : State) (ctx wg cid : Nat) : State :=
  (s.groups.filter (fun e => e.1 / 256 = ctx && (e.2.memberOf wg cid).isSome)).foldl
    (fun (t : State) e => t.leaveGroup ctx (e.1 % 256) wg cid) s

/-- MCLEAVE for its warp (R287). -/
def perfMcleave (_ : RForm) (s : State) (o : Op) (l : Nat) : State × Perf :=
  let x := s.warp o.w
  let gid := ((opRec o l).a.truncate 32 : Word).toNat % 256
  let cid := warpCid o.w
  match nmapFind s.groups (groupKey x.ctx gid) with
  | none => (s, .trap .mcg 5 0)
  | some g => if (g.memberOf x.wg cid).isSome then (s.leaveGroup x.ctx gid x.wg cid, .done []) else (s, .trap .mcg 5 0)

def opMcleave (f : RForm) : LongOp := { slots := slotsR f .n32 .b32 .b32, once := true, perf := perfMcleave f }

/-- MCLEAVE (R287). -/
def execMcleave (h : Hdr) (f : RForm) (s : State) : Out := .next (issueLong (.mcleave h f) h (opMcleave f) s)

/-! ## What the slices do by themselves -/

/-- The hold timer of a record runs out and its line is read (R286). -/
def execHoldTimerExpiry (id : Nat) (s : State) : Out :=
  .next (match nmapFind s.holds id with
    | some r => if r.timer.isSome then s.examine true id else s
    | none => s)

/-- The parts of a fill that can land do (R286); asks that waited at the slice get a record that has become free. -/
def execMulticastHeldPartLand (id : Nat) (s : State) : Out := .next (((s.landReady id).examine false id).openRecord id)

end Sys2Proof.Machine
end

