-- ==== Sys2Proof/Machine/Cdc.lean ====
section
/-! DEFINITION. Colour-delta compression of 8 × 8 tiles of RGBA8 (R213 to R217). -/

namespace Sys2Proof.Machine

/-- The sectors of a delta tile of width w (R214). -/
def deltaSectors (w : Nat) : Nat := (4 + (63 * w + 1) / 2 + 31) / 32

/-- Byte k of a list of bytes, 0 beyond it. -/
def byteAt (bs : List Byte) (k : Nat) : Byte := (bs[k]?).getD 0

/-- A w-bit field of a little-endian bit stream, as a two's complement number (R214). -/
def deltaField (bs : List Byte) (w k : Nat) : Int :=
  let x := ofBytes (bs.drop 4) / 2 ^ (w * k) % 2 ^ w
  if w ≠ 0 ∧ 2 ^ (w - 1) ≤ x then (x : Int) - 2 ^ w else x

/-- Where a pixel's delta is taken from (R214): the left neighbour, or the pixel above for x = 0. -/
def deltaFrom (p : Nat) : Nat := if p % 8 = 0 then p - 8 else p - 1

/-- The raw bytes of a delta tile, decoded pixel by pixel (R214). -/
def deltaDecode (bs : List Byte) (w n : Nat) : List Byte :=
  match n with
  | 0 => []
  | 1 => bs.take 4
  | p + 1 =>
    let r := deltaDecode bs w p
    r ++ (List.range 4).map (fun c =>
      BitVec.ofInt 8 (((byteAt r (4 * deltaFrom p + c)).toNat : Int) + deltaField bs w (4 * (p - 1) + c)))

/-- The bytes of a tile's sectors that its metadata byte says are in use; none for a fast-clear tile or a byte that R213 and R214 do not
allow. -/
def cdcBytes (mb : Nat) : Nat :=
  let nsec := mb / 8 % 8
  let dw := mb % 8
  if (mb / 64 = 0 ∧ nsec = 7 ∧ dw = 0) ∨ (mb / 64 = 2 ∧ dw ≤ 6 ∧ nsec + 1 = deltaSectors dw) then 32 * (nsec + 1) else 0

/-- The 256 raw bytes of a tile from its metadata byte and its sectors (R213, R214, R216); `clear` is the clear pixel. That raw and fast-clear
metadata with DW 1 to 6 reads zeros too, as R216 says of other metadata that R213 does not allow, is DEDUCED (log entry 79). -/
def cdcDecode (mb : Nat) (bs : List Byte) (clear : Nat) : List Byte :=
  let kind := mb / 64
  let nsec := mb / 8 % 8
  let dw := mb % 8
  if kind = 1 ∧ nsec = 0 ∧ dw = 0 then (List.replicate 64 (bytesOf 4 clear)).flatten
  else if kind = 0 ∧ nsec = 7 ∧ dw = 0 then bs.take 256
  else if kind = 2 ∧ dw ≤ 6 ∧ nsec + 1 = deltaSectors dw then deltaDecode bs dw 64
  else List.replicate 256 0

/-- The deltas of a raw tile in stream order (R214). -/
def cdcDeltas (raw : List Byte) : List Int :=
  ((List.range 64).drop 1).flatMap (fun p => (List.range 4).map (fun c =>
    (byteAt raw (4 * p + c) - byteAt raw (4 * deltaFrom p + c)).toInt))

/-- The least width that holds every delta, 0 when all are 0 (R215). -/
def cdcWidth (ds : List Int) : Nat :=
  ((List.range 9).find? (fun w =>
    if w = 0 then ds.all (· = 0) else ds.all (fun d => decide (-(2 ^ (w - 1)) ≤ d ∧ d ≤ 2 ^ (w - 1) - 1)))).getD 9

/-- A tile compressed (R215): its metadata byte and the bytes of the sectors used. -/
def cdcEncode (raw : List Byte) (clear : Nat) : Nat × List Byte :=
  if raw = (List.replicate 64 (bytesOf 4 clear)).flatten then (0x40, [])
  else
    let ds := cdcDeltas raw
    let w := cdcWidth ds
    if w ≤ 6 then
      let x := ds.foldr (fun d a => (BitVec.ofInt 8 d).toNat % 2 ^ w + 2 ^ w * a) 0
      let n := deltaSectors w
      (0x80 + 8 * (n - 1) + w, raw.take 4 ++ bytesOf (32 * n - 4) x)
    else (0x38, raw)

end Sys2Proof.Machine
end

