-- ==== Sys2Proof/Machine/Tensor.lean ====
section
/-! DEFINITION. Tensor layout records and packed-tile stores as data (R292, R293, R299). -/

namespace Sys2Proof.Machine

/-- A tensor layout record (R292). -/
structure Layout where
  base : Nat
  ty : Ty
  rank : Nat
  sp : Space
  swz : Nat
  fill : Nat
  fillv : Nat
  ext : List Nat
  stride : List Nat
  box : List Nat
  deriving DecidableEq, Repr

/-- The address spaces of R49 by code. -/
def spaceOfCode (k : Nat) : Option Space :=
  match k with
  | 0 => some .generic | 1 => some .global | 2 => some .scratch | 3 => some .window | 4 => some .constant | 5 => some .transient
  | 6 => some .priv | _ => none

/-- Bits [lo + w − 1 : lo] of a number. -/
def bitsAt (x lo w : Nat) : Nat := x / 2 ^ lo % 2 ^ w

/-- Entry k of a list of four, 0 beyond it. -/
def nth4 (xs : List Nat) (k : Nat) : Nat := (xs[k]?).getD 0

/-- A record read from its 64 bytes; none when it is not valid (R292). -/
def layoutOf (x : Nat) : Option Layout :=
  match tyOfCode (bitsAt x 64 5), spaceOfCode (bitsAt x 72 3) with
  | some t, some sp =>
    let rank := bitsAt x 69 3
    let swz := bitsAt x 75 3
    let base := bitsAt x 0 64
    let ext := (List.range 4).map (fun k => bitsAt x (128 + 32 * k) 32)
    let box := (List.range 4).map (fun k => bitsAt x (448 + 16 * k) 16)
    let ok : Bool :=
      !(([Ty.f16x2, .bf16x2, .i8x4, .n8x4]).contains t) && decide (1 ≤ rank) && decide (rank ≤ 4) && decide (swz ≤ 3)
        && bitsAt x 80 16 = 0
        && (if swz = 0 then base % max 1 (if isYk t then 1 else elemBits t / 8) = 0 else base % 1024 = 0)
        && (List.range 4).all (fun k =>
          if k < rank then decide (1 ≤ nth4 ext k) && decide (1 ≤ nth4 box k) else nth4 ext k = 1 && nth4 box k = 1)
    if ok then
      some { base := base, ty := t, rank := rank, sp := sp, swz := swz, fill := bitsAt x 78 2, fillv := bitsAt x 96 32, ext := ext,
             stride := (List.range 3).map (fun k => bitsAt x (256 + 64 * k) 64), box := box }
    else none
  | _, _ => none

/-- Coordinate k of four. -/
def crd (cs : List Int) (k : Nat) : Int := (cs[k]?).getD 0

/-- Whether a coordinate is in bounds (R293). -/
def Layout.inBounds (r : Layout) (c : List Int) : Bool :=
  (List.range r.rank).all (fun k => decide (0 ≤ crd c k ∧ crd c k < nth4 r.ext k))

/-- A coordinate clamped to the extents (R293). -/
def Layout.clamp (r : Layout) (c : List Int) : List Int :=
  (List.range 4).map (fun k => if k < r.rank then max 0 (min (crd c k) ((nth4 r.ext k : Nat) - 1 : Int)) else crd c k)

/-- The byte offset of the dim-0 row of a coordinate in bounds, as a 64-bit address counts it (R293). -/
def Layout.rowOfs (r : Layout) (c : List Int) : Nat :=
  ((List.range 3).foldl (fun (a : Int) k => a + crd c (k + 1) * (nth4 r.stride k : Nat)) 0 % 2 ^ 64).toNat

/-- A byte offset as an address, with the swizzle (R293). -/
def Layout.addr (r : Layout) (o : Nat) : Nat :=
  let f := o / 16 % 2 ^ r.swz
  let g := o / 128 % 2 ^ r.swz
  let o' := if r.swz = 0 then o else o - f * 16 + (f ^^^ g) * 16
  (r.base + o') % 2 ^ 64

/-- The bit of the row at which an element that is no YK element starts, and its width. -/
def Layout.bitOfs (r : Layout) (c : List Int) : Nat := elemBits r.ty * (crd c 0).toNat

/-- The addresses of the bytes that hold an element, its first bit in them, and its width (R293). -/
def Layout.elemAt (r : Layout) (c : List Int) : List Nat × Nat × Nat :=
  let w := elemBits r.ty
  let b := r.bitOfs c
  let o := r.rowOfs c
  ((List.range ((b % 8 + w + 7) / 8)).map (fun k => r.addr (o + b / 8 + k)), b % 8, w)

/-- The bytes of a YK block (R92). -/
def ykBytes (t : Ty) : Nat := 2 + 2 * (ykMb t + 1)

/-- The addresses of the bytes of the YK block that holds a coordinate (R293). -/
def Layout.ykAt (r : Layout) (c : List Int) : List Nat :=
  (List.range (ykBytes r.ty)).map (fun k => r.addr (r.rowOfs c + (crd c 0).toNat / 16 * ykBytes r.ty + k))

/-- The fill of an out-of-bounds read other than the clamp (R293). -/
def Layout.fillBits (r : Layout) : Nat :=
  match r.fill with
  | 1 => r.fillv % 2 ^ elemBits r.ty
  | 2 =>
    match r.ty with
    | .e8m0 => 0xFF
    | .f64 | .f32 | .f16 | .bf16 | .e4m3 | .e5m2 => ((ffmt r.ty).nan).getD 0
    | _ => 0
  | _ => 0

/-- An element of YK type in a block's bytes: its µ bit and its code (R92). -/
def ykElem (t : Ty) (bs : Nat) (k : Nat) : Nat × Nat :=
  (bitsAt bs (8 + k / 2) 1, bitsAt bs (16 + k * (ykMb t + 1)) (ykMb t + 1))

/-- A YK block's bytes from its scale, µ bits and element codes (R92). -/
def ykPack (t : Ty) (scale mu : Nat) (codes : List Nat) : List Byte :=
  bytesOf (ykBytes t) (scale + mu * 2 ^ 8 + (codes.foldr (fun x a => x + 2 ^ (ykMb t + 1) * a) 0) * 2 ^ 16)

/-! ## Packed-tile stores -/

/-- A packed-tile store record (R299). -/
structure PkRec where
  ok : Bool
  ntile : Nat
  tbase : Nat
  append : Nat
  dsize : Nat
  dbase : Nat
  deriving DecidableEq, Repr

def pkRec (x : Nat) : PkRec :=
  { ok := bitsAt x 84 12 = 0 && bitsAt x 52 12 = 0 && bitsAt x 20 12 = 0 && bitsAt x 116 12 ≠ 0, ntile := bitsAt x 116 12,
    tbase := bitsAt x 96 20, append := bitsAt x 64 20, dsize := bitsAt x 32 20, dbase := bitsAt x 0 20 }

/-- The bytes of a word that the 2:4 form keeps, and their positions (R135, R299). -/
def pkKeep (x : Word) : Nat × Nat :=
  let xs := (List.range 4).map (byteOf x.toNat)
  let ks := sparseKeep .n8 false xs
  let k0 := (ks[0]?).getD 0
  let k1 := (ks[1]?).getD 0
  (nth4 xs k0 + nth4 xs k1 * 2 ^ 8, k0 + k1 * 4)

/-- A tile of 32 words packed (R299): its FORM, its LEN in words, and its bytes. -/
def pkPack (ws : List Word) : Nat × Nat × List Byte :=
  let nz := (List.range 32).filter (fun l => (ws[l]?).getD 0 ≠ 0)
  let zr := 1 + nz.length
  let two : Bool := ws.all (fun x => decide (((List.range 4).filter (fun k => byteOf x.toNat k ≠ 0)).length ≤ 2))
  if zr ≤ 32 && (!two || zr ≤ 20) then
    (1, zr, bytesOf 4 (maskOf nz).toNat ++ (nz.map (fun l => bytesOf 4 ((ws[l]?).getD 0).toNat)).flatten)
  else if two then
    (2, 20, (ws.map (fun x => bytesOf 2 (pkKeep x).1)).flatten ++ bytesOf 16 (ws.foldr (fun x a => (pkKeep x).2 + 16 * a) 0))
  else (3, 32, (ws.map (fun x => bytesOf 4 x.toNat)).flatten)

/-- A word of the 2:4 form expanded, the later value written over the earlier (R96, R299). -/
def pkExpand (v i : Nat) : Word :=
  BitVec.ofNat 32 (putField (putField 0 8 (i % 4) (v % 256)) 8 (i / 4 % 4) (v / 256 % 256))

/-- The words of a tile from its FORM, its LEN and its data; none when LEN does not fit FORM (R301). -/
def pkUnpack (form len : Nat) (bs : List Byte) : Option (List Word) :=
  let x := ofBytes bs
  match form with
  | 1 =>
    let mask := BitVec.ofNat 32 (bitsAt x 0 32)
    if len ≠ 1 + popcountN 32 mask.toNat then none
    else some ((List.range 32).map (fun l =>
      if mask.getLsbD l then BitVec.ofNat 32 (bitsAt x (32 * (1 + popcountN 32 (mask.toNat % 2 ^ l))) 32) else 0))
  | 2 => if len ≠ 20 then none else some ((List.range 32).map (fun l => pkExpand (bitsAt x (16 * l) 16) (bitsAt x (512 + 4 * l) 4)))
  | 3 => if len ≠ 32 then none else some ((List.range 32).map (fun l => BitVec.ofNat 32 (bitsAt x (32 * l) 32)))
  | _ => none

end Sys2Proof.Machine
end

