-- ==== Sys2Proof/Machine/TensorOps.lean ====
section
/-! DEFINITION. Tensor element access and packed tiles by lanes (R298 to R301). -/

namespace Sys2Proof.Machine

/-! ## Accesses of several parts -/

/-- One part of an access: effective address, bytes, and the bytes written if it is a store. -/
structure Part where
  ea : Nat
  n : Nat
  w : Option (List Byte)
  deriving DecidableEq, Repr

/-- The first cause that a part's place gives (R264). -/
def State.partCause (s : State) (w : Nat) (r : LaneRec) (sp : Space) (p : Part) : Option (Cause × Nat × BitVec 64) :=
  placeCause (s.place w r sp p.ea p.w.isSome) p.ea p.n false

/-- Parts performed in order; the first that does not end with its bytes stops them (R264). -/
def State.runParts (s : State) (q : Who) (w : Nat) (r : LaneRec) (sp : Space) (ps : List Part) : State × Except Acc (List (List Byte)) :=
  match ps with
  | [] => (s, .ok [])
  | p :: t =>
    match s.place w r sp p.ea p.w.isSome with
    | .here g =>
      match s.access q g p.ea p.n p.w with
      | (s1, .ok bs) =>
        match State.runParts s1 q w r sp t with
        | (s2, .ok rest) => (s2, .ok (bs :: rest))
        | e => e
      | (s1, a) => (s1, .error a)
    | .prot => (s, .error (.trap .prot 0 (BitVec.ofNat 64 p.ea)))
    | .spad a => (s, .error (.trap .spad 0 (BitVec.ofNat 64 a)))

/-- Parts performed when none raises a cause; otherwise no access is performed (R264). -/
def State.tryParts (s : State) (q : Who) (w : Nat) (r : LaneRec) (sp : Space) (ps : List Part) : State × Except Acc (List (List Byte)) :=
  match ps.findSome? (s.partCause w r sp) with
  | some (c, sub, a) => (s, .error (.trap c sub a))
  | none =>
    match s.runParts q w r sp ps with
    | (_, .error a) => (s, .error a)
    | x => x

/-- The core and context of an outstanding instruction's accesses. -/
def State.whoOf (s : State) (o : Op) : Who := ⟨(s.warp o.w).ctx, warpCid o.w, false⟩

/-! ## TLD and TST -/

/-- The parts that read or write one element: whole bytes of an element of 8 bits or wider as one access, else byte by byte. -/
def elemParts (r : Layout) (c : List Int) (data : Option Nat) : List Part :=
  let (as, _, w) := r.elemAt c
  if 8 ≤ w then [⟨as.head?.getD 0, w / 8, data.map (bytesOf (w / 8))⟩]
  else as.zipIdx.map (fun e => ⟨e.1, 1, data.map (fun x => [BitVec.ofNat 8 (x / 2 ^ (8 * e.2))])⟩)

/-- The record that a lane reads (R298): the record, or why the lane stops. -/
def State.readLayout (s : State) (o : Op) (r : LaneRec) : State × Except Perf Layout :=
  match s.genericAddr o.w r.lane r.hm r.a.toNat with
  | .here _ =>
    match s.tryParts (s.whoOf o) o.w r .generic [⟨r.a.toNat, 64, none⟩] with
    | (s1, .ok bs) =>
      match layoutOf (ofBytes bs.flatten) with
      | none => (s1, .error (.trap .tile 1 0))
      | some y => if isYk y.ty || tyRegs y.ty = 2 then (s1, .error (.trap .tile 1 0)) else (s1, .ok y)
    | (s1, .error a) => (s1, .error a.perf)
  | .prot => (s, .error (.trap .prot 0 r.a))
  | .spad a => (s, .error (.trap .spad 0 (BitVec.ofNat 64 a)))

/-- The coordinates of the elements that a lane accesses (R298); from the record of its operands. -/
def tldCoord (r : LaneRec) (k : Nat) : List Int :=
  (List.range 4).map (fun j => (BitVec.ofNat 32 (bitsAt r.data (32 * j) 32)).toInt + (if j = 0 then (k : Int) else 0))

/-- An element's bits in a register (R73, R77, R298). -/
def tldWord (t : Ty) (x : Nat) : Word :=
  if [Ty.b32, .i8, .n8, .i16, .n16, .i32, .n32].contains t then (intRes t false (intOf t x)).truncate 32 else BitVec.ofNat 32 x

/-- The coordinate that a read uses: none for a fill (R293). -/
def Layout.readAt (y : Layout) (c : List Int) : Option (List Int) :=
  if y.inBounds c then some c else if y.fill = 3 then some (y.clamp c) else none

/-- The elements read, from the bytes that the parts gave in order. -/
def tldElems (y : Layout) (cs : List (List Int)) (bs : List (List Byte)) : List Nat :=
  match cs with
  | [] => []
  | c :: t =>
    match y.readAt c with
    | none => y.fillBits :: tldElems y t bs
    | some d =>
      let n := (elemParts y d none).length
      let (_, b, w) := y.elemAt d
      bitsAt (ofBytes (bs.take n).flatten) (if 8 ≤ w then 0 else b) w :: tldElems y t (bs.drop n)

/-- One lane's part of TLD (R298). -/
def perfTld (f : RForm) (s : State) (o : Op) (l : Nat) : State × Perf :=
  let r := opRec o l
  match s.readLayout o r with
  | (s1, .error p) => (s1, p)
  | (s1, .ok y) =>
    let cs := (List.range (tldN f)).map (tldCoord r)
    let ps := cs.flatMap (fun c => match y.readAt c with | some d => elemParts y d none | none => [])
    match s1.tryParts (s1.whoOf o) o.w r y.sp ps with
    | (s2, .ok bs) => (s2, .done (dstWords r.hm f.dst l ((tldElems y cs bs).map (tldWord y.ty))))
    | (s2, .error a) => (s2, a.perf)

/-- Vector registers from a number on, 32 bits each, lowest first. -/
def State.vRun (s : State) (c : Rd) (o : Opnd) (n : Nat) : Nat :=
  match o with
  | .v k => (List.range n).foldr (fun j a => (s.rdV c.w c.l (k.toNat + j)).toNat + 2 ^ 32 * a) 0
  | .s k => (List.range n).foldr (fun j a => (s.rdS c.w (c.l) (k.toNat + j)).toNat + 2 ^ 32 * a) 0
  | _ => 0

/-- ALIGN for a record that is no multiple of 64 (R298). -/
def recCause (f : RForm) (s : State) (c : Rd) : Option (Cause × Nat × BitVec 64) :=
  let a := srcN s c .n64 f.sa
  if a % 64 ≠ 0 then some (.align, 0, BitVec.ofNat 64 a) else none

/-- The operand values of TLD and TST: the record's address; the coordinates, then the data. -/
def slotsTld (f : RForm) (n : Nat) (s : State) (c : Rd) : LaneRec :=
  let q := s.vRun c f.sb 4
  let d := s.vRun c f.sc n
  { noRec c.l with
    a := s.src c .n64 f.sa, b := BitVec.ofNat 64 q, c := BitVec.ofNat 128 (d % 2 ^ 64), addr := s.src c .n64 f.sa,
    data := q + 2 ^ 128 * d }

def opTld (f : RForm) : LongOp :=
  { cause := recCause f, slots := slotsTld f 0, pend := fun s c => pendOf (s.inHandler c.w c.l) f.dst c.l (tldN f)
    ord := { mem := true }, perf := perfTld f }

/-- TLD (R298). -/
def execTld (h : Hdr) (f : RForm) (s : State) : Out := .next (issueLong (.tld h f) h (opTld f) s)

/-- An element written: the containing bytes of one below 8 bits are read and written back (R298). -/
def State.storeElem (s : State) (q : Who) (w : Nat) (r : LaneRec) (y : Layout) (c : List Int) (x : Nat) : State × Except Acc Unit :=
  if !y.inBounds c then (s, .ok ())
  else
    let (_, b, n) := y.elemAt c
    if 8 ≤ n then
      match s.runParts q w r y.sp (elemParts y c (some (x % 2 ^ n))) with
      | (s1, .ok _) => (s1, .ok ())
      | (s1, .error a) => (s1, .error a)
    else
      match s.runParts q w r y.sp (elemParts y c none) with
      | (s1, .error a) => (s1, .error a)
      | (s1, .ok bs) =>
        let old := ofBytes bs.flatten
        let new := old - bitsAt old b n * 2 ^ b + x % 2 ^ n * 2 ^ b
        match s1.runParts q w r y.sp (elemParts y c (some new)) with
        | (s2, .ok _) => (s2, .ok ())
        | (s2, .error a) => (s2, .error a)

/-- Elements written in order. -/
def State.storeElems (s : State) (q : Who) (w : Nat) (r : LaneRec) (y : Layout) (es : List (List Int × Nat)) : State × Except Acc Unit :=
  match es with
  | [] => (s, .ok ())
  | e :: t =>
    match s.storeElem q w r y e.1 e.2 with
    | (s1, .ok _) => State.storeElems s1 q w r y t
    | x => x

/-- One lane's part of TST (R298). -/
def perfTst (f : RForm) (s : State) (o : Op) (l : Nat) : State × Perf :=
  let r := opRec o l
  match s.readLayout o r with
  | (s1, .error p) => (s1, p)
  | (s1, .ok y) =>
    if y.sp = .constant then (s1, .trap .tile 2 0)
    else
      let es := (List.range (tldN f)).map (fun k => (tldCoord r k, bitsAt r.data (128 + 32 * k) 32))
      let ps := es.flatMap (fun e => if y.inBounds e.1 then elemParts y e.1 (some 0) else [])
      match ps.findSome? (s1.partCause o.w r y.sp) with
      | some (c, sub, a) => (s1, .trap c sub a)
      | none =>
        match s1.storeElems (s1.whoOf o) o.w r y es with
        | (s2, .ok _) => (s2, .done [])
        | (_, .error a) => (s1, a.perf)

def opTst (f : RForm) : LongOp :=
  { cause := recCause f, slots := slotsTld f (tldN f), ord := { mem := true, wr := true }, perf := perfTst f }

/-- TST (R298). -/
def execTst (h : Hdr) (f : RForm) (s : State) : Out := .next (issueLong (.tst h f) h (opTst f) s)

/-! ## Packed tiles -/

/-- A range of a workgroup's scratch read: its bytes, or the cause (R262, R299). -/
def State.padRead (s : State) (q : Who) (c : WgCore) (o n : Nat) : State × Except Acc (List Byte) :=
  match scratchFail c o n with
  | some x => (s, .error (.trap .spad 0 (BitVec.ofNat 64 x)))
  | none =>
    if n = 0 then (s, .ok [])
    else match scratchPlace c q.cid o with
      | .here t => match s.access q t o n none with
        | (s1, .ok bs) => (s1, .ok bs)
        | (s1, a) => (s1, .error a)
      | _ => (s, .error (.trap .spad 0 (BitVec.ofNat 64 o)))

/-- Ranges of a workgroup's scratch written in order, or what stops one of them; a range outside the allocation is empty (R300). -/
def State.padWrites (s : State) (q : Who) (c : WgCore) (xs : List (Nat × List Byte)) : State × Except Acc Unit :=
  match xs with
  | [] => (s, .ok ())
  | e :: rest =>
    match scratchPlace c q.cid e.1 with
    | .here t => match s.access q t e.1 e.2.length (some e.2) with
      | (s1, .ok _) => State.padWrites s1 q c rest
      | (s1, a) => (s1, .error a)
    | _ => State.padWrites s q c rest

/-- The record of a packed-tile store read from scratch (R299). -/
def State.readPk (s : State) (q : Who) (c : WgCore) (o : Nat) : State × Except Acc PkRec :=
  if o % 16 ≠ 0 then (s, .error (.trap .align 0 (BitVec.ofNat 64 o)))
  else match s.padRead q c o 16 with
    | (s1, .ok bs) => (s1, .ok (pkRec (ofBytes bs)))
    | (s1, .error a) => (s1, .error a)

/-- SPAD of a record's table or data range (R300). -/
def pkCause (c : WgCore) (p : PkRec) : Option Acc :=
  match scratchFail c p.tbase (4 * p.ntile) with
  | some x => some (.trap .spad 0 (BitVec.ofNat 64 x))
  | none => match scratchFail c p.dbase p.dsize with
    | some x => some (.trap .spad 0 (BitVec.ofNat 64 x))
    | none => none

/-- The result of one tile appended to a store (R300): the value of d, and the writes as offsets and bytes. -/
def pkAppend (p : PkRec) (o t : Nat) (ws : List Word) : Nat × List (Nat × List Byte) :=
  if !p.ok then (0xFFFFFFFD, [])
  else if p.ntile ≤ t then (0xFFFFFFFE, [])
  else
    let (form, len, bs) := pkPack ws
    if p.dsize < p.append + 4 * len then (0xFFFFFFFF, [])
    else
      let e := p.append + form * 2 ^ 20 + len * 2 ^ 22
      (e, [(p.dbase + p.append, bs), (p.tbase + 4 * t, bytesOf 4 e), (o + 8, bytesOf 4 (p.append + 4 * len))])

/-- PKST for its warp (R300). DESIGN CHOICE (log entry 34): SPAD of the table and the data range comes after the results 0xFFFF_FFFD and
0xFFFF_FFFE. -/
def perfPkst (f : RForm) (s : State) (o : Op) (l : Nat) : State × Perf :=
  let r := opRec o l
  let c := s.wgCoreOf o.w
  let q := s.whoOf o
  let at0 := (r.a.truncate 32 : Word).toNat
  let done (t : State) (d : Nat) : State × Perf := (t, .done ((lanesOf o.lanes).flatMap (fun j => dstWords r.hm f.dst j [BitVec.ofNat 32 d])))
  match s.readPk q c at0 with
  | (s1, .error a) => (s1, a.perf)
  | (s1, .ok p) =>
    let ws := (List.range 32).map (fun j => if o.lanes.getLsbD j then ((opRec o j).c.truncate 32 : Word) else 0)
    let (d, out) := pkAppend p at0 (r.b.truncate 32 : Word).toNat ws
    match if p.ok && decide ((r.b.truncate 32 : Word).toNat < p.ntile) then pkCause c p else none with
    | some a => (s1, a.perf)
    | none => match s1.padWrites q c out with
      | (t, .ok _) => done t d
      | (_, .error a) => (s1, a.perf)

def opPkst (f : RForm) : LongOp :=
  { slots := slotsR f .b32 .b32 .b32, pend := fun s c => pendOf (s.inHandler c.w c.l) f.dst c.l 1, once := true
    ord := { mem := true, wr := true }, perf := perfPkst f }

/-- PKST (R300). -/
def execPkst (h : Hdr) (f : RForm) (s : State) : Out := .next (issueLong (.pkst h f) h (opPkst f) s)

/-- The 32 words of a tile of a packed store (R301). DESIGN CHOICE (log entry 34): a bad record and t ≥ NTILE give zeros before SPAD of the table and
the data range is judged, and SPAD comes before the zeros of a table entry. -/
def State.pkLoad (s : State) (q : Who) (c : WgCore) (p : PkRec) (t : Nat) : State × Except Acc (List Word) :=
  let zeros : List Word := List.replicate 32 0
  if !p.ok || p.ntile ≤ t then (s, .ok zeros)
  else match pkCause c p with
    | some a => (s, .error a)
    | none =>
      match s.padRead q c (p.tbase + 4 * t) 4 with
      | (s1, .error a) => (s1, .error a)
      | (s1, .ok eb) =>
        let e := ofBytes eb
        let len := bitsAt e 22 6
        let ofs := bitsAt e 0 20
        if bitsAt e 28 4 ≠ 0 || p.dsize < ofs + 4 * len then (s1, .ok zeros)
        else match s1.padRead q c (p.dbase + ofs) (4 * len) with
          | (s2, .error a) => (s2, .error a)
          | (s2, .ok bs) => (s2, .ok ((pkUnpack (bitsAt e 20 2) len bs).getD zeros))

/-- PKLD for its warp (R301). -/
def perfPkld (f : RForm) (s : State) (o : Op) (l : Nat) : State × Perf :=
  let r := opRec o l
  let c := s.wgCoreOf o.w
  let q := s.whoOf o
  match s.readPk q c (r.a.truncate 32 : Word).toNat with
  | (s1, .error a) => (s1, a.perf)
  | (s1, .ok p) =>
    match s1.pkLoad q c p (r.b.truncate 32 : Word).toNat with
    | (s2, .error a) => (s2, a.perf)
    | (s2, .ok ws) => (s2, .done ((lanesOf o.lanes).flatMap (fun j => dstWords r.hm f.dst j [(ws[j]?).getD 0])))

def opPkld (f : RForm) : LongOp :=
  { slots := slotsR f .b32 .b32 .b32, pend := fun s c => pendOf (s.inHandler c.w c.l) f.dst c.l 1, once := true
    ord := { mem := true }, perf := perfPkld f }

/-- PKLD (R301). -/
def execPkld (h : Hdr) (f : RForm) (s : State) : Out := .next (issueLong (.pkld h f) h (opPkld f) s)

end Sys2Proof.Machine
end

