-- ==== Sys2Proof/Machine/Engine.lean ====
section
/-! DEFINITION. What an engine job reads and writes (R249 to R253, R289 to R295): its source reads, its destination targets, and the
bytes that each operation writes, worked out in full before anything is written. -/

namespace Sys2Proof.Machine

/-- Why a job stops: an ERR code with the poison it consumed, a breach of the worlds, a translation fault, or a scratch range outside
the allocation. -/
inductive JStop where
  | err (code cls : Nat) (addr : BitVec 64)
  | secv
  | park (va kind level : Nat) (entry : BitVec 64)
  | spad (addr : Nat)
  deriving DecidableEq, Repr

abbrev JRes (α : Type) := Except JStop α

/-- Who reads and writes: the state, the same state with the issuing warp's workgroup standing at its slot, in which addresses are resolved,
the job, and whether only the places it names are looked for (R249, R289). -/
structure JEnv where
  s : State
  p : State
  j : Job
  dry : Bool
  deriving DecidableEq, Repr

/-- The checks of a job's access to a physical address (R24, R290, R392, R429). -/
def JEnv.phys (v : JEnv) (pa n : Nat) (read : Bool) (a : BitVec 64) : JRes Unit :=
  if !v.s.reachable (pa / 2 ^ 50) || v.s.paKind pa = .reserved then .error (.err 2 0 0)
  else if v.s.secBreach v.j.ctx pa then .error .secv
  else if read then
    match v.s.homePoison pa n with
    | some cls => .error (.err 3 cls a)
    | none => .ok ()
  else .ok ()

/-- A read of physical memory by a job. -/
def JEnv.readPhys (v : JEnv) (pa n : Nat) (a : BitVec 64) : JRes (List Byte) :=
  match v.phys pa n true a with
  | .ok _ => .ok (v.s.readHome pa n)
  | .error e => .error e

/-- A read within one line by a job, or the bytes it makes do with while ranges are judged. -/
def JEnv.read1 (v : JEnv) (sp : Space) (ea n : Nat) : JRes (List Byte) :=
  let s := v.s
  let r : JRes (List Byte) :=
    match v.p.place v.j.w v.j.src sp ea false with
    | .prot => .error (.err 2 0 0)
    | .spad o => .error (.spad o)
    | .here t =>
      let foreign (win : Bool) : Bool := win && s.tagAt t ≠ some v.j.ctx
      match t with
      | .zero | .remote _ => .ok (List.replicate n 0)
      | .phys pa => v.readPhys pa n (poisonPa pa)
      | .column cid o => v.readPhys (s.columnPa cid o) n (poisonPa (s.columnPa cid o))
      | .virt va =>
        match (s.translateAt (192 + v.j.stack) v.j.ctx va .read).2 with
        | .to true a => .ok (s.readHost a n)
        | .to false a => v.readPhys a n (poisonVa va)
        | .fault kind level e => .error (.park va kind level e)
        | .secv => .error .secv
        | .poison cls => .error (.err 3 cls (poisonVa va))
      | .sram cid o win =>
        if foreign win then .ok (List.replicate n 0)
        else if poisonHit s.mem.poison 2 16 (cid * 2 ^ 20 + o) n then .error (.err 3 2 0) else .ok (s.sramRead cid o n)
      | .view cid o =>
        if foreign true then .ok (List.replicate n 0)
        else match s.viewPoison cid o n with
          | some cls => .error (.err 3 cls 0)
          | none => .ok (s.viewRead cid o n)
  match r with
  | .error (.spad a) => .error (.spad a)
  | .error e => if v.dry then .ok (List.replicate n 0) else .error e
  | .ok bs => .ok bs

/-- A range cut at the lines it crosses. -/
def lineCuts (fuel a n : Nat) : List (Nat × Nat) :=
  match fuel with
  | 0 => []
  | k + 1 =>
    if n = 0 then []
    else
      let m := min n (128 - a % 128)
      (a, m) :: lineCuts k (a + m) (n - m)

def cuts (a n : Nat) : List (Nat × Nat) := lineCuts (n / 128 + 2) a n

/-- A range read by a job. -/
def JEnv.read (v : JEnv) (sp : Space) (ea n : Nat) : JRes (List Byte) :=
  (cuts ea n).foldlM (fun (acc : List Byte) c => match v.read1 sp c.1 c.2 with | .ok bs => .ok (acc ++ bs) | .error e => .error e) []

/-- The target of a job's write within one line; none where writes are dropped. -/
def JEnv.target (v : JEnv) (sp : Space) (ea n : Nat) : JRes (Option Nat) :=
  let s := v.s
  let ph (pa : Nat) : JRes (Option Nat) := match v.phys pa n false 0 with | .ok _ => .ok (some pa) | .error e => .error e
  let r : JRes (Option Nat) :=
    match v.p.place v.j.w v.j.src sp ea true with
    | .prot => .error (.err 2 0 0)
    | .spad o => .error (.spad o)
    | .here t =>
      match t with
      | .zero | .remote _ => .ok none
      | .phys pa => ph pa
      | .column cid o => ph (s.columnPa cid o)
      | .virt va =>
        match (s.translateAt (192 + v.j.stack) v.j.ctx va .write).2 with
        | .to true a => .ok (some (2 ^ 60 + a))
        | .to false a => ph a
        | .fault kind level e => .error (.park va kind level e)
        | .secv => .error .secv
        | .poison cls => .error (.err 3 cls (poisonVa va))
      | .sram cid o win => .ok (some (2 ^ 61 + (if win then 2 ^ 40 else 0) + cid * 2 ^ 24 + o))
      | .view cid o => .ok (some (2 ^ 61 + 2 ^ 40 + cid * 2 ^ 24 + o))
  match r with
  | .error (.spad a) => .error (.spad a)
  | .error e => if v.dry then .ok none else .error e
  | .ok t => .ok t

/-! ## Bytes to be written -/

/-- Bits to be written, by address in a space: value and mask of each byte. -/
abbrev BitMap := NMap (Nat × Nat)

/-- The key of an address in a space. -/
def spKey (sp : Space) (ea : Nat) : Nat :=
  (match sp with | .generic => 0 | .global => 1 | .scratch => 2 | .window => 3 | .constant => 4 | .transient => 5 | .priv => 6) * 2 ^ 64 + ea

def spOfKey (k : Nat) : Space := (spaceOfCode (k / 2 ^ 64)).getD .generic

/-- A field of bits put into bytes at a list of addresses. -/
def putBits (m : BitMap) (sp : Space) (as : List Nat) (bit w x : Nat) : BitMap :=
  let v := x % 2 ^ w * 2 ^ bit
  let k := (2 ^ w - 1) * 2 ^ bit
  as.zipIdx.foldl (fun (m : BitMap) e =>
    let key := spKey sp e.1
    let old := dmapGet (0, 0) m key
    let b := v / 2 ^ (8 * e.2) % 256
    let q := k / 2 ^ (8 * e.2) % 256
    nmapSet m key (old.1 - (old.1 &&& q) + b, old.2 ||| q)) m

/-- Whole bytes put at an address. -/
def putRun (m : BitMap) (sp : Space) (ea : Nat) (bs : List Byte) : BitMap :=
  bs.zipIdx.foldl (fun (m : BitMap) e => nmapSet m (spKey sp (ea + e.2)) (e.1.toNat, 255)) m

/-- A byte completed with the bits that stand in memory where only some of it is written. -/
def JEnv.whole (v : JEnv) (e : Nat × Nat × Nat) : JRes (Nat × Byte) :=
  if e.2.2 = 255 then .ok (e.1, BitVec.ofNat 8 e.2.1)
  else match v.read1 (spOfKey e.1) (e.1 % 2 ^ 64) 1 with
    | .ok bs => let old := ofBytes bs; .ok (e.1, BitVec.ofNat 8 (old - (old &&& e.2.2) + e.2.1))
    | .error x => .error x

/-- One update of a destination: how many destination bytes it counts for, and its bytes by target. -/
abbrev Update := Nat × List (Nat × List Byte)

/-- Whether two updates write a common line. -/
def Update.meets (x y : Update) : Bool := x.2.any (fun p => y.2.any (fun q => p.1 / 128 = q.1 / 128))

/-- An update put with the one whose line it shares, so that a line is written once and whole (R237, R253), or behind the others. -/
def addUpdate (us : List Update) (u : Update) : List Update :=
  match us with
  | [] => [u]
  | x :: rest => if x.meets u then (x.1 + u.1, x.2 ++ u.2) :: rest else x :: addUpdate rest u

/-- Bytes resolved to their targets and gathered line by line behind those there are, in ascending order; each counts for `k` destination
bytes (R250, R290). -/
def JEnv.updatesOnto (v : JEnv) (k : Nat) (us : List Update) (m : BitMap) : JRes (List Update) :=
  m.foldlM (fun (us : List Update) e =>
    match v.whole e with
    | .error x => .error x
    | .ok (a, b) =>
      match v.target (spOfKey a) (a % 2 ^ 64) 1 with
      | .error x => .error x
      | .ok none => .ok us
      | .ok (some t) => .ok (addUpdate us (k, [(t, [b])]))) us

/-- The updates of a destination's bytes alone. -/
def JEnv.updates (v : JEnv) (m : BitMap) : JRes (List Update) := v.updatesOnto 1 [] m

/-- A destination range of whole bytes as updates, line by line. -/
def JEnv.rangeUpdates (v : JEnv) (sp : Space) (ea : Nat) (bs : List Byte) : JRes (List Update) :=
  (cuts ea bs.length).foldlM (fun (us : List Update) c =>
    match v.target sp c.1 c.2 with
    | .error x => .error x
    | .ok none => .ok us
    | .ok (some t) => .ok (addUpdate us (c.2, [(t, (bs.drop (c.1 - ea)).take c.2)]))) []

/-- A plain or decompressing CPY (R291). -/
def JEnv.cpy (v : JEnv) : JRes (List Update) :=
  let r := v.j.src
  let n := (r.c.truncate 32 : Word).toNat
  let bad : JRes (List Update) := .error (.err 1 0 0)
  if v.j.sub.getLsbD 0 then
    let src := bitsAt r.data 0 64
    let mta := bitsAt r.data 64 64
    let clear := bitsAt r.data 128 32
    if n = 0 || 2 ^ 28 < n || n % 256 ≠ 0 || src % 256 ≠ 0 then bad
    else
      match (List.range (n / 256)).foldlM (fun (acc : List Byte) i => do
          let mb ← v.read .generic (mta + i) 1
          let bs ← v.read .generic (src + 256 * i) 256
          .ok (acc ++ cdcDecode (ofBytes mb) bs clear)) ([] : List Byte) with
      | .error e => .error e
      | .ok bs => v.rangeUpdates .generic r.a.toNat bs
  else if n = 0 || 2 ^ 28 < n then bad
  else match v.read .generic r.b.toNat n with
    | .error e => .error e
    | .ok bs => v.rangeUpdates .generic r.a.toNat bs

/-! ## XFORM -/

/-- A layout record that a job reads (R292): invalid ones end the job with ERR 1. -/
def JEnv.layout (v : JEnv) (a : Nat) : JRes Layout := do
  let bs ← v.read .generic a 64
  match layoutOf (ofBytes bs) with
  | some y => .ok y
  | none => .error (.err 1 0 0)

/-- Register k of the twelve that XFORM reads: source origin, destination origin, parameters (R294). -/
def Job.reg (j : Job) (k : Nat) : Nat := bitsAt j.src.data (32 * k) 32

def Job.origin (j : Job) (k : Nat) : Int := (BitVec.ofNat 32 (j.reg k)).toInt

def Job.param (j : Job) (k : Nat) : Nat := j.reg (8 + k)

/-- The address that P0:P1 or P1:P2 hold. -/
def Job.paramAddr (j : Job) (k : Nat) : Nat := j.param k + 2 ^ 32 * j.param (k + 1)

/-- The indices of a box, dim 0 fastest (R294). -/
def boxIdx (b : List Nat) : List (List Nat) :=
  (List.range (nth4 b 3)).flatMap (fun i3 => (List.range (nth4 b 2)).flatMap (fun i2 => (List.range (nth4 b 1)).flatMap (fun i1 =>
    (List.range (nth4 b 0)).map (fun i0 => [i0, i1, i2, i3]))))

/-- An origin plus an index. -/
def Job.srcAt (j : Job) (i : List Nat) : List Int := (List.range 4).map (fun k => j.origin k + (nth4 i k : Int))

def Job.dstAt (j : Job) (i : List Nat) : List Int := (List.range 4).map (fun k => j.origin (4 + k) + (nth4 i k : Int))

/-- Dim 0 of an index replaced. -/
def setI0 (i : List Nat) (k : Nat) : List Nat := k :: i.drop 1

/-- A coordinate moved along dim 0. -/
def addC0 (c : List Int) (k : Nat) : List Int := (crd c 0 + k) :: c.drop 1

/-- The bits of an element that is no YK element, out of bounds its fill (R293). -/
def JEnv.elem (v : JEnv) (y : Layout) (c : List Int) : JRes Nat :=
  match y.readAt c with
  | none => .ok y.fillBits
  | some d => do
    let (as, b, w) := y.elemAt d
    let bs ← as.foldlM (fun (acc : List Byte) a => match v.read1 y.sp a 1 with | .ok x => .ok (acc ++ x) | .error e => .error e) []
    .ok (bitsAt (ofBytes bs) b w)

/-- An element put at a coordinate, bounds aside. -/
def putElem (m : BitMap) (y : Layout) (c : List Int) (x : Nat) : BitMap :=
  let (as, b, w) := y.elemAt c
  putBits m y.sp as b w x

/-- An element written when its coordinate is in bounds (R293). -/
def putIn (m : BitMap) (y : Layout) (c : List Int) (x : Nat) : BitMap := if y.inBounds c then putElem m y c x else m

/-- The bytes of a YK block; none when the coordinate reads as the fill. -/
def JEnv.ykBlock (v : JEnv) (y : Layout) (c : List Int) : JRes (Option Nat) :=
  match y.readAt c with
  | none => .ok none
  | some d => do
    let bs ← (y.ykAt d).foldlM (fun (acc : List Byte) a => match v.read1 y.sp a 1 with | .ok x => .ok (acc ++ x) | .error e => .error e) []
    .ok (some (ofBytes bs))

/-- A YK block put at the coordinate of its first element, its out-of-bounds elements written as zero (R293). -/
def putYk (m : BitMap) (y : Layout) (c : List Int) (scale mu : Nat) (codes : List Nat) : BitMap :=
  if !y.inBounds c then m
  else
    let cs := codes.zipIdx.map (fun e => if y.inBounds (addC0 c e.2) then e.1 else 0)
    ((y.ykAt c).zip (ykPack y.ty scale mu cs)).foldl (fun (m : BitMap) e => putBits m y.sp [e.1] 0 8 e.2.toNat) m

/-- A free byte of a YK block whose copy the spec does not state. -/
def JEnv.freeByte (v : JEnv) (k : Nat) : Nat := (Config.freeWord (v.s.free + k)).toNat % 256

/-- Elements copied from one coordinate to another. -/
def JEnv.copyElems (v : JEnv) (a b : Layout) (ps : List (List Int × List Int)) : JRes BitMap :=
  ps.foldlM (fun (m : BitMap) p =>
    match v.elem a p.1 with
    | .ok x => .ok (putIn m b p.2 x)
    | .error e => .error e) []

/-- A YK block as a copy reads it (R293): scale, µ bits and codes. Each element out of bounds is its fill: the bits of FILLV, zero, or the
element at the clamped coordinate with that element's µ bit. The scale and µ bits of a block whose first element is out of bounds and not
clamped are open where its codes are not zero (log entry 10). -/
def JEnv.ykFilled (v : JEnv) (a : Layout) (c : List Int) (pos : Nat) : JRes (Nat × Nat × List Nat) :=
  let fillCode : Nat := if a.fill = 1 then a.fillv % 2 ^ elemBits a.ty else 0
  match a.readAt c with
  | none =>
    if fillCode = 0 then .ok (0, 0, List.replicate 16 0)
    else .ok (v.freeByte (32 * pos), v.freeByte (32 * pos + 1), List.replicate 16 fillCode)
  | some d => do
    let bs ← (a.ykAt d).foldlM (fun (acc : List Byte) x => match v.read1 a.sp x 1 with | .ok y => .ok (acc ++ y) | .error e => .error e) []
    let x := ofBytes bs
    let at_ (k : Nat) : Option (Nat × Nat) := (a.readAt (addC0 c k)).map (fun q => ykElem a.ty x ((crd q 0).toNat % 16))
    let mu := (List.range 8).foldl (fun (m : Nat) p => match at_ (2 * p) with | some e => m + e.1 % 2 * 2 ^ p | none => m) 0
    .ok (bitsAt x 0 8, mu, (List.range 16).map (fun k => match at_ k with | some e => e.2 | none => fillCode))

/-- YK blocks copied from the first coordinate of a source block to that of a destination block; where a block does not stand on a block,
the bytes written are free (log entry 10). -/
def JEnv.copyYk (v : JEnv) (a b : Layout) (ps : List (List Int × List Int)) : JRes BitMap :=
  ps.zipIdx.foldlM (fun (m : BitMap) e =>
    let p := e.1
    let free (_ : Unit) : BitMap :=
      putYk m b p.2 (v.freeByte (32 * e.2)) (v.freeByte (32 * e.2 + 1)) ((List.range 16).map (fun k => v.freeByte (32 * e.2 + 2 + k)))
    if crd p.1 0 % 16 ≠ 0 ∨ crd p.2 0 % 16 ≠ 0 then .ok (free ())
    else match v.ykFilled a p.1 e.2 with
      | .error x => .error x
      | .ok (scale, mu, codes) => .ok (putYk m b p.2 scale mu codes)) []

/-- Pairs of coordinates copied, element by element or YK block by YK block. -/
def JEnv.copyPairs (v : JEnv) (a b : Layout) (f : List Nat → List Int) : JRes BitMap :=
  if isYk a.ty then
    v.copyYk a b (((boxIdx a.box).filter (fun i => nth4 i 0 % 16 = 0)).map (fun i => (f i, v.j.dstAt i)))
  else v.copyElems a b ((boxIdx a.box).map (fun i => (f i, v.j.dstAt i)))

/-- The rounding mode of P0 (R59, R294); 110 is that of %fpctl[2:0] as XFORM read it at issue, which stands above its twelve registers. -/
def Job.rnd (j : Job) : Option Rnd :=
  match if j.param 0 % 8 = 6 then j.reg 12 % 8 else j.param 0 % 8 with
  | 0 => some .rne | 1 => some .rtz | 2 => some .rdn | 3 => some .rup | 4 => some .rna | 5 => some .rsr | _ => none

/-- The generator of a job after k elements (R295). -/
def rngAfter (seed : Word) (k : Nat) : Word :=
  match k with
  | 0 => if seed = 0 then 1 else seed
  | n + 1 => rngStep (rngAfter seed n)

/-- The address of the MX scale of the block of a coordinate (R294). -/
def scaleAddr (base : Nat) (y : Layout) (c : List Int) : Nat :=
  ((base : Int) + crd c 0 / 32 + ((nth4 y.ext 0 + 31) / 32 : Nat) *
    (crd c 1 + (nth4 y.ext 1 : Nat) * (crd c 2 + (nth4 y.ext 2 : Nat) * crd c 3))).toNat

/-- The place of an index in the order of a box. -/
def boxPos (b i : List Nat) : Nat := nth4 i 0 + nth4 b 0 * (nth4 i 1 + nth4 b 1 * (nth4 i 2 + nth4 b 2 * nth4 i 3))

/-- What an operation writes: the destination's bits, and those of scales, indices or metadata. -/
structure XOut where
  main : BitMap
  aux : BitMap
  deriving DecidableEq, Repr

/-- XFORM.qnt (R93, R294, R295). -/
def JEnv.qnt (v : JEnv) (a b : Layout) (rnd : Rnd) : JRes XOut :=
  let j := v.j
  let n := blockLen b.ty
  let seed := BitVec.ofNat 32 (j.param 3)
  ((boxIdx a.box).filter (fun i => nth4 i 0 % n = 0)).foldlM (fun (o : XOut) i => do
    let d := j.dstAt i
    let qs ← (List.range n).foldlM (fun (acc : List QIn) k => do
      let x ← v.elem a (addC0 (j.srcAt i) k)
      let val : Fv := if b.inBounds (addC0 d k) then (ffmt a.ty).decode x else .fin false 0 0
      .ok (acc ++ [⟨val, rngAfter seed (boxPos a.box (setI0 i (nth4 i 0 + k)))⟩])) []
    let q := quantBlock b.ty rnd qs
    let codes := q.els.zipIdx.map (fun e => if b.inBounds (addC0 d e.2) then e.1.bits else 0)
    if !b.inBounds d then .ok o
    else if isYk b.ty then .ok { o with main := putYk o.main b d q.scale q.mu codes }
    else .ok { main := codes.zipIdx.foldl (fun (m : BitMap) e => putElem m b (addC0 d e.2) e.1) o.main,
               aux := putRun o.aux .generic (scaleAddr (j.paramAddr 1) b d) [BitVec.ofNat 8 q.scale] }) ⟨[], []⟩

/-- The value of a block element at a coordinate (R91, R92, R294); the scale of a fill is open where its code is not zero. -/
def JEnv.blockElem (v : JEnv) (a : Layout) (pos : Nat) (c : List Int) : JRes Fv :=
  match a.readAt c with
  | none =>
    let x := if isYk a.ty then (if a.fill = 1 then a.fillv % 2 ^ elemBits a.ty else 0) else a.fillBits
    .ok (if x = 0 then .fin false 0 0 else blockValue a.ty (v.freeByte pos) 0 x)
  | some d =>
    if isYk a.ty then
      match v.ykBlock a d with
      | .error e => .error e
      | .ok bs =>
        let x := bs.getD 0
        let e := ykElem a.ty x ((crd d 0).toNat % 16)
        .ok (blockValue a.ty (bitsAt x 0 8) e.1 e.2)
    else do
      let x ← v.elem a d
      let sc ← v.read1 .generic (scaleAddr (v.j.paramAddr 1) a d) 1
      .ok (blockValue a.ty (ofBytes sc) 0 x)

/-- XFORM.dqnt (R294, R295). -/
def JEnv.dqnt (v : JEnv) (a b : Layout) (rnd : Rnd) : JRes XOut := do
  let seed := BitVec.ofNat 32 (v.j.param 3)
  let m ← (boxIdx a.box).foldlM (fun (m : BitMap) i =>
    let pos := boxPos a.box i
    match v.blockElem a pos (v.j.srcAt i) with
    | .error e => .error e
    | .ok x => .ok (putIn m b (v.j.dstAt i) ((ffmt b.ty).deliver rnd (rngAfter seed (pos + 1)) false false x).bits)) []
  .ok ⟨m, []⟩

/-- The address of a row of index bits (R294). -/
def indexRow (base : Nat) (one : Bool) (y : Layout) (c : List Int) : Nat :=
  let row := if one then (nth4 y.ext 0 + 15) / 16 else (nth4 y.ext 0 + 7) / 8
  ((base : Int) + (row : Nat) * (crd c 1 + (nth4 y.ext 1 : Nat) * (crd c 2 + (nth4 y.ext 2 : Nat) * crd c 3))).toNat

/-- The address and first bit of a group's index bits (R95). -/
def indexAt (base : Nat) (one : Bool) (y : Layout) (c : List Int) : Nat × Nat :=
  let b := (crd c 0 / 4).toNat * (if one then 2 else 4)
  (indexRow base one y c + b / 8, b % 8)

/-- XFORM.spx (R135, R294). -/
def JEnv.spx (v : JEnv) (a b : Layout) (one : Bool) : JRes XOut :=
  let j := v.j
  let n := if one then 1 else 2
  ((boxIdx a.box).filter (fun i => nth4 i 0 % 4 = 0)).foldlM (fun (o : XOut) i => do
    let c := j.srcAt i
    let d := j.dstAt (setI0 i (nth4 i 0 / 4 * n))
    let xs ← (List.range 4).foldlM (fun (acc : List Nat) k => do
      let x ← v.elem a (addC0 c k)
      .ok (acc ++ [x])) []
    let ks := sparseKeep a.ty one xs
    if !b.inBounds d then .ok o
    else
      let main := ks.zipIdx.foldl (fun (m : BitMap) e =>
        putElem m b (addC0 d e.2) (if b.inBounds (addC0 d e.2) then nth4 xs e.1 else 0)) o.main
      let (ea, bit) := indexAt (j.paramAddr 1) one a c
      .ok ⟨main, putBits o.aux .generic [ea] bit (if one then 2 else 4) (nth4 ks 0 + (if one then 0 else 4 * nth4 ks 1))⟩) ⟨[], []⟩

/-- XFORM.spexp (R136, R294). -/
def JEnv.spexp (v : JEnv) (a b : Layout) (one : Bool) : JRes XOut :=
  let j := v.j
  let n := if one then 1 else 2
  ((boxIdx a.box).filter (fun i => nth4 i 0 % n = 0)).foldlM (fun (o : XOut) i => do
    let c := j.srcAt i
    let d := j.dstAt (setI0 i (nth4 i 0 / n * 4))
    let xs ← (List.range n).foldlM (fun (acc : List Nat) k => do
      let x ← v.elem a (addC0 c k)
      .ok (acc ++ [x])) []
    let (ea, bit) := indexAt (j.paramAddr 1) one b d
    let ib ← v.read1 .generic ea 1
    let idx := bitsAt (ofBytes ib) bit (if one then 2 else 4)
    let g0 : List Nat := ([0, 0, 0, 0] : List Nat).set (idx % 4) (nth4 xs 0)
    let g := if one then g0 else g0.set (idx / 4) (nth4 xs 1)
    if !b.inBounds d then .ok o
    else .ok { o with main := g.zipIdx.foldl (fun (m : BitMap) e =>
      putElem m b (addC0 d e.2) (if b.inBounds (addC0 d e.2) then e.1 else 0)) o.main }) ⟨[], []⟩

/-- XFORM.gather (R294). -/
def JEnv.gather (v : JEnv) (a b : Layout) : JRes XOut := do
  let idx ← (List.range (nth4 a.box 1)).foldlM (fun (acc : List Nat) k => do
    let bs ← v.read .generic (v.j.paramAddr 0 + 4 * k) 4
    .ok (acc ++ [ofBytes bs])) []
  let m ← v.copyPairs a b (fun i => ((v.j.srcAt i).set 1 (((idx[nth4 i 1]?).getD 0 : Nat) : Int)))
  .ok ⟨m, []⟩

/-- XFORM.cdec (R294, R451): each tile's bytes and its metadata byte are one update, which counts for 256 bytes; tiles whose metadata bytes
share a line are written together, so that the line too is written whole (R237, R253). -/
def JEnv.cdec (v : JEnv) (b : Layout) : JRes (List Update) :=
  let n := nth4 b.ext 0
  let mta := v.j.paramAddr 0
  if b.ty ≠ .b32 ∨ b.rank ≠ 1 ∨ b.swz ≠ 0 ∨ b.sp = .constant ∨ nth4 b.box 0 ≠ n then .error (.err 1 0 0)
  else (List.range n).foldlM (fun (us : List Update) t => do
    let mb ← v.read .generic (mta + t) 1
    let bs ← v.read b.sp (b.base + 256 * t) 256
    let tile ← v.rangeUpdates b.sp (b.base + 256 * t) (cdcDecode (ofBytes mb) bs (v.j.param 2))
    let md ← v.rangeUpdates .generic (mta + t) [0x38#8]
    .ok (addUpdate us (256, (tile ++ md).flatMap (·.2)))) []

/-- XFORM.pkst (R294, R299): the rows appended one after another, and the bytes that the store then holds. -/
def JEnv.pkst (v : JEnv) (a : Layout) (c : WgCore) : JRes XOut :=
  let o := v.j.param 0
  if a.ty ≠ .b32 ∨ nth4 a.box 0 ≠ 32 ∨ nth4 a.box 2 ≠ 1 ∨ nth4 a.box 3 ≠ 1 ∨ o % 16 ≠ 0 then .error (.err 1 0 0)
  else match scratchFail c o 16 with
    | some x => .error (.spad x)
    | none => do
      let rb ← v.read .scratch o 16
      let p := pkRec (ofBytes rb)
      if !p.ok then .error (.err 1 0 0)
      else match pkCause c p with
        | some (.trap _ _ x) => .error (.spad x.toNat)
        | some _ => .error (.err 2 0 0)
        | none => do
          let r ← (List.range (nth4 a.box 1)).foldlM (fun (st : PkRec × BitMap) i => do
            let ws ← (List.range 32).foldlM (fun (acc : List Word) k => do
              let x ← v.elem a (v.j.srcAt [k, i, 0, 0])
              .ok (acc ++ [BitVec.ofNat 32 x])) []
            let (d, out) := pkAppend st.1 o (v.j.param 1 + i) ws
            .ok ({ st.1 with append := if out.isEmpty then st.1.append else st.1.append + 4 * (d / 2 ^ 22) },
              out.foldl (fun (m : BitMap) e => putRun m .scratch e.1 e.2) st.2)) (p, [])
          .ok ⟨r.2, []⟩

/-- Whether two records have boxes and types that an operation allows. -/
def boxIs (b : Layout) (x : List Nat) : Bool := (List.range 4).all (fun k => nth4 b.box k = nth4 x k)

/-- The updates of an operation's bytes: the destination's, and those of scales, indices or metadata, which count for none; a line that
holds both is written once (R237, R253). -/
def JEnv.xUpdates (v : JEnv) (o : XOut) : JRes (List Update) := do
  let us ← v.updates o.main
  v.updatesOnto 0 us o.aux

/-- An XFORM other than .red (R294). -/
def JEnv.xform (v : JEnv) : JRes (List Update) :=
  let j := v.j
  let op := j.sub.toNat % 16
  let bad {α : Type} : JRes α := .error (.err 1 0 0)
  if op = 7 then do
    let b ← v.layout j.src.a.toNat
    v.cdec b
  else do
    let a ← v.layout j.src.b.toNat
    if op = 8 then
      let o ← v.pkst a (v.p.wgCoreOf j.w)
      v.xUpdates o
    else
      let b ← v.layout j.src.a.toNat
      if b.sp = .constant then bad
      else
        let flt (t : Ty) : Bool := t = .f32 || t = .f16 || t = .bf16
        let blk (t : Ty) : Bool := isYk t || t = .mxi8 || [Ty.e4m3, .e5m2, .e3m2, .e2m3, .e2m1].contains t
        let spt (t : Ty) : Bool := [Ty.e4m3, .e5m2, .i8, .n8, .f16, .bf16].contains t
        let n := blockLen b.ty
        let one : Bool := j.param 0 % 2 = 1
        let k := if one then 4 else 2
        let run (ok : Bool) (r : JRes XOut) : JRes (List Update) :=
          if !ok then bad else match r with | .ok o => v.xUpdates o | .error e => .error e
        match op with
        | 0 => run (a.ty = b.ty && boxIs b a.box) ((v.copyPairs a b j.srcAt).map (fun m => ⟨m, []⟩))
        | 1 =>
          run (a.ty = b.ty && !isYk a.ty && decide (8 ≤ elemBits a.ty) && boxIs b [nth4 a.box 1, nth4 a.box 0, nth4 a.box 2, nth4 a.box 3])
            ((v.copyElems a b ((boxIdx a.box).map (fun i =>
              (j.srcAt i, j.dstAt [nth4 i 1, nth4 i 0, nth4 i 2, nth4 i 3])))).map (fun m => ⟨m, []⟩))
        | 2 =>
          match j.rnd with
          | none => bad
          | some rnd => run (flt a.ty && blk b.ty && boxIs b a.box && crd (j.dstAt []) 0 % (n : Int) = 0 && nth4 a.box 0 % n = 0) (v.qnt a b rnd)
        | 3 =>
          match j.rnd with
          | none => bad
          | some rnd => run (blk a.ty && flt b.ty && boxIs b a.box) (v.dqnt a b rnd)
        | 4 =>
          run (a.ty = b.ty && spt a.ty && nth4 a.box 0 % 4 = 0 && boxIs b (setI0 a.box (nth4 a.box 0 / k))) (v.spx a b one)
        | 5 =>
          run (a.ty = b.ty && spt a.ty && nth4 a.box 0 % (4 / k) = 0 && boxIs b (setI0 a.box (nth4 a.box 0 * k))) (v.spexp a b one)
        | 6 => run (a.ty = b.ty && boxIs b a.box && decide (2 ≤ a.rank)) (v.gather a b)
        | _ => bad

/-- What a job writes, worked out from its sources as they stand. -/
def JEnv.plan (v : JEnv) : JRes (List Update) := if v.j.xform then v.xform else v.cpy

/-! ## The ranges that a descriptor names -/

/-- A byte range in a space. -/
abbrev SpRange := Space × Nat × Nat

/-- The bytes of a layout's element, or of its YK block, at a coordinate (R293). -/
def Layout.bytesAt (y : Layout) (c : List Int) : List SpRange :=
  (if isYk y.ty then y.ykAt c else (y.elemAt c).1).map (fun a => (y.sp, a, 1))

/-- What reads at coordinates reach. -/
def Layout.reads (y : Layout) (cs : List (List Int)) : List SpRange :=
  cs.flatMap (fun c => match y.readAt c with | some d => y.bytesAt d | none => [])

/-- What writes reach in blocks or groups of n elements along dim 0, each written whole when its first element is in bounds (R293). -/
def Layout.writes (y : Layout) (n : Nat) (cs : List (List Int)) : List SpRange :=
  cs.flatMap (fun c => if y.inBounds c then (List.range n).flatMap (fun k => y.bytesAt (addC0 c k)) else [])

/-- The ranges of CPY (R291). -/
def JEnv.cpyRanges (v : JEnv) : List SpRange :=
  let r := v.j.src
  let n := (r.c.truncate 32 : Word).toNat
  (.generic, r.a.toNat, n) ::
    (if v.j.sub.getLsbD 0 then [(.generic, bitsAt r.data 0 64, n), (.generic, bitsAt r.data 64 64, n / 256)] else [(.generic, r.b.toNat, n)])

/-- The ranges beside the two boxes of an XFORM: scales, index bits, indices, tiles with their metadata, or a packed store (R294). -/
def JEnv.sideRanges (v : JEnv) (op : Nat) (a b : Option Layout) : List SpRange :=
  let j := v.j
  let one : Bool := j.param 0 % 2 = 1
  let src (y : Layout) (n : Nat) : List (List Nat) := (boxIdx y.box).filter (fun i => nth4 i 0 % n = 0)
  match op, a, b with
  | 2, _, some b => if isYk b.ty then [] else
    ((src b 32).map j.dstAt).filterMap (fun d => if b.inBounds d then some (.generic, scaleAddr (j.paramAddr 1) b d, 1) else none)
  | 3, some a, _ => if isYk a.ty then [] else
    ((boxIdx a.box).map j.srcAt).filterMap (fun c => (a.readAt c).map (fun d => (.generic, scaleAddr (j.paramAddr 1) a d, 1)))
  | 4, some a, some b =>
    (src a 4).filterMap (fun i => if b.inBounds (j.dstAt (setI0 i (nth4 i 0 / 4 * (if one then 1 else 2))))
      then some (.generic, (indexAt (j.paramAddr 1) one a (j.srcAt i)).1, 1) else none)
  | 5, _, some b => (src b 4).map (fun i => (.generic, (indexAt (j.paramAddr 1) one b (j.dstAt i)).1, 1))
  | 6, some a, _ => [(.generic, j.paramAddr 0, 4 * nth4 a.box 1)]
  | 7, _, some b => [(b.sp, b.base, 256 * nth4 b.ext 0), (.generic, j.paramAddr 0, nth4 b.ext 0)]
  | 8, _, _ =>
    (.scratch, j.param 0, 16) :: (match v.read .scratch (j.param 0) 16 with
      | .ok bs => let p := pkRec (ofBytes bs); if p.ok then [(.scratch, p.tbase, 4 * p.ntile), (.scratch, p.dbase, p.dsize)] else []
      | .error _ => [])
  | _, _, _ => []

/-- The ranges of XFORM (R292 to R294): its records, and as far as they can be read and are valid the two boxes, each by its own record,
with what stands beside them. -/
def JEnv.xformRanges (v : JEnv) : List SpRange :=
  let j := v.j
  let op := j.sub.toNat % 16
  let layoutAt (x : Nat) : Option Layout := match v.read .generic x 64 with | .ok bs => layoutOf (ofBytes bs) | .error _ => none
  let a := if op = 7 then none else layoutAt j.src.b.toNat
  let b := if op = 8 then none else layoutAt j.src.a.toNat
  let idx (i : Nat) : Int := match v.read .generic (j.paramAddr 0 + 4 * i) 4 with | .ok bs => (ofBytes bs : Nat) | .error _ => 0
  let n (y : Layout) : Nat := if isYk y.ty then 1 else match op with
    | 2 => blockLen y.ty
    | 4 => if j.param 0 % 2 = 1 then 1 else 2
    | 5 => 4
    | _ => 1
  (if op = 7 then [] else [(.generic, j.src.b.toNat, 64)]) ++ (if op = 8 then [] else [(.generic, j.src.a.toNat, 64)])
    ++ (match a with
      | some y => y.reads ((boxIdx y.box).map (fun i => if op = 6 then (j.srcAt i).set 1 (idx (nth4 i 1)) else j.srcAt i))
      | none => [])
    ++ (match b with
      | some y => if op = 7 then [] else y.writes (n y) (((boxIdx y.box).filter (fun i => nth4 i 0 % n y = 0)).map j.dstAt)
      | none => [])
    ++ v.sideRanges op a b

/-- The first address of a range at which the issuing core's scratch has no allocation of the job's workgroup (R262). -/
def JEnv.runSpad (v : JEnv) (fuel : Nat) (sp : Space) (a n : Nat) : Option Nat :=
  match fuel with
  | 0 => none
  | k + 1 =>
    if n = 0 then none
    else match v.p.place v.j.w v.j.src sp a false with
      | .spad o => some o
      | _ => let m := min n (128 - a % 128); JEnv.runSpad v k sp (a + m) (n - m)

/-- SPAD of a descriptor, judged on every range that it names, whether or not the job would end with ERR 1 (R289, R290). -/
def JEnv.spadOf (v : JEnv) : Option Nat :=
  (if v.j.xform then v.xformRanges else v.cpyRanges).findSome? (fun r => v.runSpad (r.2.2 / 128 + 2) r.1 r.2.1 r.2.2)

end Sys2Proof.Machine
end

