-- ==== Sys2Proof/Machine/EngineOps.lean ====
section
/-! DEFINITION. CPY and XFORM, and what the engines do with their jobs (R249 to R253, R289 to R297). -/

namespace Sys2Proof.Machine

/-- A job's surroundings: its addresses resolve with its own workgroup at its warp's slot, whose warp may have exited since (R41); what it
reads is what stands in the machine, that warp's registers with it (R291). -/
def State.jobEnv (s : State) (j : Job) (dry : Bool) : JEnv :=
  let x := { Warp.empty with ctx := j.ctx, wg := 2 ^ 60 }
  ⟨s, { s with warps := nmapSet s.warps j.w x, wgs := nmapSet s.wgs (2 ^ 60) j.home }, j, dry⟩

/-- An engine of the job's world works on it: as many of the stack's twelve as there are come before it in acceptance order (R251, R289,
R392). -/
def State.jobActive (s : State) (j : Job) : Bool :=
  let sec (c : Nat) : Bool := (s.ctx c).secure
  decide ((s.jobs.filter (fun e => e.2.stack = j.stack && decide (e.2.order < j.order) && sec e.2.ctx = sec j.ctx)).length <
    ((List.range 12).filter (fun k => s.blockServes (.engine j.stack k) j.ctx)).length)

/-- The jobs that wait in a stack's queue: those that no engine works on (R289). -/
def State.jobsQueued (s : State) (stack : Nat) : Nat := (s.jobs.filter (fun e => e.2.stack = stack && !s.jobActive e.2)).length

def State.setJob (s : State) (id : Nat) (j : Job) : State := { s with jobs := nmapSet s.jobs id j }

/-- The context of an agent that broke the worlds ends (R392). -/
def State.secvEnd (s : State) (c w : Nat) : State := s.fatalEnd c (fatalInfoOf w 0 0 .secv 0 0 0)

/-- The runs of targets that updates write (R249, R251). -/
def updateRuns (us : List Update) : List (Nat × Nat) := (us.flatMap (·.2)).map (fun p => (p.1, p.2.length))

/-- The scratch granules that an update touches, by core × 2^16 + granule, each with whether it is reached through the window. -/
def updateGranules (u : Update) : List (Nat × Bool) :=
  u.2.flatMap (fun p =>
    let x := p.1 - 2 ^ 61
    if 2 ^ 61 ≤ p.1 && decide (x % 2 ^ 24 < 2 ^ 20) && !p.2.isEmpty then
      (List.range ((x % 2 ^ 24 + p.2.length - 1) / 16 + 1 - x % 2 ^ 24 / 16)).map (fun k =>
        (x % 2 ^ 40 / 2 ^ 24 * 2 ^ 16 + x % 2 ^ 24 / 16 + k, decide (2 ^ 40 ≤ x)))
    else [])

/-- A granule that an engine job reaches set full or empty; through the window only where its owner tag is the context's (R404). -/
def State.jobGranule (s : State) (ctx : Nat) (full : Bool) (g : Nat × Bool) : State :=
  let cid := g.1 / 2 ^ 16
  let o := 16 * (g.1 % 2 ^ 16)
  if g.2 && s.tagAt (.sram cid o true) ≠ some ctx then s else s.setFe cid o full

/-- The rank of a job in the reduction it has joined or would join, when its issuer is a live member. -/
def State.redRank (s : State) (j : Job) : Option (Nat × McGroup × Nat) :=
  let key := groupKey j.ctx (j.param 0 % 256)
  match nmapFind s.groups key with
  | none => none
  | some g => (g.live.find? (fun m => m.wg = j.wg && m.cid = j.cid)).map (fun m => (key, g, m.rank))

/-- A member's job of a reduction has ended without a part in it: the others do not wait for it (R290, R296). -/
def State.spendRed (s : State) (j : Job) : State :=
  if j.xform && j.sub.toNat % 16 = 9 && !j.started then
    match s.redRank j with
    | none => s
    | some (key, g, r) => { s with groups := nmapSet s.groups key { g with spent := insertNat r g.spent } }
  else s

/-- A job ended by a stop, or parked on it (R290, R392, R399, R429); a parked one owns the lines of its destination (R249). -/
def State.stopJob (s : State) (id : Nat) (j : Job) (e : JStop) : State :=
  match e with
  | .err code cls a =>
    let s1 := (s.spendRed j).setJob id { j with err := code, started := true, out := [], owns := [], fault := none }
    if code = 3 then s1.reportConsumed j.ctx cls a (s.submitOf j.home) (s.whereOf j.w) else s1
  | .spad _ => (s.spendRed j).setJob id { j with err := 2, started := true, out := [], owns := [], fault := none }
  | .secv => s.secvEnd j.ctx j.w
  | .park va kind level en => (s.setJob id { j with fault := some (va, kind) }).addFault j.ctx .job va kind level en (s.whereOf j.w)

/-! ## Collective reductions -/

/-- The records of a reduction as numbers: those that the job has read, or what stands there now. -/
def JEnv.redBits (v : JEnv) : JRes (Nat × Nat) :=
  match v.j.recs with
  | some p => .ok p
  | none => do
    let a ← v.read .generic v.j.src.b.toNat 64
    let b ← v.read .generic v.j.src.a.toNat 64
    .ok (ofBytes a, ofBytes b)

/-- The records of a reduction: source and destination, of one type and box (R294). -/
def JEnv.redRecs (v : JEnv) : JRes (Layout × Layout) := do
  let (x, y) ← v.redBits
  let a ← match layoutOf x with | some r => .ok r | none => .error (.err 1 0 0)
  let b ← match layoutOf y with | some r => .ok r | none => .error (.err 1 0 0)
  if a.ty = b.ty && [Ty.f32, .f16, .bf16, .i32, .n32].contains a.ty && b.sp ≠ .constant && boxIs b a.box && v.j.param 0 / 2 ^ 8 % 4 ≠ 3
  then .ok (a, b) else .error (.err 1 0 0)

/-- The updates of a reduction's destination box with zeros for its values: where it writes. -/
def JEnv.redFrame (v : JEnv) : JRes (List Update) := do
  let (a, b) ← v.redRecs
  v.updates ((boxIdx a.box).foldl (fun (bm : BitMap) i => putIn bm b (v.j.dstAt i) 0) [])

/-- The destination bytes that a job names, as far as its descriptor and records can be read and its destination is translated now. -/
def State.jobFrame (s : State) (j : Job) : List Update :=
  let v := s.jobEnv j true
  match if j.xform && j.sub.toNat % 16 = 9 then v.redFrame else v.plan with
  | .ok us => us
  | .error _ => []

/-- The lines of its destination that a job takes while its updates are not worked out yet (R249). -/
def State.takeLines (s : State) (j : Job) : Job := { j with owns := updateRuns (s.jobFrame j) }

/-- Whether every live member of a group has its own job of a reduction outstanding (R297). -/
def State.redAll (s : State) (j : Job) : Bool :=
  match s.redRank j with
  | none => false
  | some (_, g, _) => g.live.all (fun m => s.jobs.any (fun e =>
      e.2.xform && e.2.sub.toNat % 16 = 9 && e.2.ctx = j.ctx && e.2.param 0 % 256 = j.param 0 % 256 && e.2.wg = m.wg && e.2.cid = m.cid))

/-- A reduction that starts reads its records and waits for its group; an issuer that is no live member ends with ERR 4 (R296). One that was combined before a
pre-emption, and that a member has completed since, writes its result again; otherwise all its members run it again (R297). -/
def State.startRed (s : State) (id : Nat) (j : Job) : State :=
  if !j.redo.isEmpty && !s.redAll j then s.setJob id { j with out := j.redo, started := true, fault := none }
  else match (s.jobEnv j false).redBits, (s.jobEnv j false).redRecs with
  | .error e, _ | .ok _, .error e => s.stopJob id j e
  | .ok p, .ok _ =>
    match s.redRank j with
    | none => s.stopJob id j (.err 4 0 0)
    | some (key, g, r) =>
      { s with groups := nmapSet s.groups key { g with spent := g.spent.filter (· ≠ r) } }.setJob id
        { j with red := some (j.param 0 % 256, g.gen, r), recs := some p, fault := none, redo := [] }

/-- A job starts: it takes the lines of its destination, its sources are read and its updates worked out (R249, R252). -/
def State.startJob (s : State) (id : Nat) : State :=
  match nmapFind s.jobs id with
  | none => s
  | some j0 =>
    let j := if j0.started || j0.red.isSome then j0 else s.takeLines j0
    if j.started || j.red.isSome then s
    else if j.xform && j.sub.toNat % 16 = 9 then s.startRed id j
    else match (s.jobEnv j false).plan with
      | .ok us => { s.setJob id { j with out := us, owns := [], started := true, fault := none } with free := s.free + 2 ^ 70 }
      | .error e => s.stopJob id j e

/-- An integer combined as a collective reduction does (R296). -/
def redInt (t : Ty) (op : Nat) (xs : List (Option Nat)) : Nat :=
  let vs := xs.filterMap id |>.map (intOf t)
  typeBits t (match vs with
    | [] => 0
    | v :: r => r.foldl (fun a b => match op with | 0 => a + b | 1 => min a b | _ => max a b) v)

/-- One element combined over the ranks, ascending; departed ranks are absent (R102, R296). -/
def redElem (t : Ty) (op : Nat) (xs : List (Option Nat)) : Nat :=
  if t = .i32 || t = .n32 then redInt t op xs
  else
    let n := log2Up xs.length
    let pad := xs ++ List.replicate (2 ^ n - xs.length) none
    let r := treeRoot t op false n (pad.map (fun x => ⟨x, 0⟩))
    (rootRes t (r.x.getD 0)).bits

/-- A member's job in a reduction: its number, itself, its records. -/
structure RedMember where
  id : Nat
  j : Job
  rank : Nat
  a : Layout
  b : Layout
  deriving DecidableEq, Repr

/-- One member's source box in the order of its indices. -/
def RedMember.source (m : RedMember) (s : State) : JRes (List Nat) :=
  (boxIdx m.a.box).foldlM (fun (acc : List Nat) i =>
    match (s.jobEnv m.j false).elem m.a (m.j.srcAt i) with
    | .ok x => .ok (acc ++ [x])
    | .error e => .error e) []

/-- The updates of one member's destination for the combined elements. -/
def RedMember.updates (m : RedMember) (s : State) (rs : List (List Nat × Nat)) : JRes (List Update) :=
  (s.jobEnv m.j false).updates (rs.foldl (fun (bm : BitMap) e => putIn bm m.b (m.j.dstAt e.1) e.2) [])

/-- The first member whose own accesses stop, with what stopped them (R290, R296). -/
def redStop {α : Type} (f : RedMember → JRes α) (ms : List RedMember) : Option (RedMember × JStop) :=
  ms.findSome? (fun m => match f m with | .ok _ => none | .error e => some (m, e))

/-- The combined elements of a reduction by box index, from the members' sources by rank. -/
def redResult (s : State) (n op : Nat) (t : Ty) (box : List Nat) (ms : List RedMember) : List (List Nat × Nat) :=
  let xs : List (Nat × List Nat) := ms.map (fun m => (m.rank, match m.source s with | .ok x => x | .error _ => []))
  ((boxIdx box).zipIdx).map (fun e =>
    (e.1, redElem t op ((List.range n).map (fun r => (xs.find? (fun p => p.1 = r)).bind (fun p => p.2[e.2]?)))))

/-- The jobs that wait for a group's reduction, with their records. -/
def State.redMembers (s : State) (ctx gid gen : Nat) : List RedMember :=
  s.jobs.filterMap (fun e =>
    match e.2.red with
    | some (g, k, r) =>
      if e.2.ctx = ctx && g = gid && k = gen && !e.2.started then
        match (s.jobEnv e.2 false).redRecs with
        | .ok (a, b) => some ⟨e.1, e.2, r, a, b⟩
        | .error _ => none
      else none
    | none => none)

/-- The member of the lowest rank. -/
def redFirst (ms : List RedMember) : Option RedMember :=
  ms.foldl (fun (a : Option RedMember) m => match a with | some x => if m.rank < x.rank then some m else a | none => some m) none

/-- Whether every live member's job has arrived, or ended before it could take part, and none is parked (R290, R296). -/
def State.redReady (s : State) (ctx gid : Nat) : Bool :=
  match nmapFind s.groups (groupKey ctx gid) with
  | none => false
  | some g =>
    let ms := s.redMembers ctx gid g.gen
    !ms.isEmpty && !ms.any (fun m => m.j.fault.isSome) && g.live.all (fun m => g.spent.contains m.rank || ms.any (fun x => x.rank = m.rank))

/-- The collective engine combines the members' jobs and has each one's updates ready (R296); a job whose box, type or operation is
not that of the lowest rank ends with ERR 4 and takes no part, and one whose member has left counts as departed. A member whose own box
cannot be accessed is parked, or ends, alone (R290). -/
def execCollectiveReduction (ctx gid : Nat) (s : State) : Out :=
  .next (match nmapFind s.groups (groupKey ctx gid) with
    | none => s
    | some g =>
      if !s.redReady ctx gid then s
      else
        let all := s.redMembers ctx gid g.gen
        match redFirst all with
        | none => s
        | some f =>
          let op := f.j.param 0 / 2 ^ 8 % 4
          let same (m : RedMember) : Bool := boxIs m.a f.a.box && m.a.ty = f.a.ty && m.j.param 0 / 2 ^ 8 % 4 = op
          let live (m : RedMember) : Bool := g.live.any (fun x => x.rank = m.rank)
          let ms := all.filter (fun m => same m)
          let srcs := ms.filter live
          match redStop (fun m => m.source s) srcs with
          | some (m, e) => s.stopJob m.id m.j e
          | none =>
            let rs := redResult s g.n op f.a.ty f.a.box srcs
            match redStop (fun m => m.updates s rs) ms with
            | some (m, e) => s.stopJob m.id m.j e
            | none =>
              let s1 := (all.filter (fun m => !same m)).foldl (fun (t : State) m => t.stopJob m.id m.j (.err 4 0 0)) s
              let s2 := ms.foldl (fun (t : State) m =>
                let us := match m.updates s rs with | .ok us => us | .error _ => []
                t.setJob m.id { m.j with out := us, owns := [], redo := us, started := true, fault := none }) s1
              { s2 with groups := nmapModify s2.groups (groupKey ctx gid) (fun g => { g with spent := [] }) })

/-! ## Issue -/

/-- CPY and XFORM for their warp (R289): the scratch ranges judged, then acceptance, which is a release at fabric scope (R252). -/
def perfEngine (xform : Bool) (f : RForm) (s : State) (o : Op) (l : Nat) : State × Perf :=
  let r := opRec o l
  let cid := warpCid o.w
  let x := s.warp o.w
  let j : Job :=
    { ctx := x.ctx, stack := cidStack cid, cid := cid, w := o.w, src := r, xform := xform, sub := f.sub, out := [], err := 0, done := 0,
      red := none, scope := scopeOfCode (subBits f 7 5), started := false, fault := none, wg := x.wg, home := s.wgOf o.w, owns := [], order := 0,
      redo := [], recs := none }
  if xform && (r.a.toNat % 64 ≠ 0 || r.b.toNat % 64 ≠ 0) then
    (s, .trap .align 0 (if r.a.toNat % 64 ≠ 0 then r.a else r.b))
  else match (s.jobEnv j true).spadOf with
    | some a => (s, .trap .spad 0 (BitVec.ofNat 64 a))
    | none =>
      if 64 ≤ s.jobsQueued j.stack then (s, .wait .engineQueue 0)
      else if s.releaseHeld cid .fabric then (s, .wait .release 0)
      else
        let s1 := { (s.releaseAt cid .fabric).setJob o.seq { j with order := s.serial + 1 } with serial := s.serial + 1 }
        (s1.startJob o.seq, .accept)

/-- The operands of an engine instruction, with the run of registers that one field names and, above it, the code of %fpctl[2:0] (R59). -/
def slotsEngine (f : RForm) (run : Opnd) (n : Nat) (s : State) (c : Rd) : LaneRec :=
  { slotsR f .n64 .n64 .n32 s c with data := s.vRun c run n + 2 ^ (32 * n) * ((s.warp c.w).fpctl.toNat % 8) }

/-- CPY (R291): SB is a quad followed by one register with .cdc. -/
def opCpy (f : RForm) : LongOp :=
  { pre := roleCause .copy, slots := slotsEngine f f.sb (if f.sub.getLsbD 0 then 5 else 2), pend := fun s c => pendOf (s.inHandler c.w c.l) f.dst c.l 1
    once := true, ord := { mem := true, rel := true }, late := true, perf := perfEngine false f }

def execCpy (h : Hdr) (f : RForm) (s : State) : Out := .next (issueLong (.cpy h f) h (opCpy f) s)

/-- XFORM (R294): SC names twelve registers. -/
def opXform (f : RForm) : LongOp :=
  { pre := roleCause .copy, slots := slotsEngine f f.sc 12, pend := fun s c => pendOf (s.inHandler c.w c.l) f.dst c.l 1, once := true
    ord := { mem := true, rel := true }, late := true, perf := perfEngine true f }

def execXform (h : Hdr) (f : RForm) (s : State) : Out := .next (issueLong (.xform h f) h (opXform f) s)

/-! ## Progress -/

/-- The same storage of a core reached the other way: through the window, or as the issuing core's own. -/
def otherRoute (t : Nat) : Nat := if t < 2 ^ 61 then t else if t < 2 ^ 61 + 2 ^ 40 then t + 2 ^ 40 else t - 2 ^ 40

/-- Whether a job accepted before a place in acceptance order has still to write a line of a run of targets, in device or host memory or on
chip (R251). -/
def State.ownedBefore (s : State) (order t n : Nat) : Bool :=
  let hit (f : Nat → Nat → Bool) : Bool := f t n || f (otherRoute t) n
  s.jobs.any (fun e => decide (e.2.order < order) && hit (jobOwns e.2)) || s.cuts.any (fun e => decide (e.2.order < order) && hit (cutOwns e.2))

/-- Whether a job accepted earlier still has to write a line of an update (R251). -/
def State.updateBlocked (s : State) (j : Job) (u : Update) : Bool := u.2.any (fun p => s.ownedBefore j.order p.1 p.2.length)

/-- Bytes written at a target (R249, R291, R404). -/
def State.writeTarget (s : State) (ctx t : Nat) (bs : List Byte) : State :=
  if t < 2 ^ 60 then s.writeHome t bs
  else if t < 2 ^ 61 then s.writeHost (t - 2 ^ 60) bs
  else
    let x := t - 2 ^ 61
    let win : Bool := decide (2 ^ 40 ≤ x)
    let cid := x % 2 ^ 40 / 2 ^ 24
    let o := x % 2 ^ 24
    if o < 2 ^ 20 then
      if win && s.tagAt (.sram cid o true) ≠ some ctx then s.countDrop cid else s.sramWrite cid o bs
    else if s.tagAt (.view cid o) ≠ some ctx then s.countDrop cid
    else (s.viewWrite cid o bs).wakeCore cid

/-- One update written: each granule of scratch is set full with the last byte of the job that lands in it (R289); `rest` are the updates
to come. -/
def State.writeUpdate (s : State) (ctx : Nat) (u : Update) (rest : List Update) : State :=
  let later := rest.flatMap updateGranules
  let s1 := u.2.foldl (fun (t : State) p => t.writeTarget ctx p.1 p.2) s
  ((updateGranules u).filter (fun g => !later.contains g)).foldl (fun (t : State) g => t.jobGranule ctx true g) s1

/-- The next update of a job that an engine works on (R250, R251, R289). -/
def execEngineLineWrite (id : Nat) (s : State) : Out :=
  .next (match nmapFind s.jobs id with
    | none => s
    | some j =>
      match j.out with
      | [] => s
      | u :: rest =>
        if !s.jobActive j || s.updateBlocked j u then s
        else
          let s1 := s.writeUpdate j.ctx u rest
          s1.setJob id { j with out := rest, done := j.done + u.1 })

/-- The status word (R290). -/
def Job.status (j : Job) : Word := BitVec.ofNat 32 (j.err * 2 ^ 29 + (if j.err = 1 then 0 else j.done))

/-- The writes of a value to the register that an accepted instruction left pending. -/
def statusWrites (o : Op) (x : Word) : List RegWrite :=
  o.pend.filterMap (fun p => match p with
    | .s n => some (.s n x)
    | .hs n => some (.hs n x)
    | _ => none)

/-- An accepted instruction's registers written, and the instruction over (R46); nothing when its warp has exited (R41). -/
def State.endAccepted (s : State) (id : Nat) (ws : Op → List RegWrite) : State :=
  match nmapFind s.ops id with
  | none => s
  | some o => { (s.applyWrites o.w (ws o)).wakeCore (warpCid o.w) with ops := nmapErase s.ops id }

/-- A parked job tried again, or ended with ERR 2 (R290, R400). -/
def State.replyJob (s : State) (fail : Bool) (id : Nat) : State :=
  match nmapFind s.jobs id with
  | none => s
  | some j =>
    if j.fault.isNone then s
    else if fail then s.stopJob id j (.err 2 0 0)
    else (s.setJob id { j with fault := none }).startJob id

/-- A job abandoned at a pre-emption: it is issued again from its descriptor at the resume, it owns no line, and the granules of scratch in
its destination that it has not written are set empty (R253, R297); those of one that is parked or waits for its group too. -/
def State.abandonJob (s : State) (id : Nat) : State :=
  match nmapFind s.jobs id with
  | none => s
  | some j =>
    let todo := if j.started then j.out else s.jobFrame j
    let s1 := (todo.flatMap updateGranules).foldl (fun (t : State) g => t.jobGranule j.ctx false g) s
    s1.setJob id { j with out := [], err := 0, done := 0, red := none, owns := [], started := false, fault := none, recs := none }

/-- The jobs that have still to work out their updates take the lines of their destinations as they are translated by now (R249). -/
def State.retakeJobs (s : State) : State :=
  { s with jobs := s.jobs.map (fun (e : Nat × Job) => (e.1, if e.2.started then e.2 else s.takeLines e.2)) }

end Sys2Proof.Machine
end

