-- ==== Sys2Proof/Machine/MatrixOps.lean ====
section
/-! DEFINITION. The matrix engine: reservations, loads of the loft, LDT4, MMA and MMAQ, and accumulator moves (R146 to R177). -/

namespace Sys2Proof.Machine

/-! ## Reservations -/

/-- The type of B that a code and a BLK name, when they form a pair of R158. -/
def resvTy (code blk : Nat) : Option Ty :=
  match tyOfCode code with
  | none => none
  | some t =>
    match blk with
    | 0 => if [Ty.f16, .bf16, .i8, .n8, .e4m3, .e5m2, .e3m2, .e2m3, .e2m1].contains t then some t else none
    | 1 => if isYk t then some t else none
    | 2 => if [Ty.e4m3, .e5m2, .e3m2, .e2m3, .e2m1, .mxi8].contains t then some t else none
    | _ => none

/-- Bytes of a strip of B (R156). -/
def stripBytes (t : Ty) (sparse : Nat) : Nat := mxL t * elemBits t / 8 / 2 ^ sparse

/-- Scale bytes of a strip (R156). -/
def stripScale (blk : Nat) : Nat := match blk with | 0 => 0 | 1 => 2 | _ => 1

/-- Index bytes of a strip (R156). -/
def stripIndex (t : Ty) (sparse : Nat) : Nat := match sparse with | 0 => 0 | 1 => mxL t / 8 | _ => mxL t / 16

/-- K-blocks that a reservation holds (R156). -/
def resvKb (r : Resv) : Nat := r.size * 256 / (64 * stripBytes r.ty r.sparse)

/-- A loft record (R157, R158): the reservation it makes in an allocation of `lim` bytes, or the sub-cause of LOFT. DESIGN CHOICE
(log entry 72): a record with an invalid field gives 0x01 even where an offset or an area is bad as well, and a SIZE of 0 or above
1,024 counts as an invalid field. -/
def loftRecord (x lim : Nat) : Except Nat Resv :=
  let blk := bitsAt x 37 2
  let sparse := bitsAt x 39 2
  let size := bitsAt x 20 12
  match resvTy (bitsAt x 32 5) blk with
  | none => .error 1
  | some t =>
    let r : Resv :=
      { offset := bitsAt x 0 20, size := size, ty := t, blk := blk, sparse := sparse, scaleOfs := bitsAt x 64 18, indexOfs := bitsAt x 96 18 }
    if bitsAt x 114 14 ≠ 0 ∨ bitsAt x 82 14 ≠ 0 ∨ bitsAt x 44 20 ≠ 0 ∨ bitsAt x 41 3 ≠ 0 ∨ sparse = 3 ∨ (isYk t ∧ sparse ≠ 0)
        ∨ size = 0 ∨ 1024 < size ∨ (sparse = 0 ∧ r.indexOfs ≠ 0) ∨ (blk = 0 ∧ r.scaleOfs ≠ 0) then .error 1
    else
      let kb := resvKb r
      if r.offset % 256 ≠ 0 ∨ r.scaleOfs % 64 ≠ 0 ∨ r.indexOfs % 64 ≠ 0 ∨ lim < r.offset + size * 256
          ∨ (blk ≠ 0 ∧ lim < r.scaleOfs + kb * 64 * stripScale blk)
          ∨ (sparse ≠ 0 ∧ lim < r.indexOfs + kb * 64 * stripIndex t sparse) then .error 2
      else .ok r

/-- The part of a workgroup on a warp's core changed. -/
def State.modWgCore (s : State) (w : Nat) (f : WgCore → WgCore) : State :=
  { s with wgs := nmapModify s.wgs (s.warp w).wg (fun g =>
      { g with cores := g.cores.map (fun c => if c.cid = warpCid w then f c else c) }) }

/-- LRES for its warp (R162). -/
def perfLres (f : RForm) (s : State) (o : Op) (l : Nat) : State × Perf :=
  let r := opRec o l
  let c := s.wgCoreOf o.w
  let a := (r.a.truncate 32 : Word).toNat
  if a % 16 ≠ 0 then (s, .trap .align 0 (BitVec.ofNat 64 a))
  else match s.padRead (s.whoOf o) c a 16 with
    | (s1, .error e) => (s1, e.perf)
    | (s1, .ok bs) =>
      match loftRecord (ofBytes bs) c.lsize with
      | .error sub => (s1, .trap .loft sub 0)
      | .ok q =>
        match (List.range 16).find? (fun k => (nmapFind c.resv k).isNone) with
        | none => (s1, .trap .loft 3 0)
        | some k =>
          (s1.modWgCore o.w (fun c => { c with resv := nmapSet c.resv k q }),
            .done ((lanesOf o.lanes).flatMap (fun j => dstWords r.hm f.dst j [BitVec.ofNat 32 k])))

def opLres (f : RForm) : LongOp :=
  { slots := slotsR f .b32 .b32 .b32, pend := fun s c => pendOf (s.inHandler c.w c.l) f.dst c.l 1, once := true
    pipe := .x, ord := { mem := true }, perf := perfLres f }

/-- LRES (R162). -/
def execLres (h : Hdr) (f : RForm) (s : State) : Out := .next (issueLong (.lres h f) h (opLres f) s)

/-- A held reservation of a workgroup's part, by number. -/
def WgCore.held (c : WgCore) (k : Nat) : Option Resv := if 16 ≤ k then none else nmapFind c.resv k

/-- Whether an instruction other than LREL that names a reservation of a workgroup's part on a core is outstanding (R163, R164);
`mma` selects the matrix instructions among them. -/
def State.resvBusy (s : State) (wg cid k : Nat) (mma : Option Bool) : Bool :=
  s.ops.any (fun e => e.2.resv = some k && warpCid e.2.w = cid && (s.warp e.2.w).wg = wg
    && (match mma with | none => true | some b => e.2.mma.isSome == b))

/-- LREL for its warp (R163). -/
def perfLrel (_ : RForm) (s : State) (o : Op) (l : Nat) : State × Perf :=
  let k := ((opRec o l).a.truncate 32 : Word).toNat
  match (s.wgCoreOf o.w).held k with
  | none => (s, .trap .loft 4 0)
  | some _ =>
    if s.resvBusy (s.warp o.w).wg (warpCid o.w) k none then (s, .wait .sliceQueue 0)
    else (s.modWgCore o.w (fun c => { c with resv := nmapErase c.resv k }), .done [])

def opLrel (f : RForm) : LongOp := { slots := slotsR f .n32 .b32 .b32, once := true, pipe := .x, perf := perfLrel f }

/-- LREL (R163). -/
def execLrel (h : Hdr) (f : RForm) (s : State) : Out := .next (issueLong (.lrel h f) h (opLrel f) s)

/-- The value of LSTAT for a query (R164). -/
def State.lstat (s : State) (w q : Nat) : Nat :=
  let c := s.wgCoreOf w
  let g := (s.warp w).wg
  let cid := warpCid w
  let bit (b : Bool) (k : Nat) : Nat := if b then 2 ^ k else 0
  if q < 16 then
    match c.held q with
    | none => 0
    | some r =>
      1 + bit (s.resvBusy g cid q (some false)) 1 + bit (s.resvBusy g cid q (some true)) 2 + r.size % 2 ^ 12 * 2 ^ 8 + tyCode r.ty * 2 ^ 20
        + r.blk * 2 ^ 25 + r.sparse * 2 ^ 27
  else if q = 16 then (List.range 16).foldl (fun a k => a + bit (c.held k).isSome k) 0
  else if q = 17 then
    (List.range 32).foldl (fun a k =>
      a + bit (decide (k < c.accn) && s.ops.any (fun e => e.2.pend.contains (.tile cid (c.acc0 + k)))) k) 0
  else if q = 18 then
    match (s.warp w).latchA with
    | none => 0
    | some a => 1 + tyCode a.ty * 2 + bit a.block 6
  else 0

/-- LSTAT for its warp (R164). -/
def perfLstat (f : RForm) (s : State) (o : Op) (l : Nat) : State × Perf :=
  let r := opRec o l
  let d := BitVec.ofNat 32 (s.lstat o.w (r.a.truncate 32 : Word).toNat)
  (s, .done ((lanesOf o.lanes).flatMap (fun j => dstWords r.hm f.dst j [d])))

def opLstat (f : RForm) : LongOp :=
  { slots := slotsR f .b32 .b32 .b32, pend := fun s c => pendOf (s.inHandler c.w c.l) f.dst c.l 1, once := true, pipe := .x, perf := perfLstat f }

/-- LSTAT (R164). -/
def execLstat (h : Hdr) (f : RForm) (s : State) : Out := .next (issueLong (.lstat h f) h (opLstat f) s)

/-! ## LLD -/

/-- One 16-byte unit of an LLD (R165): `fe` is the code, and `land` the loft offset that receives it. -/
def State.lldUnit (s : State) (o : Op) (r : LaneRec) (fe ea land : Nat) : State × Perf :=
  let cid := warpCid o.w
  match s.genericAddr o.w r.lane r.hm ea with
  | .here t =>
    if fe ≠ 0 && s.feHolds (s.warp o.w).ctx t true then (s, .wait .fullEmpty ea)
    else match s.access ⟨(s.warp o.w).ctx, cid, true⟩ t ea 16 none with
      | (s1, .ok bs) =>
        let s2 := s1.loftWrite cid land bs
        (if fe = 2 then s2.feThrough (s.warp o.w).ctx t false else s2, .done [])
      | (s1, a) => (s1, a.perf)
  | _ => (s, .trap .prot 0 (BitVec.ofNat 64 ea))

/-- The units of an LLD in ascending order from the one reached; the count reached is kept in the record (R165). -/
def State.lldRun (s : State) (o : Op) (r : LaneRec) (fe ea land i : Nat) (n : Nat) : State × Nat × Perf :=
  match n with
  | 0 => (s, i, .done [])
  | k + 1 =>
    match s.lldUnit o r fe (ea + 16 * i) (land + 16 * i) with
    | (s1, .done _) => State.lldRun s1 o r fe ea land (i + 1) k
    | (s1, p) => (s1, i, p)

/-- The first cause of an LLD's source places (R165). -/
def State.lldCause (s : State) (o : Op) (r : LaneRec) (fe ea n : Nat) : Option (Cause × Nat × BitVec 64) :=
  let ps := (List.range n).map (fun i => (ea + 16 * i, s.genericAddr o.w r.lane r.hm (ea + 16 * i)))
  let pick (f : Place → Bool) (c : Cause) : Option (Cause × Nat × BitVec 64) :=
    (ps.find? (fun p => f p.2)).map (fun p => (c, 0, BitVec.ofNat 64 p.1))
  match pick (fun p => p = .prot) .prot with
  | some x => some x
  | none => match ps.findSome? (fun p => match p.2 with | .spad a => some a | _ => none) with
    | some a => some (.spad, 0, BitVec.ofNat 64 a)
    | none => if fe = 0 then none else pick (fun p => match p with | .here (.sram _ _ _) => false | _ => true) .feuns

/-- How the read of one unit of an LLD ends when it does not give its bytes, with its place in the order of R264: PROT, a translation fault,
SECV, POISON. A granule whose full-empty wait is still to come is judged when it is read. -/
def State.lldUnitEnd (s : State) (o : Op) (r : LaneRec) (fe ea : Nat) : Option (Nat × Perf) :=
  match s.genericAddr o.w r.lane r.hm ea with
  | .here t =>
    if fe ≠ 0 && s.feHolds (s.warp o.w).ctx t true then none
    else match (s.access ⟨(s.warp o.w).ctx, warpCid o.w, true⟩ t ea 16 none).2 with
      | .park va kind level e => some (1, .park va kind level e)
      | .trap .prot sub a => some (0, .trap .prot sub a)
      | .trap .secv sub a => some (2, .trap .secv sub a)
      | .trap c sub a => some (3, .trap c sub a)
      | _ => none
  | _ => none

/-- Of several ends the first of the lowest place. -/
def firstEnd (es : List (Nat × Perf)) : Option Perf :=
  [0, 1, 2, 3].findSome? (fun k => (es.find? (fun e => e.1 = k)).map (·.2))

/-- LLD for its warp (R165): the causes of all its source reads are judged before any of them lands. -/
def perfLld (f : RForm) (s : State) (o : Op) (l : Nat) : State × Perf :=
  let r := opRec o l
  let c := s.wgCoreOf o.w
  let ea := r.a.toNat
  let ctl := (r.c.truncate 32 : Word).toNat
  let ofs := ctl % 2 ^ 18
  let n := ctl / 2 ^ 18 + 1
  let fe := subBits f 6 5
  let k := (r.b.truncate 32 : Word).toNat
  if ea % 16 ≠ 0 then (s, .trap .align 0 r.a)
  else if ofs % 16 ≠ 0 then (s, .trap .align 0 (BitVec.ofNat 64 ofs))
  else match c.held k with
    | none => (s, .trap .loft 4 0)
    | some q =>
      if q.size * 256 < ofs + 16 * n then (s, .trap .loft 5 0)
      else match s.lldCause o r fe ea n with
        | some (cc, sub, a) => (s, .trap cc sub a)
        | none =>
          match firstEnd ((List.range (n - r.data)).filterMap (fun j => s.lldUnitEnd o r fe (ea + 16 * (r.data + j)))) with
          | some p => (s, p)
          | none =>
            let (s1, i, p) := s.lldRun o r fe ea (1024 * c.loftb + q.offset + ofs) r.data (n - r.data)
            (s1.modOp o.seq (fun o => { o with recs := o.recs.map (fun x => if x.lane = l then { x with data := i } else x) }), p)

def opLld (f : RForm) : LongOp :=
  { pre := roleCause .copy, slots := slotsR f .n64 .n32 .b32, once := true, pipe := .x, resv := fun s c => some (srcN s c .n32 f.sb)
    ord := { mem := true, wr := subBits f 6 5 ≠ 0, acq := subBits f 6 5 ≠ 0 }, perf := perfLld f }

/-- LLD (R165). -/
def execLld (h : Hdr) (f : RForm) (s : State) : Out := .next (issueLong (.lld h f) h (opLld f) s)

/-! ## Outstanding warp-wide instructions -/

/-- A warp-wide long-latency instruction executes for the lanes C (R52, R372): its record, and its one part. -/
def execWideLong (i : Instr) (h : Hdr) (op : LongOp) (s : State) (c : Rd) : State :=
  let id := s.serial + 1
  let o := newOp i h op s c.w c.pc ((encode i).getD 0) c.mask c.m id
  let o := { o with win := (lanesOf c.m).map (fun l => (l, h.la.toNat)), undo := c.undo }
  let r := performLanes op id (lanesOf o.todo) ({ s with serial := id }.setOp id o)
  if r.2.isEmpty then r.1
  else
    let back := r.2.foldl (fun (t : State) q => { t with regs := t.regs.setPc c.w q.lane c.pc })
      (r.1.applyWrites c.w (c.undo.filter (undoOf r.2)))
    back.raise c.w c.pc o.word r.2 (fun l => op.slots s { c with l := l }) none

/-- A matrix-engine instruction that is warp-wide, as an operation that signs. -/
def wideLong (i : Instr) (h : Hdr) (op : LongOp) (pre : State → Rd → Option Cause) (late : State → Rd → Option (Cause × Nat × BitVec 64)) :
    WideOp :=
  { pre := pre, slots := op.slots, late := late, long := true, exec := execWideLong i h op }

/-! ## LDT4 -/

/-- The scratch offset of byte q of lane l's quad, and of its second byte in .t4 (R167). -/
def ldt4Ofs (mode s w l q : Nat) : Nat × Nat :=
  match mode with
  | 0 => (s + l * w + q, 0)
  | 1 => (s + q * w + l, 0)
  | 2 => (s + q / 2 * w + 2 * l + q % 2, 0)
  | _ => (s + 2 * q * w + l / 2, s + (2 * q + 1) * w + l / 2)

/-- The bytes of offsets that an LDT4 reads, over all 32 lanes (R167). -/
def ldt4Span (mode s w : Nat) : List Nat :=
  dedupNat ((List.range 32).flatMap (fun l => (List.range 16).flatMap (fun q =>
    let o := ldt4Ofs mode s w l q
    if mode = 3 then [o.1, o.2] else [o.1])))

/-- The length of the range within which every byte lies (R167). -/
def ldt4Len (mode w : Nat) : Nat :=
  match mode with
  | 1 => 15 * w + 32
  | 2 => 7 * w + 64
  | _ => 31 * w + 16

/-- The causes of an LDT4 at its execution (R167, R168). -/
def lateLdt4 (f : RForm) (s : State) (c : Rd) : Option (Cause × Nat × BitVec 64) :=
  let base := srcN s c .n32 f.sa
  let w := srcN s c .n32 f.sb
  let wc := s.wgCoreOf c.w
  if base % 16 ≠ 0 then some (.align, 0, BitVec.ofNat 64 base)
  else if w % 16 ≠ 0 then some (.align, 0, BitVec.ofNat 64 w)
  else match scratchFail wc base (ldt4Len (subBits f 4 3) w) with
    | some x => some (.spad, 0, BitVec.ofNat 64 x)
    | none =>
      if subBits f 6 5 = 0 then none
      else match scratchPlace wc (warpCid c.w) base with
        | .here (.sram _ _ _) => none
        | _ => some (.feuns, 0, BitVec.ofNat 64 base)

/-- One scratch byte of an LDT4. -/
def ldt4Byte (bs : NMap Byte) (o : Nat) : Nat := ((nmapFind bs o).getD 0).toNat

/-- The sixteen bytes of a lane's quad (R167). -/
def ldt4Quad (bs : NMap Byte) (mode s w l : Nat) : List Byte :=
  (List.range 16).map (fun q =>
    let o := ldt4Ofs mode s w l q
    if mode = 3 then
      let nib (x : Nat) : Nat := ldt4Byte bs x / 2 ^ (4 * (l % 2)) % 16
      BitVec.ofNat 8 (nib o.1 + 16 * nib o.2)
    else BitVec.ofNat 8 (ldt4Byte bs o.1))

/-- Scratch bytes at a list of offsets read one by one (R167). -/
def State.padBytes (s : State) (q : Who) (c : WgCore) (os : List Nat) : Except Acc (NMap Byte) :=
  os.foldlM (fun (m : NMap Byte) o =>
    match (s.padRead q c o 1).2 with
    | .ok bs => .ok (nmapSet m o (byteAt bs 0))
    | .error a => .error a) []

/-- LDT4's one part (R167, R168): one wait for every granule, then the read. -/
def perfLdt4 (f : RForm) (s : State) (o : Op) (l : Nat) : State × Perf :=
  let r := opRec o l
  let base := (r.a.truncate 32 : Word).toNat
  let w := (r.b.truncate 32 : Word).toNat
  let c := s.wgCoreOf o.w
  let cid := warpCid o.w
  let mode := subBits f 4 3
  let fe := subBits f 6 5
  let os := ldt4Span mode base w
  let grs := dedupNat (os.map (fun x => x / 16 * 16))
  if fe ≠ 0 && grs.any (fun x => !s.feFull cid (256 * c.sbase + x)) then (s, .wait .fullEmpty base)
  else match s.padBytes (s.whoOf o) c os with
    | .error a => (s, a.perf)
    | .ok bs =>
      let s1 := if fe = 2 then grs.foldl (fun (t : State) x => t.setFe cid (256 * c.sbase + x) false) s else s
      (s1, .done ((lanesOf o.lanes).flatMap (fun j => dstWords r.hm f.dst j (wordsOf 4 (ofBytes (ldt4Quad bs mode base w j))))))

def opLdt4 (f : RForm) : LongOp :=
  { slots := fun s c => { slotsR f .n32 .n32 .b32 s c with addr := s.src c .n32 f.sa }
    pend := fun s c => pendOf (s.inHandler c.w c.l) f.dst c.l 4, once := true, pipe := .x
    ord := { mem := true, wr := subBits f 6 5 ≠ 0, acq := subBits f 6 5 ≠ 0 }, perf := perfLdt4 f }

def wideLdt4 (h : Hdr) (f : RForm) : WideOp := wideLong (.ldt4 h f) h (opLdt4 f) privInHandler (lateLdt4 f)

/-- LDT4 (R167). -/
def execLdt4 (h : Hdr) (f : RForm) (s : State) : Out := .next (issueWide (.ldt4 h f) h (cvOf f) (wideLdt4 h f) s)

/-! ## MMA and MMAQ -/

/-- The queue of a warp's matrix slice: the quarter of a core (R146). -/
def sliceOf (w : Nat) : Nat := warpCid w * 4 + warpSlot w / 16

/-- The classes of R153. -/
inductive MxClass where
  | h | e | i | q | y
  deriving DecidableEq, Repr

def mxClass (t : Ty) : MxClass :=
  match t with
  | .f16 | .bf16 => .h
  | .i8 | .n8 | .mxi8 => .i
  | .e2m1 => .q
  | .yk9 | .yk6 | .yk4 => .y
  | _ => .e

/-- Whether A's type and the opcode combine with a reservation (R153). -/
def mxCombine (block : Bool) (t : Ty) (r : Resv) : Bool :=
  if !block then
    r.blk = 0 && mxClass t ≠ .y && t ≠ .mxi8 && mxClass r.ty = mxClass t
  else
    match mxClass t with
    | .h => false
    | .e | .q => r.blk = 2 && mxClass r.ty = mxClass t
    | .i => t = .mxi8 && r.ty = .mxi8 && r.blk = 2
    | .y => r.blk = 1 && r.ty = t

/-- The loft bytes of one step: first byte and length of the data, the scales and the indices (R156). -/
def stepRanges (base : Nat) (t : Ty) (r : Resv) (step : Nat) : (Nat × Nat) × (Nat × Nat) × (Nat × Nat) :=
  let nb := mxNb t
  let area (ofs b : Nat) : Nat × Nat := (base + ofs + step * nb * 64 * b, nb * 64 * b)
  (area r.offset (stripBytes r.ty r.sparse), area r.scaleOfs (stripScale r.blk), area r.indexOfs (stripIndex r.ty r.sparse))

/-- The loft bytes of one step as they stand. -/
def State.stepBytes (s : State) (cid base : Nat) (t : Ty) (r : Resv) (step : Nat) : List Byte × List Byte × List Byte :=
  let (d, x, i) := stepRanges base t r step
  (s.loftRead cid d.1 d.2, s.loftRead cid x.1 x.2, s.loftRead cid i.1 i.2)

/-- Whether a tile or the loft bytes of a step are poisoned (R161, R427). -/
def State.mxPoison (s : State) (cid frame : Nat) (loft : Option ((Nat × Nat) × (Nat × Nat) × (Nat × Nat))) : Bool :=
  poisonHit s.mem.poison 5 16 (2 ^ 40 + (cid * 32 + frame) * 8192) 8192 ||
  match loft with
  | none => false
  | some (d, x, i) =>
    [d, x, i].any (fun r => decide (r.2 ≠ 0) && poisonHit s.mem.poison 5 16 (cid * 2 ^ 18 + r.1) r.2)

/-- The causes of MMA and MMAQ at execution (R172), then POISON. -/
def lateMma (block : Bool) (f : RForm) (s : State) (c : Rd) : Option (Cause × Nat × BitVec 64) :=
  let wc := s.wgCoreOf c.w
  let sel := srcN s c .n32 f.sb
  let k := accNum f.dst
  let step := sel / 2 ^ 16
  if wc.accn ≤ k then some (.acca, 1, 0)
  else match wc.held (sel % 16) with
    | none => some (.loft, 4, 0)
    | some r =>
      if sel / 16 % 2 ^ 12 ≠ 0 || resvKb r < (step + 1) * mxNb f.ty then some (.loft, 6, 0)
      else if !mxCombine block f.ty r then some (.loft, 7, 0)
      else if f.sub.getLsbD 4 && (match (s.warp c.w).latchA with | some a => decide (a.ty ≠ f.ty ∨ a.block ≠ block) | none => true) then
        some (.acca, 2, 0)
      else if s.mxPoison (warpCid c.w) (wc.acc0 + k) (some (stepRanges (1024 * wc.loftb) f.ty r step)) then some (.poison, 5, 0)
      else none

/-- A run of a lane's vector registers as words (R154). -/
def regRun (s : State) (c : Rd) (o : Opnd) (n : Nat) : List Word := wordsOf n (s.vRun c o n)

/-- Operand A as the lanes of C hold it, or as the latch holds it (R154, R155, R170, R171). -/
def readA (block : Bool) (f : RForm) (s : State) (c : Rd) : ARows :=
  let empty : ARows := { rows := [], scales := [], ty := f.ty, block := block }
  if f.sub.getLsbD 4 then (s.warp c.w).latchA.getD empty
  else
    { empty with
      rows := (lanesOf c.m).map (fun l => (l, regRun s (c.lane l) f.sa (mxNa f.ty)))
      scales := if block then (lanesOf c.m).map (fun l => (l, regRun s (c.lane l) f.sc (mxNs f.ty))) else [] }

/-- The words of a row as one number. -/
def rowNat (m : List (Nat × List Word)) (l : Nat) : Option Nat :=
  (m.find? (fun e => e.1 = l)).map (fun e => e.2.foldr (fun x a => x.toNat + 2 ^ 32 * a) 0)

/-- Element k of row i of A as its code and µ bit; a row not captured reads +0 (R154, R170). -/
def ARows.code (a : ARows) (i k : Nat) : Nat × Nat :=
  match rowNat a.rows i with
  | none => (0, 0)
  | some x =>
    let mu := if isYk a.ty then bitsAt ((rowNat a.scales i).getD 0) (8 * (2 * (k / 16) + 1) + k % 16 / 2) 1 else 0
    (bitsAt x (elemBits a.ty * k) (elemBits a.ty), mu)

/-- The scale of block u of row i, none where A has none (R155). -/
def ARows.scale (a : ARows) (i u : Nat) : Option Nat :=
  if !a.block then none
  else match rowNat a.scales i with
    | none => some 127
    | some x => some (bitsAt x (8 * (if isYk a.ty then 2 * u else u)) 8)

/-- The dense positions of a strip of B with the kept values' codes: two values may stand at one position, and a position that none
stands at reads +0 (R95, R96, R156). -/
def stripElems (r : Resv) (data idx : Nat) : List (Nat × Nat) :=
  let b := elemBits r.ty
  let n := mxL r.ty
  let code (q : Nat) : Nat := bitsAt data (b * q) b
  if r.sparse = 0 then (List.range n).map (fun q => (q, code q))
  else
    let two : Bool := r.sparse = 1
    (List.range (n / 4)).flatMap (fun g =>
      let kept : List (Nat × Nat) :=
        if two then [(bitsAt idx (4 * g) 2, code (2 * g)), (bitsAt idx (4 * g + 2) 2, code (2 * g + 1))]
        else [(bitsAt idx (2 * g) 2, code g)]
      let rest : List (Nat × Nat) := ((List.range 4).filter (fun p => !kept.any (fun e => e.1 = p))).map (fun p => (p, 0))
      (kept ++ rest).map (fun e => (4 * g + e.1, e.2)))

/-- Bytes of a list from an offset, as one number. -/
def natOf (bs : List Byte) (o n : Nat) : Nat := ofBytes ((bs.drop o).take n)

/-- One element of the tile after one K-block (R97 to R99, R170). -/
def mmaBlock (a : ARows) (r : Resv) (bs : List Byte × List Byte × List Byte) (i j u : Nat) (acc : Word) : Word :=
  let sb := stripBytes r.ty r.sparse
  let ns := stripScale r.blk
  let ni := stripIndex r.ty r.sparse
  let n := u * 64 + j
  let sc := natOf bs.2.1 (n * ns) ns
  let es := stripElems r (natOf bs.1 (n * sb) sb) (natOf bs.2.2 (n * ni) ni)
  let av (p : Nat) : Nat × Nat := a.code i (u * mxL r.ty + p)
  if mxClass a.ty = .i && !a.block then accStepInt acc (es.map (fun e => (intOf a.ty (av e.1).1, intOf r.ty e.2)))
  else
    let ps := es.map (fun e => (elemValue a.ty (av e.1).2 (av e.1).1, elemValue r.ty (if isYk r.ty then bitsAt sc (8 + e.1 / 2) 1 else 0) e.2))
    accStep acc ps (a.scale i u) (if r.blk = 0 then none else some (sc % 256))

/-- One element of the tile after the instruction (R170). -/
def mmaElem (a : ARows) (r : Resv) (bs : List Byte × List Byte × List Byte) (i j : Nat) (acc : Word) : Word :=
  (List.range (mxNb a.ty)).foldl (fun (x : Word) u => mmaBlock a r bs i j u x) acc

/-- Bytes that were written while the instruction was in its slice, each read old or new (R166). -/
def mixBytes (free : Nat) (old new : List Byte) : List Byte :=
  (old.zip new).zipIdx.map (fun (e : (Byte × Byte) × Nat) => if Config.freeBit (free + e.2) then e.1.1 else e.1.2)

/-- The rows of C written to the tile (R170). -/
def State.mmaWrite (s : State) (m : MmaJob) : State :=
  let (d, x, i) := s.stepBytes m.cid m.loftBase m.a.ty m.resv m.step
  let same : Bool := (d, x, i) = m.snap
  let bs := if same then m.snap else (mixBytes s.free m.snap.1 d, mixBytes (s.free + 2 ^ 20) m.snap.2.1 x, mixBytes (s.free + 2 ^ 21) m.snap.2.2 i)
  let acc := (lanesOf m.lanes).foldl (fun (t : NMap Word) r => (List.range 64).foldl (fun (t : NMap Word) j =>
    let k := accKey m.cid m.frame r j
    dmapSet 0 t k (mmaElem m.a m.resv bs r j (dmapGet 0 t k))) t) s.cores.acc
  { s with cores := { s.cores with acc := acc }, free := if same then s.free else s.free + 2 ^ 22 }

/-- LAV of a tile on which the instruction does not chain (R152). -/
def mmaLav (f : RForm) (s : State) (c : Rd) : Option (Cause × Nat × BitVec 64) :=
  let u := mmaTileUse f
  if s.ops.any (fun e => !chained c.w e.2 && e.2.w = c.w && e.2.lanes.getLsbD c.l && !e.2.accepted && s.opHits c.w c.l u e.2)
      || (s.warp c.w).wins.any (fun x => !x.mma && s.winHits c.w c.l u x) then some (.lav, 0, 0)
  else none

/-- Whether a slice's queue holds four instructions that wait (R146). -/
def State.queueFull (s : State) (q : Nat) : Bool := decide (4 ≤ (dmapGet [] s.cores.slices q).length)

def State.sliceFull (s : State) (w : Nat) : Bool := s.queueFull (sliceOf w)

/-- The oldest instruction in a slice's queue starts when the slice is free (R146). -/
def State.startSlice (s : State) (q : Nat) : State :=
  match nmapFind s.cores.running q, dmapGet [] s.cores.slices q with
  | none, id :: rest => { s with cores := { s.cores with running := nmapSet s.cores.running q id, slices := dmapSet [] s.cores.slices q rest } }
  | _, _ => s

/-- A matrix instruction executes (R170, R171): A, scales and sel are read, .keepa fills the latch, and the rest waits in its slice. -/
def execMmaWide (block : Bool) (i : Instr) (h : Hdr) (f : RForm) (s : State) (c : Rd) : State :=
  let wc := s.wgCoreOf c.w
  let cid := warpCid c.w
  let sel := srcN s c .n32 f.sb
  match wc.held (sel % 16) with
  | none => s
  | some r =>
    let a := readA block f s c
    let base := 1024 * wc.loftb
    let frame := wc.acc0 + accNum f.dst
    let job : MmaJob :=
      { cid := cid, frame := frame, a := a, resv := r, loftBase := base, step := sel / 2 ^ 16, lanes := c.m,
        snap := s.stepBytes cid base f.ty r (sel / 2 ^ 16) }
    let id := s.serial + 1
    let op : LongOp :=
      { slots := slotsR f .b32 .n32 .b32, pipe := .x, resv := fun _ _ => some (sel % 16), perf := fun s _ _ => (s, .done []) }
    let o := { newOp i h op s c.w c.pc ((encode i).getD 0) c.mask c.m id with
      win := (lanesOf c.m).map (fun l => (l, h.la.toNat)), pend := [.tile cid frame], mma := some job }
    let x := s.warp c.w
    let s1 := if f.sub.getLsbD 3 then s.setWarp c.w { x with latchA := some a } else s
    let q := sliceOf c.w
    let s2 := { s1 with serial := id }.setOp id o
    { s2 with cores := { s2.cores with slices := dmapSet [] s2.cores.slices q (dmapGet [] s2.cores.slices q ++ [id]) } }.startSlice q

/-- MMA and MMAQ as operations that sign (R146, R152, R169 to R172). -/
def wideMma (block : Bool) (i : Instr) (h : Hdr) (f : RForm) : WideOp :=
  { pre := matrixWide, wait := mmaWait f, cause := mmaLav f, slots := slotsR f .b32 .n32 .b32, full := State.sliceFull, late := lateMma block f,
    long := true, exec := execMmaWide block i h f }

/-- MMA (R170). -/
def execMma (h : Hdr) (f : RForm) (s : State) : Out := .next (issueWide (.mma h f) h (cvOf f) (wideMma false (.mma h f) h f) s)

/-- MMAQ (R170). -/
def execMmaq (h : Hdr) (f : RForm) (s : State) : Out := .next (issueWide (.mmaq h f) h (cvOf f) (wideMma true (.mmaq h f) h f) s)

/-- LRELs of a core that wait for a reservation's work (R163). -/
def State.retryLrels (s : State) (cid : Nat) : State :=
  s.ops.foldl (fun (t : State) e =>
    match e.2.instr with
    | .lrel _ f => if warpCid e.2.w = cid && (e.2.waitOf 0).1 = .sliceQueue then retryLanes (opLrel f) e.1 (lanesOf e.2.todo) t else t
    | _ => t) s

/-- The MMA or MMAQ that all its members have signed and that waits for room in a slice's queue (R146, R375). -/
def State.signedFor (s : State) (q : Nat) : Option (Nat × Sign) :=
  s.signs.find? (fun e => sliceOf (e.1 / 8) = q && s.allSigned (e.1 / 8) (e.1 % 8)
    && (match e.2.instr with | some (.mma _ _) | some (.mmaq _ _) => true | _ => false))

/-- A signed MMA or MMAQ that waited for room in its slice's queue executes (R146). -/
def State.runSigned (s : State) (q : Nat) : State :=
  match (if s.queueFull q then none else s.signedFor q) with
  | none => s
  | some (k, g) =>
    match g.instr with
    | some (.mma h f) => runWide (wideMma false (.mma h f) h f) h (k / 8) (k % 8) g s
    | some (.mmaq h f) => runWide (wideMma true (.mmaq h f) h f) h (k / 8) (k % 8) g s
    | _ => s

/-- The oldest instruction in a slice's queue starts when the slice is free, and one that waits for room in the queue enters it (R146, R173,
R387). -/
def execMatrixSliceStart (cid q : Nat) (s : State) : Out :=
  let k := cid * 4 + q
  .next ((s.startSlice k).runSigned k)

/-- The instruction in a slice writes its tile and completes (R173). -/
def execMmaCompletion (cid q : Nat) (s : State) : Out :=
  let k := cid * 4 + q
  .next (match nmapFind s.cores.running k with
    | none => s
    | some id =>
      let s1 := match nmapFind s.ops id with
        | some o => match o.mma with
          | some m => s.mmaWrite m
          | none => s
        | none => s
      let s2 := { s1 with cores := { s1.cores with running := nmapErase s1.cores.running k } }
      ((s2.modOp id (fun o => { o with todo := 0 })).completeOp id).retryLrels cid)

/-- An LLD completes (R165). -/
def execLldCompletion (id : Nat) (s : State) : Out :=
  .next (match nmapFind s.ops id with
    | some o => match o.instr with
      | .lld _ _ => (s.completeOp id).retryLrels (warpCid o.w)
      | _ => s
    | none => s)

/-! ## Accumulator moves -/

/-- Tile elements set. -/
def State.setTile (s : State) (cid frame : Nat) (es : List (Nat × Nat × Word)) : State :=
  { s with
    cores := { s.cores with acc := es.foldl (fun m e => dmapSet 0 m (accKey cid frame e.1 e.2.1) e.2.2) s.cores.acc }
    mem := { s.mem with poison := es.foldl (fun p e =>
      poisonAfter p 5 16 (2 ^ 40 + (accKey cid frame e.1 e.2.1) * 4) 4) s.mem.poison } }

/-- A tile cleared whole, with its poison marks (R174, R429). -/
def State.zeroTile (s : State) (cid frame : Nat) : State :=
  let a := accKey cid frame 0 0
  { s with
    cores := { s.cores with acc := nmapClear s.cores.acc a (a + 2048) }
    mem := { s.mem with poison := poisonAfter s.mem.poison 5 16 (2 ^ 40 + a * 4) 8192 } }

/-- ACCZ for its warp (R174). -/
def perfAccz (f : RForm) (s : State) (o : Op) (l : Nat) : State × Perf :=
  let n := ((opRec o l).a.truncate 32 : Word).toNat
  let wc := s.wgCoreOf o.w
  let k := accNum f.dst
  if n = 0 || 32 < k + n || wc.accn < k + n then (s, .trap .acca 1 0)
  else ((List.range n).foldl (fun (t : State) j => t.zeroTile (warpCid o.w) (wc.acc0 + k + j)) s, .done [])

def opAccz (f : RForm) : LongOp :=
  { pre := roleCause .matrix
    wait := acczWait f
    cause := fun s c =>
      if (List.range (acczCount f s c)).any (fun k => s.lavUse c.w c.l (acczUse f k)) then some (.lav, 0, 0) else none
    slots := slotsR f .b32 .b32 .b32
    pend := fun s c => (List.range (acczCount f s c)).map (fun k => .tile (warpCid c.w) ((s.wgCoreOf c.w).acc0 + accNum f.dst + k))
    once := true, pipe := .x, perf := perfAccz f }

/-- ACCZ (R174). -/
def execAccz (h : Hdr) (f : RForm) (s : State) : Out := .next (issueLong (.accz h f) h (opAccz f) s)

/-- The causes of a move between a tile and registers (R161, R175, R176): ACCA, then ALIGN of the column, then POISON of a tile that
is read. -/
def lateAcc (tile : Opnd) (col : RForm → State → Rd → Nat) (n : Nat) (read : Bool) (f : RForm) (s : State) (c : Rd) :
    Option (Cause × Nat × BitVec 64) :=
  let wc := s.wgCoreOf c.w
  let x := col f s c
  if wc.accn ≤ accNum tile then some (.acca, 1, 0)
  else if x % n ≠ 0 || 64 < x + n then some (.align, 0, BitVec.ofNat 64 x)
  else if read && s.mxPoison (warpCid c.w) (wc.acc0 + accNum tile) none then some (.poison, 5, 0)
  else none

/-- A tile element (R150). -/
def State.tileElem (s : State) (cid frame i j : Nat) : Word := dmapGet 0 s.cores.acc (accKey cid frame i j)

/-- ACCRD's one part (R175). -/
def perfAccrd (f : RForm) (s : State) (o : Op) (l : Nat) : State × Perf :=
  let r := opRec o l
  let col := (r.b.truncate 32 : Word).toNat
  let fr := (s.wgCoreOf o.w).acc0 + accNum f.sa
  (s, .done ((lanesOf o.lanes).flatMap (fun i =>
    dstWords r.hm f.dst i ((List.range (accN f)).map (fun q => s.tileElem (warpCid o.w) fr i (col + q))))))

def opAccrd (f : RForm) : LongOp :=
  { slots := slotsR f .b32 .b32 .b32, pend := fun s c => pendOf (s.inHandler c.w c.l) f.dst c.l (accN f), once := true, pipe := .x
    perf := perfAccrd f }

def colB32 (f : RForm) (s : State) (c : Rd) : Nat := srcN s c .b32 f.sb

def colN32 (f : RForm) (s : State) (c : Rd) : Nat := srcN s c .n32 f.sb

def wideAccrd (h : Hdr) (f : RForm) : WideOp :=
  wideLong (.accrd h f) h (opAccrd f) matrixWide (lateAcc f.sa colB32 (accN f) true f)

/-- ACCRD (R175). -/
def execAccrd (h : Hdr) (f : RForm) (s : State) : Out := .next (issueWide (.accrd h f) h (cvOf f) (wideAccrd h f) s)

/-- A tile destination pending for the lanes that write it (R160). -/
def pendTile (o : Opnd) (s : State) (c : Rd) : List PendReg :=
  if leadOf c.m = some c.l then [.tile (warpCid c.w) ((s.wgCoreOf c.w).acc0 + accNum o)] else []

/-- ACCWR's one part (R175): every lane's registers were read at execution. -/
def perfAccwr (f : RForm) (s : State) (o : Op) (l : Nat) : State × Perf :=
  let col := ((opRec o l).b.truncate 32 : Word).toNat
  let fr := (s.wgCoreOf o.w).acc0 + accNum f.dst
  let es := (lanesOf o.lanes).flatMap (fun i => ((wordsOf (accN f) (opRec o i).data).zipIdx).map (fun e => (i, col + e.2, e.1)))
  (s.setTile (warpCid o.w) fr es, .done [])

def opAccwr (f : RForm) : LongOp :=
  { slots := fun s c => { slotsR f .b32 .b32 .b32 s c with data := s.vRun c f.sa (accN f) }, pend := pendTile f.dst, once := true
    pipe := .x, perf := perfAccwr f }

def wideAccwr (h : Hdr) (f : RForm) : WideOp :=
  wideLong (.accwr h f) h (opAccwr f) matrixWide (lateAcc f.dst colB32 (accN f) false f)

/-- ACCWR (R175). -/
def execAccwr (h : Hdr) (f : RForm) (s : State) : Out := .next (issueWide (.accwr h f) h (cvOf f) (wideAccwr h f) s)

/-- What ACCOUT makes of a row's elements: codes in column order, the scale register, and the generator's state (R176). -/
structure AccOut where
  codes : List Nat
  scale : Word
  rng : Word
  deriving DecidableEq, Repr

/-- One block of an ACCOUT quantised by R93, with the lane's generator after it: under rsr a step for each element (R176). -/
def accBlock (t : Ty) (rnd : Rnd) (g : Word) (vs : List Fv) : QBlock × Word :=
  let st (k : Nat) : Word := if rnd = .rsr then rngAfter g k else g
  (quantBlock t rnd (vs.zipIdx.map (fun e => ⟨e.1, st e.2⟩)), st vs.length)

/-- ACCOUT for one row (R176): under rsr the generator steps once for each element, whatever its value (log entry 8). -/
def accOut (f : RForm) (rnd : Rnd) (g : Word) (old : Word) (xs : List Word) : AccOut :=
  let t := f.ty
  let vals := xs.map (fun x => (ffmt .f32).decode x.toNat)
  if t = .i8 || t = .n8 then
    ⟨xs.map (fun x => (BitVec.ofInt 8 (intSat t f.sat x.toInt)).toNat), old, g⟩
  else if isYk t then
    let a := accBlock t rnd g (vals.take 16)
    let b := accBlock t rnd a.2 (vals.drop 16)
    ⟨a.1.els.map (·.bits) ++ b.1.els.map (·.bits), BitVec.ofNat 32 (a.1.scale + a.1.mu * 2 ^ 8 + b.1.scale * 2 ^ 16 + b.1.mu * 2 ^ 24), b.2⟩
  else if accScaled f then
    let a := accBlock t rnd g vals
    ⟨a.1.els.map (·.bits), wordByte old (subBits f 5 4) (BitVec.ofNat 8 a.1.scale), a.2⟩
  else
    let r := xs.foldl (fun (p : List Nat × Word) x =>
      let e : ERes := FEnv.conv ⟨rnd, false, p.2⟩ t .f32 f.sat x.toNat
      (p.1 ++ [e.bits], if rnd = .rsr then rngStep p.2 else p.2)) ([], g)
    ⟨r.1, old, r.2⟩

/-- ACCOUT's one part (R176); the generators step at execution, and the registers are written at completion. -/
def perfAccout (f : RForm) (s : State) (o : Op) (l : Nat) : State × Perf :=
  let r := opRec o l
  let col := (r.b.truncate 32 : Word).toNat
  let cid := warpCid o.w
  let fr := (s.wgCoreOf o.w).acc0 + accNum f.sa
  let rnd := rndNow (s.warp o.w) f.rnd
  let outs := (lanesOf o.lanes).map (fun i =>
    (i, accOut f rnd (s.regs.getRng o.w i) ((opRec o i).c.truncate 32) ((List.range (accCols f.ty)).map (fun q => s.tileElem cid fr i (col + q)))))
  let ws := outs.flatMap (fun e =>
    dstWords r.hm f.dst e.1 (wordsOf (accRegs f.ty) (e.2.codes.foldr (fun x a => x + 2 ^ elemBits f.ty * a) 0))
      ++ (if accScaled f then dstWords r.hm f.sc e.1 [e.2.scale] else []))
  let s1 := if rnd = .rsr then outs.foldl (fun (t : State) e => t.applyWrite o.w (.rng e.1 e.2.rng)) s else s
  (s1, .done ws)

def opAccout (f : RForm) : LongOp :=
  { slots := slotsR f .b32 .n32 .b32
    pend := fun s c => pendOf (s.inHandler c.w c.l) f.dst c.l (accRegs f.ty) ++ (if accScaled f then pendOf (s.inHandler c.w c.l) f.sc c.l 1 else [])
    once := true, pipe := .x, perf := perfAccout f }

def wideAccout (h : Hdr) (f : RForm) : WideOp :=
  wideLong (.accout h f) h (opAccout f) matrixWide (lateAcc f.sa colN32 (accCols f.ty) true f)

/-- ACCOUT (R176). -/
def execAccout (h : Hdr) (f : RForm) (s : State) : Out := .next (issueWide (.accout h f) h (cvOf f) (wideAccout h f) s)

/-- The value of element q of a lane's registers (R177). -/
def accInVal (f : RForm) (data vs q : Nat) : Fv :=
  let t := f.ty
  let code := bitsAt data (elemBits t * q) (elemBits t)
  if isYk t then blockValue t (bitsAt vs (16 * (q / 16)) 8) (bitsAt vs (16 * (q / 16) + 8 + q % 16 / 2) 1) code
  else if accScaled f then blockValue t (bitsAt vs (8 * subBits f 5 4) 8) 0 code
  else elemValue t 0 code

/-- One element that ACCIN writes (R177). DESIGN CHOICE (log entry 73): with .add a scaled value beyond the .f32 range is added
exactly and the sum is rounded once, as the rule's Round(.f32, tile + x) says; it does not become infinite first. -/
def accInElem (f : RForm) (data vs q : Nat) (old : Word) : Word :=
  let add := f.sub.getLsbD 6
  if f.ty = .i8 || f.ty = .n8 then
    let x := BitVec.ofInt 32 (intOf f.ty (bitsAt data (8 * q) 8))
    if add then old + x else x
  else
    let x := accInVal f data vs q
    let y := if add then (fvAdd false ((ffmt .f32).decode old.toNat) x).v else x
    BitVec.ofNat 32 ((ffmt .f32).deliver .rne 0 false false y).bits

/-- ACCIN's one part (R177). -/
def perfAccin (f : RForm) (s : State) (o : Op) (l : Nat) : State × Perf :=
  let col := ((opRec o l).b.truncate 32 : Word).toNat
  let cid := warpCid o.w
  let fr := (s.wgCoreOf o.w).acc0 + accNum f.dst
  let es := (lanesOf o.lanes).flatMap (fun i =>
    let r := opRec o i
    (List.range (accCols f.ty)).map (fun q =>
      (i, col + q, accInElem f r.data (r.c.truncate 32 : Word).toNat q (s.tileElem cid fr i (col + q)))))
  (s.setTile cid fr es, .done [])

def opAccin (f : RForm) : LongOp :=
  { slots := fun s c => { slotsR f .b32 .n32 .b32 s c with data := s.vRun c f.sa (accRegs f.ty) }, pend := pendTile f.dst, once := true
    pipe := .x, perf := perfAccin f }

def wideAccin (h : Hdr) (f : RForm) : WideOp :=
  wideLong (.accin h f) h (opAccin f) matrixWide (lateAcc f.dst colN32 (accCols f.ty) (f.sub.getLsbD 6) f)

/-- ACCIN (R177). -/
def execAccin (h : Hdr) (f : RForm) (s : State) : Out := .next (issueWide (.accin h f) h (cvOf f) (wideAccin h f) s)

end Sys2Proof.Machine
end

