-- ==== Sys2Proof/Machine/RingOps.lean ====
section
/-! DEFINITION. Stage rings (R358 to R361). -/

namespace Sys2Proof.Machine

/-- A stage-ring header (R358). -/
structure RingHdr where
  base : Nat
  ns : Nat
  ssize : Nat
  full : Nat
  phase : Nat
  pseq : Nat
  cseq : Nat
  clean : Bool
  deriving DecidableEq, Repr

/-- The header that 32 bytes hold (R358). -/
def ringOf (x : Nat) : RingHdr :=
  { base := x % 2 ^ 20, ns := x / 2 ^ 20 % 32 + 1, ssize := x / 2 ^ 32 % 2 ^ 20, full := x / 2 ^ 64 % 2 ^ 32, phase := x / 2 ^ 96 % 2 ^ 32,
    pseq := x / 2 ^ 128 % 2 ^ 32, cseq := x / 2 ^ 160 % 2 ^ 32,
    clean := x / 2 ^ 25 % 2 ^ 7 = 0 && x / 2 ^ 52 % 2 ^ 12 = 0 && decide (x / 2 ^ 192 = 0) }

/-- The bytes of a header with clear reserved fields. -/
def ringBytes (r : RingHdr) : List Byte :=
  bytesOf 32 (r.base + (r.ns - 1) * 2 ^ 20 + r.ssize * 2 ^ 32 + r.full * 2 ^ 64 + r.phase * 2 ^ 96 + r.pseq * 2 ^ 128 + r.cseq * 2 ^ 160)

/-- The count at which PSEQ and CSEQ wrap (R358). -/
def ringWrap (ns : Nat) : Nat := 2 * ns * (2 ^ 31 / ns)

/-- A header that RING 0x01 rejects (R361). -/
def ringBad (r : RingHdr) (size : Nat) : Bool :=
  !r.clean || r.ssize = 0 || r.ssize % 16 ≠ 0 || r.base % 16 ≠ 0 || decide (size < r.base + r.ns * r.ssize)
    || decide (ringWrap r.ns ≤ r.pseq) || decide (ringWrap r.ns ≤ r.cseq)

/-- The header that a scratch offset names: the cause that stops it (R361), or the header and its SRAM offset. -/
def State.ringAt (s : State) (w o : Nat) : Except (Cause × Nat × Nat) (RingHdr × Nat) :=
  let c := s.wgCoreOf w
  let cid := warpCid w
  if o % 16 ≠ 0 then .error (.align, 0, o)
  else match scratchFail c o 32 with
    | some a => .error (.spad, 0, a)
    | none =>
      if 256 * c.ssize ≤ o then .error (.ring, 1, 0)
      else
        let p := 256 * c.sbase + o
        if poisonHit s.mem.poison 2 16 (cid * 2 ^ 20 + p) 32 then .error (.poison, 2, 0)
        else
          let r := ringOf (ofBytes (s.sramRead cid p 32))
          if ringBad r (256 * c.ssize) then .error (.ring, 1, 0) else .ok (r, p)

/-- A header replaced. -/
def State.putRing (s : State) (w p : Nat) (r : RingHdr) : State := s.sramWrite (warpCid w) p (ringBytes r)

/-- A bit of a 32-bit field held as a number. -/
def bitOf (x k : Nat) : Nat := x / 2 ^ k % 2

/-- RACQ (`take` false) and RTAKE for their warp (R359): the sequence number is taken once, then the slot is waited for. -/
def perfRacq (take : Bool) (f : RForm) (s : State) (o : Op) (l : Nat) : State × Perf :=
  let r := opRec o l
  let at0 := (r.a.truncate 32 : Word).toNat
  match s.ringAt o.w at0 with
  | .error (c, sub, a) => (s, .trap c sub (BitVec.ofNat 64 a))
  | .ok (g, p) =>
    let next (q : Nat) : Nat := (q + 1) % ringWrap g.ns
    let (q, s1) : Nat × State := match o.mark with
      | some q => (q, s)
      | none =>
        let q := if take then g.cseq else g.pseq
        (q, (s.putRing o.w p (if take then { g with cseq := next q } else { g with pseq := next q })).modOp o.seq
              (fun (x : Op) => { x with mark := some q }))
    let k := q % g.ns
    let ph := q / g.ns % 2
    if bitOf g.phase k = ph && bitOf g.full k = (if take then 1 else 0) then
      let d := BitVec.ofNat 32 (g.base + k * g.ssize + k * 2 ^ 20 + ph * 2 ^ 25)
      (s1, .done ((lanesOf o.lanes).flatMap (fun j => dstWords r.hm f.dst j [d])))
    else (s1, .wait .ring at0)

/-- RACQ and RTAKE (R359). -/
def opRacq (take : Bool) (f : RForm) : LongOp :=
  { slots := slotsR f .n32 .b32 .b32, pend := fun s c => pendOf (s.inHandler c.w c.l) f.dst c.l 1, once := true
    ord := { mem := true, wr := true, acq := true }, perf := perfRacq take f }

/-- RACQ (R359). -/
def execRacq (h : Hdr) (f : RForm) (s : State) : Out := .next (issueLong (.racq h f) h (opRacq false f) s)

/-- RTAKE (R359). -/
def execRtake (h : Hdr) (f : RForm) (s : State) : Out := .next (issueLong (.rtake h f) h (opRacq true f) s)

/-- RFILL (`free` false) and RFREE for their warp (R359). -/
def perfRfill (free : Bool) (s : State) (o : Op) (l : Nat) : State × Perf :=
  let r := opRec o l
  let hd := (r.b.truncate 32 : Word).toNat
  match s.ringAt o.w (r.a.truncate 32 : Word).toNat with
  | .error (c, sub, a) => (s, .trap c sub (BitVec.ofNat 64 a))
  | .ok (g, p) =>
    let k := hd / 2 ^ 20 % 32
    if g.ns ≤ k || bitOf g.full k ≠ (if free then 1 else 0) || bitOf g.phase k ≠ hd / 2 ^ 25 % 2 then
      (s, .trap .ring (if free then 3 else 2) 0)
    else
      let g1 :=
        if free then { g with full := g.full - 2 ^ k, phase := if bitOf g.phase k = 1 then g.phase - 2 ^ k else g.phase + 2 ^ k }
        else { g with full := g.full + 2 ^ k }
      (s.putRing o.w p g1, .done [])

/-- RFILL and RFREE (R359). -/
def opRfill (free : Bool) (f : RForm) : LongOp :=
  { slots := slotsR f .n32 .b32 .b32, once := true, ord := { mem := true, wr := true, rel := true }, perf := perfRfill free }

/-- RFILL (R359). -/
def execRfill (h : Hdr) (f : RForm) (s : State) : Out := .next (issueLong (.rfill h f) h (opRfill false f) s)

/-- RFREE (R359). -/
def execRfree (h : Hdr) (f : RForm) (s : State) : Out := .next (issueLong (.rfree h f) h (opRfill true f) s)

/-- A waiting RACQ or RTAKE looks at its slot again (R359). -/
def execRingWaitEnd (id : Nat) (s : State) : Out :=
  .next (match nmapFind s.ops id with
    | none => s
    | some o =>
      match o.instr with
      | .racq _ f => retryLanes (opRacq false f) id (lanesOf o.todo) s
      | .rtake _ f => retryLanes (opRacq true f) id (lanesOf o.todo) s
      | _ => s)

end Sys2Proof.Machine
end

