-- ==== Sys2Proof/Machine/Admission.lean ====
section
/-! DEFINITION. Graph records, their checks, and what admission computes of a graph (R304 to R317, R333, R334, R337, R341, R452). -/

namespace Sys2Proof.Machine

/-! ## Reading records -/

/-- Why a record cannot be read: a translation fault that waits for its reply, no place (R317 RESULT 2), or a breach of the worlds. -/
inductive RecStop where
  | park (va kind level : Nat) (entry : BitVec 64)
  | bad
  | poison (cls : Nat) (addr : BitVec 64)
  | secv
  deriving DecidableEq, Repr

/-- A device agent's read at system scope of bytes of one page at a generic address of a context (R313, R328): only the global space is
reached. -/
def State.readPart (s : State) (c ga n : Nat) : State × Except RecStop Nat :=
  if 0xFE * 2 ^ 48 ≤ ga then (s, .error .bad)
  else match s.translate c ga .read with
    | (s1, .to true a) => (s1, .ok (ofBytes (s1.readHost a n)))
    | (s1, .to false a) =>
      if !s1.reachable (a / 2 ^ 50) || s1.paKind a = .reserved then (s1, .error .bad)
      else if s1.secBreach c a then (s1, .error .secv)
      else match s1.homePoison a n with
        | some cls => (s1, .error (.poison cls (poisonVa ga)))
        | none => (s1, .ok (ofBytes (s1.readHome a n)))
    | (s1, .fault kind level e) => (s1, .error (.park ga kind level e))
    | (s1, .secv) => (s1, .error .secv)
    | (s1, .poison cls) => (s1, .error (.poison cls (poisonVa ga)))

/-- A device agent's read of a record, whose bytes may lie on two pages. -/
def State.readRecord (s : State) (c ga n : Nat) : State × Except RecStop Nat :=
  let k := 4096 - ga % 4096
  if n ≤ k then s.readPart c ga n
  else match s.readPart c ga k with
    | (s1, .ok x) => match s1.readPart c (ga + k) (n - k) with
      | (s2, .ok y) => (s2, .ok (x + 2 ^ (8 * k) * y))
      | r => r
    | r => r

/-- Records of one size from an address on. -/
def State.readRecords (s : State) (c ga size : Nat) (n : Nat) : State × Except (Nat × RecStop) (List Nat) :=
  (List.range n).foldl (fun (r : State × Except (Nat × RecStop) (List Nat)) k =>
    match r with
    | (t, .ok xs) => match t.readRecord c (ga + size * k) size with
      | (t1, .ok x) => (t1, .ok (xs ++ [x]))
      | (t1, .error e) => (t1, .error (k, e))
    | r => r) (s, .ok [])

/-! ## Records -/

/-- A graph's header (R304). -/
structure GraphHdr where
  dres : Nat
  tokval : Nat
  tokaddr : Nat
  launch : Nat
  resources : Nat
  passes : Nat
  submit : Nat
  dplane : Nat
  disp : Bool
  prio : Nat
  nres : Nat
  npass : Nat
  deriving DecidableEq, Repr

/-- The fields of a header (R304). -/
def graphHdrOf (x : Nat) : GraphHdr :=
  { dres := bitsAt x 384 16, tokval := bitsAt x 320 64, tokaddr := bitsAt x 256 64, launch := bitsAt x 192 64,
    resources := bitsAt x 128 64, passes := bitsAt x 64 64, submit := bitsAt x 32 32, dplane := bitsAt x 28 4, disp := bitsAt x 22 1 = 1,
    prio := bitsAt x 20 2, nres := bitsAt x 8 6, npass := bitsAt x 0 8 }

/-- A header that R304 allows. -/
def graphHdrOk (x : Nat) : Bool :=
  let h := graphHdrOf x
  bitsAt x 400 112 = 0 && bitsAt x 23 5 = 0 && bitsAt x 14 6 = 0 && (h.disp || (h.dres = 0xFFFF && h.dplane = 0))
    && (!h.disp || h.prio = 3) && h.tokaddr % 8 = 0 && decide (h.tokaddr < 0xFE * 2 ^ 48) && h.launch % 64 = 0 && h.resources % 64 = 0
    && h.passes % 256 = 0 && decide (1 ≤ h.npass ∧ h.npass ≤ 32)

/-- The fields of a launch record (R333). -/
def launchOf (x : Nat) : LaunchRec :=
  { codebase := bitsAt x 128 64, codelen := bitsAt x 192 32, constbase := bitsAt x 224 64, constlen := bitsAt x 288 32,
    seed := BitVec.ofNat 32 (bitsAt x 320 32), handler := BitVec.ofNat 32 (bitsAt x 352 32), trapofs := bitsAt x 384 32,
    privsize := bitsAt x 416 32, privbase := bitsAt x 448 64 }

/-- A launch record that R333 and R334 allow. -/
def launchOk (x : Nat) (ps : List PassRec) : Bool :=
  let r := launchOf x
  let top := 0xFE * 2 ^ 48
  let none : Word := 0xFFFFFFFF#32
  bitsAt x 0 128 = 0 && r.codebase % 64 = 0 && decide (r.codebase < top) && decide (1 ≤ r.codelen ∧ r.codelen ≤ 2 ^ 28)
    && r.constbase % 64 = 0 && decide (r.constbase < top) && (r.constlen ≠ 0 || r.constbase = 0)
    && r.privsize % 16 = 0 && decide (r.privsize ≤ 1048576) && r.privbase % 4096 = 0 && decide (r.privbase < top)
    && (r.privsize ≠ 0 || r.privbase = 0)
    && (if r.handler = none then r.trapofs = 0
        else decide (r.handler.toNat < r.codelen) && r.trapofs % 64 = 0 && decide (r.trapofs + 2048 ≤ r.privsize))
    && ps.all (fun p => decide (p.entry.toNat < r.codelen) && (p.frag = none || decide (p.frag.toNat < r.codelen)))

/-- The fields of a resource record (R306). -/
def resOf (x : Nat) : ResRec :=
  { ovbase := bitsAt x 448 64, mta := bitsAt x 384 64, base := bitsAt x 320 64, clear := BitVec.ofNat 32 (bitsAt x 288 32),
    tbytes := bitsAt x 256 32, ovslots := bitsAt x 240 16, lowm := bitsAt x 224 16, highm := bitsAt x 208 16, slots := bitsAt x 192 16,
    ht := bitsAt x 176 16, wt := bitsAt x 160 16, ty := bitsAt x 144 16, cdc := bitsAt x 131 1 = 1, trans := bitsAt x 130 1 = 1,
    kind := bitsAt x 128 2 }

/-- Bytes of a pixel of a colour or depth resource (R198, R306). -/
def pixelBytes (r : ResRec) : Nat := if r.kind = 0 && r.ty = 1 then 8 else 4

/-- The TYPE field of a resource within R198 and R306. -/
def resTypeOk (r : ResRec) : Bool :=
  match r.kind with
  | 0 => decide (r.ty ≤ 2)
  | 1 => decide (r.ty % 4 < 2) && decide (r.ty / 4 % 4 < 3) && decide (r.ty < 16)
  | _ => r.ty = 0

/-- A resource record that R198, R306 and R313 allow. -/
def resOk (x : Nat) : Bool :=
  let r := resOf x
  let top := 0xFE * 2 ^ 48
  let raster : Bool := decide (r.kind < 2)
  let edge := if raster then 512 else 4096
  bitsAt x 132 12 = 0 && bitsAt x 0 128 = 0 && resTypeOk r
    && decide (1 ≤ r.wt ∧ r.wt ≤ edge) && decide (1 ≤ r.ht ∧ r.ht ≤ edge)
    && (if r.trans then decide (1 ≤ r.slots) && r.base = 0 else r.slots = 0)
    && decide (r.lowm ≤ r.highm) && r.ovbase % 4096 = 0 && decide (r.ovbase < top) && (r.ovslots ≠ 0 || r.ovbase = 0)
    && decide (r.base < top) && decide (r.mta < top) && ((r.cdc && !r.trans) || r.mta = 0) && (!r.cdc || (r.kind = 0 && r.ty = 0))
    && r.tbytes % 256 = 0 && decide (256 ≤ r.tbytes ∧ r.tbytes ≤ 524288) && (!raster || r.tbytes = 4096 * pixelBytes r)
    && (!(r.kind = 1 || r.kind = 2) || (r.trans && r.ovslots = 0))

/-- A signed field. -/
def signedAt (x lo w : Nat) : Int := let v := bitsAt x lo w; if v < 2 ^ (w - 1) then (v : Int) else (v : Int) - 2 ^ w

/-- The fields of an input block (R309). -/
def passInOf (x : Nat) : PassIn :=
  { res := bitsAt x 0 16, k := signedAt x 16 3, all := bitsAt x 32 1 = 1,
    stencil := (List.range (min (bitsAt x 24 8) 16)).map (fun j => (signedAt x (64 + 8 * j + 4) 4, signedAt x (64 + 8 * j) 4)) }

/-- The RATIO byte is one of R309. -/
def ratioOk (b : Nat) : Bool := decide (b < 8) && b ≠ 4

/-- An input block's own fields within R309. -/
def passInOk (x : Nat) : Bool :=
  let i := passInOf x
  let nst := bitsAt x 24 8
  if i.res = 0xFFFF then bitsAt x 16 368 = 0
  else ratioOk (bitsAt x 16 8) && bitsAt x 33 31 = 0 && (if i.all then nst = 0 else decide (1 ≤ nst ∧ nst ≤ 16))
    && bitsAt x (64 + 8 * nst) (128 - 8 * nst) = 0 && bitsAt x 192 192 = 0

/-- An output entry (R310), and its own fields within R310. -/
def passOutOf (x : Nat) : Nat × Int := (bitsAt x 0 16, signedAt x 16 3)

def passOutOk (x : Nat) : Bool :=
  (if bitsAt x 0 16 = 0xFFFF then bitsAt x 16 8 = 0 else ratioOk (bitsAt x 16 8)) && bitsAt x 24 40 = 0

/-- The input blocks and output entries of a pass record (R308). -/
def passInAt (x i : Nat) : Nat := bitsAt x (8 * (0x30 + 48 * i)) 384

def passOutAt (x j : Nat) : Nat := bitsAt x (8 * (0xF0 + 8 * j)) 64

/-- The fields of a pass record (R308). -/
def passOf (x : Nat) : PassRec :=
  let w (o n : Nat) : Nat := bitsAt x (8 * o) n
  let fl := w 8 64
  { entry := BitVec.ofNat 32 (w 0 32), frag := BitVec.ofNat 32 (w 4 32), gw := w 0x10 16, gh := w 0x12 16, tlog := w 0x14 8,
    grain := w 0x16 16, vregs := w 0x18 16, sregs := w 0x1A 16, scratch := w 0x1C 32, column := w 0x20 32, loft := w 0x24 32,
    acc := w 0x28 8, wgx := w 0x2A 16, wgy := w 0x2C 8, wgz := w 0x2D 8, tlist := w 0x2E 16, depth := bitsAt fl 48 16,
    rvec := bitsAt fl 36 7, rmat := bitsAt fl 29 7, rcpy := bitsAt fl 22 7, dispout := bitsAt fl 21 1 = 1, gangh := bitsAt fl 15 6,
    gangw := bitsAt fl 9 6, prio := bitsAt fl 2 2, pclass := bitsAt fl 0 2,
    ins := (List.range 4).map (fun i => passInOf (passInAt x i)), outs := (List.range 2).map (fun j => passOutOf (passOutAt x j)) }

/-- A pass record's own fields within R308. -/
def passOk (x : Nat) (disp : Bool) : Bool :=
  let p := passOf x
  let fl := bitsAt x 64 64
  bitsAt x (8 * 0x15) 8 = 0 && bitsAt x (8 * 0x29) 8 = 0 && bitsAt fl 43 5 = 0 && bitsAt fl 4 5 = 0
    && decide (1 ≤ p.gw ∧ p.gw ≤ 4096) && decide (1 ≤ p.gh ∧ p.gh ≤ 4096) && (p.tlog = 0 || decide (3 ≤ p.tlog ∧ p.tlog ≤ 12))
    && (disp || !p.dispout) && decide (1 ≤ p.gangw ∧ p.gangw ≤ 32) && decide (1 ≤ p.gangh ∧ p.gangh ≤ 32) && decide (p.pclass < 3)

/-! ## Results -/

/-- A refusal (R317): RESULT, PASS, RESN, BIND. -/
structure Refuse where
  result : Nat
  pass : Nat
  resn : Nat
  bind : Nat
  deriving DecidableEq, Repr

/-- The status word of R317. -/
def Refuse.word (r : Refuse) : Word := BitVec.ofNat 32 (r.result * 2 ^ 28 + r.pass * 2 ^ 16 + r.resn * 2 ^ 8 + r.bind)

/-- The status of an admitted graph. -/
def admittedWord : Word := Refuse.word ⟨0, 0x3F, 0xFF, 0xF⟩

/-- A check that fails with a refusal. -/
def need (ok : Bool) (r : Refuse) : Except Refuse Unit := if ok then .ok () else .error r

/-! ## Step 1 -/

/-- The passes, with their indices. -/
def Graph.enumPasses (g : Graph) : List (Nat × PassRec) := g.passes.zipIdx.map (fun e => (e.2, e.1))

/-- The generic outputs of a pass that is no raster pass: resource and ratio, with the output's number. -/
def Graph.genOuts (g : Graph) (p : PassRec) : List (Nat × Nat × Int) :=
  if g.isRaster p then [] else (p.outs.zipIdx.filter (fun e => e.1.1 ≠ 0xFFFF)).map (fun e => (e.2, e.1.1, e.1.2))

/-- How many times the passes produce a resource: by an output, by DEPTH, by TLIST (R313, R452). -/
def Graph.producers (g : Graph) (r : Nat) : Nat :=
  (g.passes.map (fun p =>
    (p.outs.filter (fun o => o.1 = r && r ≠ 0xFFFF)).length + (if p.depth = r then 1 else 0) + (if p.tlist = r then 1 else 0))).foldl (· + ·) 0

/-- Whether a pass of lower index produces a resource. -/
def Graph.producedBefore (g : Graph) (p r : Nat) : Bool := decide (({ g with passes := g.passes.take p } : Graph).producers r ≠ 0)

/-- One input of a pass (R309, R312, R313). -/
def Graph.inputOk (g : Graph) (p : Nat) (x : Nat) : Bool :=
  let i := passInOf x
  passInOk x && (i.res = 0xFFFF || (match g.res i.res with
    | none => false
    | some r => r.kind ≠ 2 && (g.producedBefore p i.res || (!r.trans && g.producers i.res = 0))
        && (!i.all || decide (r.wt * r.ht ≤ 2 ^ (29 - log2Up r.tbytes)))))

/-- One output of a pass (R310, R313). -/
def Graph.outputOk (g : Graph) (p : PassRec) (x : Nat) : Bool :=
  let o := passOutOf x
  passOutOk x && (o.1 = 0xFFFF || (match g.res o.1 with
    | none => false
    | some r => if g.isRaster p then r.kind = 0 && o.2 = 0 else r.kind = 3))

/-- The raster targets of a pass: its colour outputs and its depth target. -/
def Graph.targets (g : Graph) (p : PassRec) : List ResRec :=
  (p.outs.map (·.1) ++ [p.depth]).filterMap (fun k => if k = 0xFFFF then none else g.res k)

/-- The targets of a raster pass have one size (R198). -/
def Graph.targetsAgree (g : Graph) (p : PassRec) : Bool :=
  match g.targets p with
  | [] => true
  | r :: t => t.all (fun q => q.wt = r.wt && q.ht = r.ht)

/-- One pass against R308 to R310 and R313. RESN of a resource number above 255 is its low 8 bits (DESIGN CHOICE, log entry 97). -/
def Graph.checkPass (g : Graph) (k x : Nat) : Except Refuse Unit := do
  let p := passOf x
  need (passOk x g.disp) ⟨1, k, 0xFF, 0xF⟩
  (List.range 4).forM (fun i => need (g.inputOk k (passInAt x i)) ⟨1, k, (passInOf (passInAt x i)).res % 256, i⟩)
  (List.range 2).forM (fun j => need (g.outputOk p (passOutAt x j)) ⟨1, k, (passOutOf (passOutAt x j)).1 % 256, 4 + j⟩)
  need (p.depth = 0xFFFF || (match g.res p.depth with | some r => r.kind = 1 | none => false)) ⟨1, k, p.depth % 256, 6⟩
  need (!g.isRaster p || g.targetsAgree p) ⟨1, k, 0xFF, if p.depth = 0xFFFF then 0xF else 6⟩
  need (if g.isRaster p then (match g.res p.tlist with | some r => r.kind = 2 | none => false) else p.tlist = 0xFFFF)
    ⟨1, k, p.tlist % 256, 7⟩

/-- The display output of a graph (R313). -/
def Graph.dispOk (g : Graph) : Bool :=
  let ps := g.passes.filter (·.dispout)
  if g.disp then
    (match g.res g.dres with | some r => r.kind = 0 && !r.trans | none => false)
      && (match ps with | [p] => p.outs.any (fun o => o.1 = g.dres) | _ => false)
  else ps.isEmpty

/-- Admission step 1, after the header (R313, R334). -/
def Graph.step1 (g : Graph) (lx : Nat) (rs ps : List Nat) : Except Refuse Unit := do
  need (launchOk lx g.passes) ⟨1, 0x3F, 0xFF, 0xF⟩
  rs.zipIdx.forM (fun e => need (resOk e.1) ⟨1, 0x3F, e.2, 0xF⟩)
  ps.zipIdx.forM (fun e => g.checkPass e.2 e.1)
  g.ress.zipIdx.forM (fun e => need ((!e.1.trans && e.1.kind ≠ 2) || g.producers e.2 = 1) ⟨1, 0x3F, e.2, 0xF⟩)
  need g.dispOk ⟨1, 0x3F, g.dres % 256, 0xF⟩

/-! ## Step 2 -/

/-- The threads of a workgroup, the cores of its gang, and the warps on each core (R337). -/
def passThreads (p : PassRec) : Nat := p.wgx * p.wgy * p.wgz

def passGang (p : PassRec) : Nat := p.gangw * p.gangh

def passWarps (p : PassRec) : Nat := (passThreads p + 32 * passGang p - 1) / (32 * max (passGang p) 1)

/-- Whether a stop of this card has no core (R432): a retired one for which no spare site is left. -/
def State.coreAbsent (s : State) (cid : Nat) : Bool :=
  let stack := cidStack cid
  let mine := (s.card.retired.filter (fun r => r.1 = 1 && r.2.1 = stack)).map (fun r => r.2.2)
  match (dedupNat mine).idxOf? (cidCore cid) with
  | some k => decide (Config.spareSites stack ≤ k)
  | none => false

/-- The private column that a core has (R23, R432). -/
def State.columnBytes (s : State) (cid : Nat) : Nat := if s.isRetired 2 (cidStack cid) (cidCore cid) then 0 else s.colSize

/-- The conditions of R337 that RESULT 1 guards. -/
def passNeeds1 (p : PassRec) : Bool :=
  decide (1 ≤ passThreads p) && decide (passGang p ≤ 32)
    && decide (8 ≤ p.vregs ∧ p.vregs ≤ 256) && p.vregs % 8 = 0 && decide (16 ≤ p.sregs ∧ p.sregs ≤ 1024) && p.sregs % 16 = 0
    && p.scratch % 256 = 0 && p.column % 2 ^ 20 = 0 && p.loft % 256 = 0
    && (p.rcpy + p.rmat + p.rvec = 0 || p.rcpy + p.rmat + p.rvec = passWarps p) && decide (1 ≤ p.grain)

/-- How many workgroups of a pass an empty core has room for, with `extra` fragment warps beside them (R337, R339). -/
def coreFits (p : PassRec) (col w extra : Nat) : Nat :=
  let units (n total each : Nat) : Nat := if each = 0 then 64 else (total - n * each) / each
  let warps := (64 - extra) / max w 1
  let vs := (131072 - extra * 32 * p.vregs) / max (w * 32 * p.vregs) 1
  let ss := (16384 - extra * p.sregs) / max (w * p.sregs) 1
  [warps, vs, ss, units extra 4096 (p.scratch / 256), units extra 256 ((p.loft + 1023) / 1024), units extra 32 p.acc,
    units extra (col / 2 ^ 20) (p.column / 2 ^ 20)].foldl min 64

/-- The cores of a rectangle of stops from its north-west stop; none when it leaves the die (R29, R343). -/
def rectCores (gw gh stack core : Nat) : Option (List Nat) :=
  let x := core % 8
  let y := core / 8
  if 8 < x + gw || 6 < y + gh then none
  else some ((List.range gh).flatMap (fun j => (List.range gw).map (fun i => stack * 48 + core + i + 8 * j)))

/-- Rectangles placed one at a time, north-west stop and stack ascending, on cores with room for so many each (R343). -/
def packGangs (gw gh : Nat) (room : NMap Nat) (fuel n : Nat) : Nat :=
  match fuel with
  | 0 => n
  | k + 1 =>
    match ((List.range 48).flatMap (fun c => (List.range 4).map (fun st => (st, c)))).findSome? (fun e =>
      match rectCores gw gh e.1 e.2 with
      | some cs => if cs.all (fun c => decide (0 < dmapGet 0 room c)) then some cs else none
      | none => none) with
    | none => n
    | some cs => packGangs gw gh (cs.foldl (fun m c => dmapSet 0 m c (dmapGet 0 m c - 1)) room) k (n + 1)

/-- The workgroups of a pass (R341). -/
def passNwg (p : PassRec) : Nat := (p.gw * p.gh + p.grain - 1) / max p.grain 1

/-- The workgroups of a pass that fit on the card with every core empty (R341). DESIGN CHOICE (log entry 98): the room that R205 keeps for fragment
warps is not taken off. -/
def State.cardFits (s : State) (p : PassRec) (most : Nat) : Nat :=
  let room : NMap Nat := (List.range 192).filterMap (fun c =>
    let n := if s.coreAbsent c then 0 else coreFits p (s.columnBytes c) (passWarps p) 0
    if n = 0 then none else some (c, n))
  if passGang p = 1 then min most ((room.map (·.2)).foldl (· + ·) 0) else packGangs p.gangw p.gangh room (min most 12288) 0

/-- The conditions of R337 and R341 that RESULT 3 guards. -/
def State.passNeeds3 (s : State) (p : PassRec) : Bool :=
  let w := passWarps p
  decide (passThreads p ≤ 2048 * passGang p) && decide (p.gangw ≤ 8 ∧ p.gangh ≤ 6) && decide (w * 32 * p.vregs ≤ 131072)
    && decide (w * p.sregs ≤ 16384) && decide (p.scratch ≤ 1048576) && decide (p.column ≤ s.colSize) && decide (p.loft ≤ 262144)
    && decide (p.acc ≤ 32)
    && (if p.pclass = 0 then decide (passNwg p ≤ s.cardFits p (passNwg p)) else decide (1 ≤ s.cardFits p 1))
    && (p.frag = 0xFFFFFFFF#32 || decide (1 ≤ coreFits p s.colSize w 1))

/-- Admission step 2 (R337, R341). -/
def State.admStep2 (s : State) (g : Graph) : Except Refuse Unit :=
  g.enumPasses.forM (fun e => do
    need (passNeeds1 e.2) ⟨1, e.1, 0xFF, 0xF⟩
    need (s.passNeeds3 e.2) ⟨3, e.1, 0xFF, 0xF⟩)

/-! ## Step 3 -/

/-- The least and greatest of some integers. -/
def intSpan (xs : List Int) : Int × Int :=
  match xs with
  | [] => (0, 0)
  | x :: t => t.foldl (fun a y => (min a.1 y, max a.2 y)) (x, x)

/-- The ring minimum that one input asks for (R315). -/
def inputMin (r : ResRec) (i : PassIn) : Nat :=
  if i.all then r.wt * r.ht
  else
    let (x0, x1) := intSpan (i.stencil.map (·.1))
    let (y0, y1) := intSpan (i.stencil.map (·.2))
    let e : Int := if 0 ≤ i.k then 2 ^ i.k.toNat else 1
    ((y1 - y0 + e - 1) * r.wt + (x1 - x0 + e)).toNat

/-- The ring minimum of a colour or depth resource (R315): the most of its tiles that one stack's rasterisers own. -/
def rasterMin (r : ResRec) : Nat :=
  (List.range 4).foldl (fun a st => max a ((List.range (r.wt * r.ht)).filter (fun t => tileOwner r.wt t / 2 = st)).length) 0

/-- Admission step 3 (R315): passes ascending, inputs before outputs (R313); the status word names the pass and the binding that ask for
more slots than the ring has, as the worked frame of spec/16 shows it. -/
def Graph.step3 (g : Graph) : Except Refuse Unit :=
  g.enumPasses.forM (fun e => do
    e.2.ins.zipIdx.forM (fun x => match g.res x.1.res with
      | some r => need (!(r.trans && r.kind = 3) || decide (inputMin r x.1 ≤ r.slots + r.ovslots)) ⟨4, e.1, x.1.res % 256, x.2⟩
      | none => .ok ())
    ((e.2.outs.zipIdx.map (fun (o : (Nat × Int) × Nat) => (o.1.1, 4 + o.2))) ++ [(e.2.depth, 6)]).forM (fun x => match g.res x.1 with
      | some r => need (!r.trans || decide (2 ≤ r.kind) || decide (rasterMin r ≤ r.slots)) ⟨4, e.1, x.1 % 256, x.2⟩
      | none => .ok ()))

/-! ## What the scoreboard keeps -/

/-- The footprint of a consumer pass tile in an input, as tile keys (R311). -/
def Graph.footKeys (g : Graph) (i : PassIn) (x y : Nat) : List Nat :=
  match g.res i.res with
  | some r => (footprint r i x y).map (tileKey i.res)
  | none => []

/-- The footprints of a pass tile, one for each used input. -/
def Graph.feet (g : Graph) (p : PassRec) (t : Nat) : List (List Nat) :=
  let (x, y) := tileXY p t
  (p.ins.filter (fun i => i.res ≠ 0xFFFF)).map (fun i => g.footKeys i x y)

/-- The coverage of a pass tile in the generic outputs, as tile keys (R311). -/
def Graph.covers (g : Graph) (p : PassRec) (t : Nat) : List Nat :=
  let (x, y) := tileXY p t
  (g.genOuts p).flatMap (fun o => match g.res o.2.1 with
    | some r => (coverage r o.2.2 x y).map (tileKey o.2.1)
    | none => [])

/-- Whether a tile key names a transient resource. -/
def Graph.keyTrans (g : Graph) (k : Nat) : Bool := match g.res (k / 2 ^ 24) with | some r => r.trans | none => false

/-- The last-reader counts (R314). -/
def Graph.readerCounts (g : Graph) : NMap Nat :=
  g.passes.foldl (fun (m : NMap Nat) p =>
    (List.range (p.gw * p.gh)).foldl (fun (m : NMap Nat) t =>
      ((g.feet p t).flatten.filter g.keyTrans).foldl (fun (m : NMap Nat) k => dmapSet 0 m k (dmapGet 0 m k + 1)) m) m) []

/-- The tiles of generic resources produced by outputs that no pass tile covers (R320). -/
def Graph.bareTiles (g : Graph) : List Nat :=
  let all := g.passes.flatMap (fun p => (List.range (p.gw * p.gh)).flatMap (g.covers p))
  let outs := dedupNat (g.passes.flatMap (fun p => (g.genOuts p).map (fun o => o.2.1)))
  outs.flatMap (fun k => match g.res k with
    | some r => ((List.range (r.wt * r.ht)).map (tileKey k)).filter (fun q => !all.contains q)
    | none => [])

/-- Whether a resource tile has retired (R320, R321): a persistent one that no pass produces counts as retired. -/
def Graph.tileRetired (g : Graph) (k : Nat) : Bool :=
  (nmapFind g.resRetired k).isSome || (!g.keyTrans k && g.producers (k / 2 ^ 24) = 0)

/-- The pass tiles released now that were not before (R321). -/
def Graph.released1 (g : Graph) : Graph :=
  { g with released := g.enumPasses.foldl (fun (m : NMap Unit) e =>
      (List.range (e.2.gw * e.2.gh)).foldl (fun (m : NMap Unit) t =>
        if (nmapFind m (tileKey e.1 t)).isNone && (g.feet e.2 t).all (fun ks => ks.all g.tileRetired) then nmapSet m (tileKey e.1 t) ()
        else m) m) g.released }

/-! ## Step 4 -/

/-- Bytes of yard that a resource takes in each stack that holds it (R316). -/
def resYard (r : ResRec) : Nat :=
  if !r.trans then 0
  else match r.kind with
    | 2 => 2 * r.slots * r.tbytes
    | 3 => r.slots * r.tbytes
    | _ => r.slots * (r.tbytes + (if r.cdc then 256 else 0))

/-- The stacks that hold each transient resource, and the yard left in each stack; amounts may fall below 0 (R316). -/
def Graph.yardPlan (g : Graph) (free : List Int) : List (Nat × Nat × Nat) × List Int :=
  let rs := g.ress.zipIdx.filter (fun e => e.1.trans)
  let every := rs.filter (fun e => e.1.kind ≠ 3)
  let one := rs.filter (fun e => e.1.kind = 3)
  let start : List (Nat × Nat × Nat) × List Int :=
    (every.flatMap (fun e => (List.range 4).map (fun st => (e.2, st, resYard e.1))),
      free.map (fun (f : Int) => f - ((every.map (fun e => resYard e.1)).foldl (· + ·) 0 : Nat)))
  one.foldl (fun (a : List (Nat × Nat × Nat) × List Int) e =>
    let st := (List.range a.2.length).foldl (fun b k => if (a.2[b]?).getD 0 < (a.2[k]?).getD 0 then k else b) 0
    (a.1 ++ [(e.2, st, resYard e.1)], a.2.zipIdx.map (fun f => if f.2 = st then f.1 - (resYard e.1 : Nat) else f.1))) start

/-- The scoreboard entries of a graph (R316). -/
def Graph.entries (g : Graph) : Nat :=
  (g.passes.map (fun p => p.gw * p.gh)).foldl (· + ·) 0 + ((g.ress.filter (·.trans)).map (fun r => r.wt * r.ht)).foldl (· + ·) 0

/-- Whether a graph could be held with everything empty (R316). -/
def State.couldHold (s : State) (g : Graph) : Bool :=
  decide (g.entries ≤ 65536) && ((g.yardPlan ((List.range 4).map (fun st => ((s.yardSize st : Nat) : Int)))).2).all (fun f => decide (0 ≤ f))

/-- The yard bytes of a stack that the graphs hold, as runs. -/
def State.yardHeld (s : State) (stack : Nat) : List (Nat × Nat) :=
  s.graphs.flatMap (fun e => (e.2.yard.filter (fun y => y.1 % 4 = stack)).flatMap (·.2))

/-- A run with the bytes of another taken out. -/
def cutRun (r h : Nat × Nat) : List (Nat × Nat) :=
  let a := r.1
  let b := r.1 + r.2
  ([(a, min b h.1 - a), (max a (h.1 + h.2), b - max a (h.1 + h.2))]).filter (fun x => x.2 ≠ 0)

/-- The free runs of a stack's yard. -/
def State.yardFree (s : State) (stack : Nat) : List (Nat × Nat) :=
  (s.yardHeld stack).foldl (fun (rs : List (Nat × Nat)) h => rs.flatMap (fun r => cutRun r h)) [(0, s.yardSize stack)]

/-- Bytes in runs. -/
def runBytes (rs : List (Nat × Nat)) : Nat := (rs.map (·.2)).foldl (· + ·) 0

/-- `n` bytes taken from the front of free runs. -/
def takeRuns (rs : List (Nat × Nat)) (n : Nat) : List (Nat × Nat) :=
  match rs with
  | [] => []
  | (a, l) :: t => if n = 0 then [] else if n ≤ l then [(a, n)] else (a, l) :: takeRuns t (n - l)

/-- The scoreboard entries that a stack's graphs hold, and how many graphs (R316). -/
def State.scoreHeld (s : State) (stack : Nat) : Nat × Nat :=
  s.graphs.foldl (fun a e => if e.2.stack = stack then (a.1 + e.2.score, a.2 + 1) else a) (0, 0)

/-- The stack whose scoreboard takes a graph: the most free entries, the lower number on a tie (R316). -/
def State.scoreStack (s : State) (n : Nat) : Option Nat :=
  (List.range 4).foldl (fun (a : Option Nat) st =>
    let h := s.scoreHeld st
    if h.2 < 64 && decide (h.1 + n ≤ 65536) && (match a with | none => true | some b => decide (h.1 < (s.scoreHeld b).1)) then some st else a) none

/-- The lowest free graph slot of a stack's scoreboard (R316, R431). -/
def State.graphSlot (s : State) (stack : Nat) : Nat :=
  ((List.range 64).find? (fun k => !s.graphs.any (fun e => e.2.stack = stack && e.2.slot = k))).getD 0

/-- Yard space and scoreboard entries reserved, if they are free now (R316). -/
def State.reserve (s : State) (g : Graph) : Option Graph :=
  let free := (List.range 4).map (fun st => s.yardFree st)
  let plan := g.yardPlan (free.map (fun rs => ((runBytes rs : Nat) : Int)))
  match s.scoreStack g.entries with
  | none => none
  | some st =>
    if plan.2.any (fun f => decide (f < 0)) then none
    else
      let r := plan.1.foldl (fun (a : NMap (List (Nat × Nat)) × List (List (Nat × Nat))) (e : Nat × Nat × Nat) =>
        let runs := (a.2[e.2.1]?).getD []
        let mine := takeRuns runs e.2.2
        (nmapSet a.1 (e.1 * 4 + e.2.1) mine,
          a.2.zipIdx.map (fun (x : List (Nat × Nat) × Nat) => if x.2 = e.2.1 then mine.foldl (fun (rs : List (Nat × Nat)) h => rs.flatMap (fun q => cutRun q h)) x.1 else x.1))) ([], free)
      some { g with stack := st, score := g.entries, slot := s.graphSlot st, yard := r.1 }

/-- The slots that colour and depth tiles hold from admission on: the n-th tile of a stack takes its n-th slot (R319). -/
def Graph.rasterSlots (g : Graph) : NMap Nat :=
  (g.ress.zipIdx.filter (fun e => e.1.trans && decide (e.1.kind < 2))).foldl (fun (m : NMap Nat) e =>
    (List.range 4).foldl (fun (m : NMap Nat) st =>
      (((List.range (e.1.wt * e.1.ht)).filter (fun t => tileOwner e.1.wt t / 2 = st)).zipIdx).foldl (fun (m : NMap Nat) q =>
        nmapSet m (tileKey e.2 q.1) q.2) m) m) []

/-- A graph as its records give it (R304 to R310). -/
def graphOf (c : Nat) (queue : Option Nat) (hx lx : Nat) (rs ps : List Nat) : Graph :=
  let h := graphHdrOf hx
  { ctx := c, stack := 0, prio := h.prio, disp := h.disp, dplane := h.dplane, dres := h.dres, submit := BitVec.ofNat 32 h.submit,
    tokaddr := h.tokaddr, tokval := BitVec.ofNat 64 h.tokval, queue := queue, launch := launchOf lx, passes := ps.map passOf,
    ress := rs.map resOf, yard := [], released := [], taken := [], retired := [], resRetired := [], counts := [], slots := [], freed := [],
    ranges := [], serials := [], geomDone := [], raster := [], listBytes := [], score := 0, slot := 0, tokWait := none, stall := [] }

/-- The scoreboard of a graph at its admission (R314, R319 to R321, R346). -/
def Graph.start (g : Graph) : Graph :=
  let bare := g.bareTiles
  let g1 := { g with
    counts := g.readerCounts
    resRetired := bare.foldl (fun (m : NMap Unit) k => nmapSet m k ()) []
    freed := (bare.filter g.keyTrans).foldl (fun (m : NMap Unit) k => nmapSet m k ()) []
    slots := g.rasterSlots
    ranges := g.enumPasses.filterMap (fun (e : Nat × PassRec) => if e.2.pclass = 0 then none else some ⟨e.1, 0, e.2.gw * e.2.gh⟩) }
  g1.released1

/-! ## Admission's reads and checks -/

/-- What reading and checking a graph comes to: a read that stopped names the header's SUBMIT, 0 before it is read, and the pass and
resource of its record. -/
inductive Checked where
  | refused (r : Refuse)
  | stopped (e : RecStop) (submit : Word) (reading : Nat × Nat)
  | graph (g : Graph)
  deriving DecidableEq, Repr

/-- The refusal of a graph of which a record cannot be read (R317). -/
def unread (reading : Nat × Nat) : Refuse := ⟨2, reading.1, reading.2, 0xF⟩

/-- Steps 1 to 3 and the test of step 4 that needs no free space (R313, R316). -/
def State.judge (s : State) (g : Graph) (hx lx : Nat) (rs ps : List Nat) : Checked :=
  let r : Except Refuse Unit := do
    need (graphHdrOk hx) ⟨1, 0x3F, 0xFF, 0xF⟩
    g.step1 lx rs ps
    s.admStep2 g
    g.step3
    need (s.couldHold g) ⟨5, 0x3F, 0xFF, 0xF⟩
  match r with
  | .error e => .refused e
  | .ok _ => .graph g

/-- Admission's reads, of the header and of every record that it names, then its checks (R304, R313). -/
def State.examineGraph (s : State) (c addr : Nat) (queue : Option Nat) : State × Checked :=
  match s.readRecord c addr 64 with
  | (s1, .error e) => (s1, .stopped e 0 (0x3F, 0xFF))
  | (s1, .ok hx) =>
    let h := graphHdrOf hx
    let sub := BitVec.ofNat 32 h.submit
    match s1.readRecord c h.launch 64 with
    | (s2, .error e) => (s2, .stopped e sub (0x3F, 0xFF))
    | (s2, .ok lx) =>
      match s2.readRecords c h.passes 256 h.npass with
      | (s3, .error (k, e)) => (s3, .stopped e sub (k % 64, 0xFF))
      | (s3, .ok ps) =>
        match s3.readRecords c h.resources 64 h.nres with
        | (s4, .error (k, e)) => (s4, .stopped e sub (0x3F, k))
        | (s4, .ok rs) => (s4, s4.judge (graphOf c queue hx lx rs ps) hx lx rs ps)

end Sys2Proof.Machine
end

