-- ==== Sys2Proof/Machine/Scoreboard.lean ====
section
/-! DEFINITION. The tile scoreboard: takes, slots, retires, releases and the completion of a graph (R318 to R324). -/

namespace Sys2Proof.Machine

def State.setGraph (s : State) (id : Nat) (g : Graph) : State := { s with graphs := nmapSet s.graphs id g }

/-! ## Slots and takes -/

/-- f of a transient generic resource: its lowest tile whose slot has not been freed (R319). -/
def Graph.ringF (g : Graph) (ri : Nat) (r : ResRec) : Nat :=
  ((List.range (r.wt * r.ht)).find? (fun t => (nmapFind g.freed (tileKey ri t)).isNone)).getD (r.wt * r.ht)

/-- The tiles of a resource that hold a slot. -/
def Graph.holders (g : Graph) (ri : Nat) : List (Nat × Nat) :=
  g.slots.filter (fun e => e.1 / 2 ^ 24 = ri && (nmapFind g.freed e.1).isNone)

/-- A ring's occupancy (R319). -/
def Graph.occupancy (g : Graph) (ri : Nat) : Nat := (g.holders ri).length

/-- The transient tiles that a pass tile's take still has to give a slot (R319). -/
def Graph.wantSlots (g : Graph) (p : PassRec) (t : Nat) : List Nat :=
  (g.covers p t).filter (fun k => g.keyTrans k && (nmapFind g.slots k).isNone)

/-- Whether a tile may receive its slot now (R319). -/
def Graph.slotReady (g : Graph) (k : Nat) : Bool :=
  match g.res (k / 2 ^ 24) with
  | some r => decide (k % 2 ^ 24 < g.ringF (k / 2 ^ 24) r + r.slots + r.ovslots)
  | none => false

/-- Whether an index has been released (R321). -/
def Graph.isReleased (g : Graph) (p t : Nat) : Bool := (nmapFind g.released (tileKey p t)).isSome

/-- Whether each tile that the take of an index would give a slot may receive one (R318, R319). -/
def Graph.slotsReady (g : Graph) (p t : Nat) : Bool :=
  match g.passAt p with
  | some q => (g.wantSlots q t).all g.slotReady
  | none => false

/-- Whether an index may be handed out (R318). -/
def Graph.canTake (g : Graph) (p t : Nat) : Bool := g.isReleased p t && g.slotsReady p t

/-- A tile given the lowest free slot, yard slots before overflow slots (R319). -/
def Graph.giveSlot (g : Graph) (k : Nat) : Graph :=
  let ri := k / 2 ^ 24
  let used := (g.holders ri).map (·.2)
  { g with slots := nmapSet g.slots k (((List.range (used.length + 1)).find? (fun n => !used.contains n)).getD 0) }

/-- A pass tile taken (R318, R319). -/
def Graph.take (g : Graph) (p t : Nat) : Graph :=
  match g.passAt p with
  | some q => (g.wantSlots q t).foldl Graph.giveSlot { g with taken := nmapSet g.taken (tileKey p t) () }
  | none => g

/-! ## Retires -/

/-- Slots freed of the transient tiles that have retired and are awaited by no reader (R322). -/
def Graph.freeSlots (g : Graph) : Graph :=
  { g with freed := g.slots.foldl (fun (m : NMap Unit) e =>
      if dmapGet 0 g.counts e.1 = 0 && (nmapFind g.resRetired e.1).isSome then nmapSet m e.1 () else m) g.freed }

/-- Whether every pass tile whose coverage contains a resource tile has retired (R320). -/
def Graph.covered (g : Graph) (k : Nat) : Bool :=
  g.enumPasses.all (fun e => (List.range (e.2.gw * e.2.gh)).all (fun t =>
    !(g.covers e.2 t).contains k || (nmapFind g.retired (tileKey e.1 t)).isSome))

/-- A pass tile retires: its readers' counts, the resource tiles it completes, the slots freed and the tiles released (R320 to R322). A
second retire has no effect. -/
def Graph.retireTile (g : Graph) (p t : Nat) : Graph :=
  match g.passAt p with
  | none => g
  | some q =>
    if (nmapFind g.retired (tileKey p t)).isSome then g
    else
      let counts := (g.feet q t).foldl (fun (m : NMap Nat) ks =>
        (ks.filter g.keyTrans).foldl (fun (m : NMap Nat) k => dmapSet 0 m k (dmapGet 0 m k - 1)) m) g.counts
      let g1 := { g with retired := nmapSet g.retired (tileKey p t) (), counts := counts }
      let g2 := (g.covers q t).foldl (fun (h : Graph) k =>
        if h.covered k then { h with resRetired := nmapSet h.resRetired k () } else h) g1
      g2.freeSlots.released1

/-- The target resources of a raster pass, colour and depth. -/
def Graph.targetRes (g : Graph) (p : PassRec) : List Nat :=
  if g.isRaster p then dedupNat ((p.outs.map (·.1) ++ [p.depth]).filter (fun k => k ≠ 0xFFFF)) else []

/-- The raster tiles of a raster pass. -/
def Graph.rasterTiles (g : Graph) (p : PassRec) : List Nat :=
  match g.targets p with
  | r :: _ => if g.isRaster p then List.range (r.wt * r.ht) else []
  | [] => []

/-- Whether a raster tile of a pass has been written back (R320). -/
def Graph.rasterRetired (g : Graph) (pi t : Nat) : Bool :=
  match nmapFind g.raster (tileKey pi t) with
  | some x => x.written
  | none => false

/-- Whether every raster pass that produces a resource has written back a tile of it (R320). That a tile of several producers waits for the last is a
DESIGN CHOICE (log entry 96). -/
def Graph.targetDone (g : Graph) (k t : Nat) : Bool :=
  g.enumPasses.all (fun e => !(g.targetRes e.2).contains k || g.rasterRetired e.1 t)

/-- A raster tile that has been written back retires its targets' tiles; the last of its pass retires the tile list (R320). -/
def Graph.retireRaster (g : Graph) (pi t : Nat) : Graph :=
  match g.passAt pi with
  | none => g
  | some p =>
    let mark (h : Graph) (k : Nat) : Graph := { h with resRetired := nmapSet h.resRetired k () }
    let g1 := ((g.targetRes p).filter (fun k => g.targetDone k t)).foldl (fun h k => mark h (tileKey k t)) g
    let g2 :=
      if (g1.rasterTiles p).all (g1.rasterRetired pi) then
        match g1.res p.tlist with
        | some r => (List.range (r.wt * r.ht)).foldl (fun h u => mark h (tileKey p.tlist u)) g1
        | none => g1
      else g1
    g2.freeSlots.released1

/-! ## Completion -/

/-- Whether every pass tile and every raster tile of a graph has retired (R324). -/
def Graph.allRetired (g : Graph) : Bool :=
  g.enumPasses.all (fun e =>
    (List.range (e.2.gw * e.2.gh)).all (fun t => (nmapFind g.retired (tileKey e.1 t)).isSome)
      && (g.rasterTiles e.2).all (g.rasterRetired e.1))

/-- Whether a graph completes (R324): no workgroup of it is left either. -/
def State.graphDone (s : State) (id : Nat) : Bool :=
  match nmapFind s.graphs id with
  | some g => g.allRetired && !s.wgs.any (fun e => e.2.graph = some id)
  | none => false

/-- A 64-bit word written by a device agent at a global address of a context, as a release at system scope (R260): what stops it
otherwise. -/
def State.writeToken (s : State) (c va x : Nat) : State × Option RecStop :=
  match s.translate c va .write with
  | (s1, .to true a) => (s1.writeHost a (bytesOf 8 x), none)
  | (s1, .to false a) =>
    if !s1.reachable (a / 2 ^ 50) || s1.paKind a = .reserved then (s1, some .bad)
    else if s1.secBreach c a then (s1, some .secv)
    else (s1.writeHome a (bytesOf 8 x), none)
  | (s1, .fault kind level e) => (s1, some (.park va kind level e))
  | (s1, .secv) => (s1, some .secv)
  | (s1, .poison cls) => (s1, some (.poison cls (poisonVa va)))

/-- A graph's space freed and its completion told to its queue and its display plane (R324, R328, R330). -/
def State.dropGraph (s : State) (id : Nat) (g : Graph) : State :=
  let shown : Option ResRec := if g.disp then g.res g.dres else none
  { s with
    graphs := nmapErase s.graphs id
    queues := s.queues.map (fun (e : Nat × Queue) => (e.1, { e.2 with graphs := e.2.graphs.filter (fun k => k ≠ id) }))
    planes := match shown with
      | some r =>
        let pl := (nmapFind s.planes g.dplane).getD Plane.reset
        nmapSet s.planes g.dplane { pl with done := pl.done ++ [(g.ctx, r)] }
      | none => s.planes
    draining := s.draining.filter (fun d => d.1 ≠ id) }

/-- A graph that is done completes: its token is written, then its space is freed (R324). A token write that faults waits for its
reply, and is left out when the reply fails it (log entry 86); one to a reserved address ends the context (R24; log entry 89). -/
def State.finishGraph (s : State) (id : Nat) : State :=
  match nmapFind s.graphs id with
  | none => s
  | some g =>
    if !s.graphDone id || g.tokWait.isSome then s
    else if g.tokaddr = 0 then s.dropGraph id g
    else match s.writeToken g.ctx g.tokaddr g.tokval.toNat with
      | (s1, none) => s1.dropGraph id g
      | (s1, some (.park va kind level e)) =>
        (s1.setGraph id { g with tokWait := some (va, kind) }).addFault g.ctx .queue va kind level e (s.cardNo * 2 ^ 8)
      | (s1, some .secv) => s1.fatalEnd g.ctx (agentFatal Cause.secv.code 0 0 g.submit)
      | (s1, some (.poison cls a)) => (s1.reportConsumed g.ctx cls a g.submit (s.cardNo * 2 ^ 8)).dropGraph id g
      | (s1, some .bad) => s1.fatalEnd g.ctx (agentFatal Cause.prot.code 0 8 g.submit (BitVec.ofNat 64 g.tokaddr))

/-- The reply to the fault of a graph's token write (R324, R400): it is tried again, or left out. -/
def State.replyToken (s : State) (fail : Bool) (id : Nat) : State :=
  match nmapFind s.graphs id with
  | none => s
  | some g =>
    let h := { g with tokWait := none }
    if fail then (s.setGraph id h).dropGraph id h else (s.setGraph id h).finishGraph id

end Sys2Proof.Machine
end

