-- ==== Sys2Proof/Machine/Placement.lean ====
section
/-! DEFINITION. Room on the cores, the start of workgroups, the distributor and the yardmaster (R336 to R349, R353 to R356, R403, R405). -/

namespace Sys2Proof.Machine

/-! ## Room -/

/-- Whether the state of a context stands in the cores (R386). -/
def State.resident (s : State) (c : Nat) : Bool := (s.ctx c).phase ≠ .saved

/-- The parts of workgroups that stand on a core. -/
def State.partsOn (s : State) (cid : Nat) : List (Wg × WgCore) :=
  s.wgs.flatMap (fun e => if s.resident e.2.ctx then (e.2.cores.filter (fun c => c.cid = cid)).map (fun c => (e.2, c)) else [])

/-- Whether a run of `n` at `a` meets none of some runs. -/
def runClear (held : List (Nat × Nat)) (a n : Nat) : Bool :=
  held.all (fun h => h.2 = 0 || decide (a + n ≤ h.1) || decide (h.1 + h.2 ≤ a))

/-- The lowest free run of `n` among `total` units (R339). -/
def lowestRun (held : List (Nat × Nat)) (total n : Nat) : Option Nat :=
  if n = 0 then some 0
  else (0 :: held.map (fun h => h.1 + h.2)).foldl (fun (b : Option Nat) a =>
    if a + n ≤ total && runClear held a n && (match b with | none => true | some m => decide (a < m)) then some a else b) none

/-- Whether a saved context's column units may be swapped out (R390, R405). -/
def State.colCovered (s : State) (c : Nat) : Bool := decide (832 + 192 * s.colSize / 2 ^ 20 ≤ (s.ctx c).savelen.toNat)

/-- Whether the context that held a column unit last still exists (R405). -/
def State.colOwner (s : State) (q : Nat) : Bool := s.ctxLive q && (s.ctx q).phase ≠ .ending

/-- The column units of a core that stay with an owner other than a context `c` (R405): it exists, and no save area covers them. -/
def State.stuckCols (s : State) (cid c : Nat) : List (Nat × Nat) :=
  (nmapRange s.cores.lastCol (cid * 512) (cid * 512 + 512)).filterMap (fun e =>
    if e.2 ≠ c && s.colOwner e.2 && !s.colCovered e.2 then some (e.1 - cid * 512, 1) else none)

/-- The warps of a part whose registers are allocated (R339, R423): a warp that has exited has given its own back. -/
def State.warpsHeld (s : State) (k : WgCore) : Nat :=
  k.nwarp - ((nmapRange s.warps (k.cid * 64 + k.slot0) (k.cid * 64 + k.slot0 + k.nwarp)).filter (fun e => e.2.live = 0)).length

/-- The vector and scalar registers that parts hold (R339). -/
def State.regsHeld (s : State) (parts : List (Wg × WgCore)) : Nat × Nat :=
  parts.foldl (fun (a : Nat × Nat) e => (a.1 + s.warpsHeld e.2 * 32 * e.1.nv, a.2 + s.warpsHeld e.2 * e.1.ns)) (0, 0)

/-- Room for `w` warps of a context with a pass's needs beside the parts that stand on a core (R339). -/
def State.roomBeside (s : State) (parts : List (Wg × WgCore)) (cid c : Nat) (p : PassRec) (w : Nat) : Option WgCore :=
  let runs (f : WgCore → Nat × Nat) : List (Nat × Nat) := parts.map (fun e => f e.2)
  let (vs, ss) := s.regsHeld parts
  if 131072 < vs + w * 32 * p.vregs || 16384 < ss + w * p.sregs then none
  else do
    let slot ← lowestRun (runs (fun c => (c.slot0, c.nwarp))) 64 w
    let sb ← lowestRun (runs (fun c => (c.sbase, c.ssize))) 4096 (p.scratch / 256)
    let lb ← lowestRun (runs (fun c => (c.loftb, (c.lsize + 1023) / 1024))) 256 ((p.loft + 1023) / 1024)
    let ac ← lowestRun (runs (fun c => (c.acc0, c.accn))) 32 p.acc
    let cb ← lowestRun (runs (fun c => (c.cbase, c.csize)) ++ s.stuckCols cid c) (s.columnBytes cid / 2 ^ 20) (p.column / 2 ^ 20)
    some { cid := cid, slot0 := slot, nwarp := w, sbase := sb, ssize := p.scratch / 256, cbase := cb, csize := p.column / 2 ^ 20,
           loftb := lb, lsize := p.loft, acc0 := ac, accn := p.acc, resv := [] }

/-- Whether a core is present and serves a context's world (R392, R432). -/
def State.coreServes (s : State) (cid c : Nat) : Bool :=
  !s.coreAbsent cid && s.blockServes (.core cid) c

/-- Room for `w` warps on a core that serves their context (R339). -/
def State.room (s : State) (cid c : Nat) (p : PassRec) (w : Nat) : Option WgCore :=
  if s.coreServes cid c then s.roomBeside (s.partsOn cid) cid c p w else none

/-- The passes with a fragment entry that are admitted, with their contexts (R205). -/
def State.fragPasses (s : State) : List (Nat × Nat × Nat × PassRec) :=
  s.graphs.flatMap (fun e => (e.2.enumPasses.filter (fun p => p.2.frag ≠ 0xFFFFFFFF#32)).map (fun p => (e.1, p.1, e.2.ctx, p.2)))

/-- The passes for whose fragment warps a core keeps room (R205): it serves them, and no fragment warp of theirs stands there. One pass may be
left out. -/
def State.heldPasses (s : State) (cid : Nat) (own : Option (Nat × Nat)) : List (Nat × PassRec) :=
  (s.fragPasses.filter (fun q => own ≠ some (q.1, q.2.1) && s.coreServes cid q.2.2.1
    && !(s.partsOn cid).any (fun e => e.1.kind = .fragment && e.1.graph = some q.1 && e.1.pass = q.2.1))).map (fun q => q.2.2)

/-- A part beside others as one that a pass's warps would take. -/
def besides (parts : List (Wg × WgCore)) (p : PassRec) (k : WgCore) : List (Wg × WgCore) :=
  ({ Wg.empty with nv := p.vregs, ns := p.sregs }, k) :: parts

/-- Whether the room kept for one fragment warp of each of some passes is still there, all of it, once a core's parts `old` have become `new`
(R205): a workgroup must leave it whole, a fragment warp what there is of it. -/
def State.keepsHeld (s : State) (cid : Nat) (group : Bool) (qs : List (Nat × PassRec)) (old new : List (Wg × WgCore)) : Bool :=
  match qs with
  | [] => true
  | q :: t =>
    match s.roomBeside old cid q.1 q.2 1, s.roomBeside new cid q.1 q.2 1 with
    | none, _ => !group && s.keepsHeld cid group t old new
    | some _, none => false
    | some a, some b => s.keepsHeld cid group t (besides old q.2 a) (besides new q.2 b)

/-- Room for a part of a workgroup: one fragment warp of every pass with a fragment entry keeps its own (R205, R339). -/
def State.roomFor (s : State) (cid c : Nat) (p : PassRec) (w : Nat) : Option WgCore :=
  match s.room cid c p w with
  | none => none
  | some k =>
    let old := s.partsOn cid
    if s.keepsHeld cid true (s.heldPasses cid none) old (besides old p k) then some k else none

/-- Room for a fragment warp of a pass that may use what is held back for it (R205, R356). -/
def State.roomHeld (s : State) (cid c gid pi : Nat) (p : PassRec) : Option WgCore :=
  match s.room cid c p 1 with
  | none => none
  | some k =>
    let old := s.partsOn cid
    if s.keepsHeld cid false (s.heldPasses cid (some (gid, pi))) old (besides old p k) then some k else none

/-! ## Starting warps -/

/-- A lane's generator at launch (R336). -/
def seedOf (seed p t n : Nat) : Word :=
  let x := BitVec.ofNat 32 (seed + 0x9E3779B9 * (p + 1) + 0x85EBCA6B * (t + 1) + 0xC2B2AE35 * n)
  rngAfter (if x = 0 then 1 else x) 3

/-- The registers of a warp slot as they are before a launch (R60). -/
def RegFile.clearWarp (r : RegFile) (w : Nat) : RegFile :=
  let lanes (k : Nat) : Nat × Nat := (laneKey w 0 * k, laneKey (w + 1) 0 * k)
  let cl {α : Type} (m : NMap α) (e : Nat × Nat) : NMap α := nmapClear m e.1 e.2
  { v := cl r.v (lanes 256), p := cl r.p (lanes 1), bt := cl r.bt (lanes 8), lc := cl r.lc (lanes 4), lk := cl r.lk (lanes 1),
    pc := cl r.pc (lanes 1), rng := cl r.rng (lanes 1), s := cl r.s (w * 1024, (w + 1) * 1024), cv := cl r.cv (w * 8, (w + 1) * 8),
    hv := cl r.hv (lanes 32), hs := cl r.hs (w * 64, (w + 1) * 64) }

/-- Poison marks of registers of a warp slot dropped with their contents. -/
def clearPoison (m : NMap Unit) (w : Nat) : NMap Unit :=
  let cl (m : NMap Unit) (a b : Nat) : NMap Unit := nmapClear m (2 ^ 60 + a) (2 ^ 60 + b)
  cl (cl (cl (cl m (laneKey w 0 * 256) (laneKey (w + 1) 0 * 256)) (2 ^ 40 + w * 1024) (2 ^ 40 + (w + 1) * 1024))
    (2 ^ 41 + laneKey w 0 * 32) (2 ^ 41 + laneKey (w + 1) 0 * 32)) (2 ^ 42 + w * 64) (2 ^ 42 + (w + 1) * 64)

/-- A warp launched at an instruction index (R60, R336): `seed` gives the integers p, t and n of each lane. -/
def State.launchWarp (s : State) (w : Nat) (x : Warp) (entry : Word) (launch : LaunchRec) (seed : Nat → Nat × Nat × Nat) : State :=
  let ls := lanesOf x.launched
  let r0 := (s.regs.clearWarp w).setCv w 0 x.launched
  let r1 := ls.foldl (fun (r : RegFile) l =>
    let q := seed l
    (r.setPc w l entry).setRng w l (seedOf launch.seed.toNat q.1 q.2.1 q.2.2)) r0
  { s with
    regs := r1
    warps := nmapSet s.warps w { x with exited := ~~~x.launched, trapbase := BitVec.ofNat 64 launch.trapofs, traphandler := launch.handler }
    signs := nmapClear s.signs (w * 8) (w * 8 + 8)
    mem := { s.mem with poison := clearPoison s.mem.poison w } }

/-- Tags of a run of units given to a context (R403). -/
def tagRun (m : NMap Nat) (a n c : Nat) : NMap Nat := (List.range n).foldl (fun (m : NMap Nat) k => nmapSet m (a + k) c) m

/-- The cells of home memory in a context's save area, by card address (R390): of a promoted frame, those of its home. -/
def State.saveCells (s : State) (x : Ctx) : List Host.Cell :=
  let lo := s.cardNo * 2 ^ 50 + x.savebase.toNat
  let hi := lo + x.savelen.toNat * 2 ^ 20
  let raw := (nmapRange s.mem.home lo hi).filter (fun e => (nmapFind s.mem.moved (e.1 / 65536)).isNone)
  (s.mem.moved.filter (fun e => decide (lo ≤ 65536 * e.1) && decide (65536 * e.1 < hi))).foldl (fun (m : List Host.Cell) e =>
    (List.range 16).foldl (fun (m : List Host.Cell) k =>
      let a := 65536 * e.1 + 4096 * k
      let h := s.homePa a
      nmapMerge m ((nmapRange s.mem.home h (h + 4096)).map (fun x => (x.1 - h + a, x.2)))) m) raw

/-- The digest kept of a saved context's area taken again (R390). -/
def State.redigest (s : State) (q : Nat) : State :=
  { s with saved := nmapModify s.saved (ctxSlot q) (fun v => { v with digest := Config.saveDigest (s.saveCells (s.ctx q)) }) }

/-- Where a context's save area keeps a column unit (R390): units are numbered core × 512 + MiB. -/
def State.colSavePa (s : State) (q key : Nat) : Nat :=
  s.cardNo * 2 ^ 50 + (s.ctx q).savebase.toNat + 832 * 2 ^ 20 + key / 512 * s.colSize + key % 512 * 2 ^ 20

/-- A column unit saved for the context that held it last (R390, R405). -/
def State.swapOut (s : State) (q key : Nat) : State :=
  let s1 := s.copyPages (s.columnPa (key / 512) (key % 512 * 2 ^ 20)) (s.colSavePa q key) 256
  (s1.setCtx q { s1.ctx q with swapped := insertNat key (s1.ctx q).swapped }).redigest q

/-- A column unit's bytes brought back from a context's save area (R390, R405). -/
def State.swapIn (s : State) (c key : Nat) : State :=
  let s1 := s.copyPages (s.colSavePa c key) (s.columnPa (key / 512) (key % 512 * 2 ^ 20)) 256
  s1.setCtx c { s1.ctx c with swapped := (s1.ctx c).swapped.filter (fun k => k ≠ key) }

/-- A column unit given to a context (R405): one that another context held last is saved when that one still exists and is covered, then
written to zero; a unit saved for the context itself gets its bytes back. -/
def State.giveColumn (s : State) (cid u c : Nat) : State :=
  let key := cid * 512 + u
  let last := nmapFind s.cores.lastCol key
  if last = some c then s
  else
    let a := s.columnPa cid (u * 2 ^ 20)
    let s1 := match last with
      | some q => if s.colOwner q && s.colCovered q then s.swapOut q key else s
      | none => s
    let s2 := { s1 with
      mem := { s1.mem with home := nmapClear s1.mem.home a (a + 2 ^ 20), poison := nmapClear s1.mem.poison (poisonKey 8 (a / 32)) (poisonKey 8 ((a + 2 ^ 20) / 32)) }
      cores := { s1.cores with lastCol := nmapSet s1.cores.lastCol key c } }
    if (s2.ctx c).swapped.contains key then s2.swapIn c key else s2

/-- The part of a workgroup started on a core (R149, R340, R403, R405). -/
def State.startPart (s : State) (c : Nat) (k : WgCore) : State :=
  let cid := k.cid
  let m := s.cores
  let lofts := (k.lsize + 1023) / 1024
  let sb := cid * 2 ^ 20 + 256 * k.sbase
  let fb := cid * 2 ^ 16 + 16 * k.sbase
  let lb := cid * 2 ^ 18 + 1024 * k.loftb
  let ab := (cid * 32 + k.acc0) * 2048
  let s1 := { s with
    cores := { m with
      scratch := nmapClear m.scratch sb (sb + 256 * k.ssize)
      fe := nmapClear m.fe fb (fb + 16 * k.ssize)
      loft := nmapClear m.loft lb (lb + 1024 * lofts)
      acc := nmapClear m.acc ab (ab + 2048 * k.accn)
      tagScratch := tagRun m.tagScratch (cid * 4096 + k.sbase) k.ssize c
      tagLoft := tagRun m.tagLoft (cid * 256 + k.loftb) lofts c
      tagAcc := tagRun m.tagAcc (cid * 32 + k.acc0) k.accn c
      tagSlot := tagRun m.tagSlot (cid * 64 + k.slot0) k.nwarp c }
    mem := { s.mem with
      poison := poisonAfter (poisonAfter (poisonAfter s.mem.poison 2 16 sb (256 * k.ssize)) 5 16 lb (1024 * lofts)) 5 16
        (2 ^ 40 + ab * 4) (8192 * k.accn) } }
  let s2 := (List.range k.csize).foldl (fun (t : State) u => t.giveColumn cid (k.cbase + u) c) s1
  { s2 with cores := { s2.cores with tagCol := tagRun s2.cores.tagCol (cid * 512 + k.cbase) k.csize c } }.acquireAt cid .card

/-- The role of the i-th warp of a workgroup on a core (R344). -/
def roleAt (p : PassRec) (i : Nat) : Role :=
  if p.rcpy + p.rmat + p.rvec = 0 then .none else if i < p.rcpy then .copy else if i < p.rcpy + p.rmat then .matrix else .vector

/-- The lanes of a warp that hold a thread of a workgroup (R338). -/
def threadMask (threads warpid : Nat) : Mask := maskOf ((List.range 32).filter (fun l => decide (warpid * 32 + l < threads)))

/-- The warps of a workgroup launched at ENTRY with its first index (R336, R338, R344, R349). -/
def State.launchWg (s : State) (id : Nat) (g : Wg) (p : PassRec) (lo : Nat) : State :=
  g.cores.zipIdx.foldl (fun (t : State) e =>
    (List.range e.1.nwarp).foldl (fun (t : State) i =>
      let wid := e.2 * passWarps p + i
      let m := threadMask (passThreads p) wid
      if m = 0 then t
      else
        let x : Warp := { Warp.empty with ctx := g.ctx, wg := id, warpid := wid, role := roleAt p i, launched := m, nv := p.vregs, ns := p.sregs,
                                          tile := some lo, order := id }
        t.launchWarp (e.1.cid * 64 + e.1.slot0 + i) x p.entry g.launch (fun l => (g.pass, lo, wid * 32 + l))) t) s

/-- Whether a workgroup stands on its cores and its first index has not been taken yet (R340). -/
def Wg.unstarted (g : Wg) : Bool := g.list.isEmpty && (match g.owed with | some (0, _) => true | _ => false)

/-- A placed workgroup takes its first index once that may be handed out; the take is an acquire, and its warps begin (R259, R318, R340). -/
def State.startWg (s : State) (id : Nat) : State :=
  match nmapFind s.wgs id with
  | none => s
  | some g =>
    match g.owed, g.graph.bind (fun k => (nmapFind s.graphs k).bind (fun h => (h.passAt g.pass).map (fun p => (k, h, p)))) with
    | some (0, lo), some (gid, h, p) =>
      if !g.list.isEmpty || !h.canTake g.pass lo then s
      else
        let s1 := { (s.setGraph gid (h.take g.pass lo)) with wgs := nmapSet s.wgs id { g with taken := [lo], list := [some lo], owed := none } }
        (g.cores.foldl (fun (t : State) c => t.acquireAt c.cid .card) s1).launchWg id g p lo
    | _, _ => s

/-- Every placed workgroup that waits for its first index looks again (R340). -/
def State.startOwed (s : State) : State := (s.wgs.filter (fun e => e.2.unstarted)).foldl (fun (t : State) e => t.startWg e.1) s

/-- A workgroup of a pass placed on cores (R340, R349), which thereby serve the pass last (R354); it starts at once if its first index may be
handed out. -/
def State.placeWg (s : State) (gid pi : Nat) (p : PassRec) (cores : List WgCore) (lo hi : Nat) : State :=
  match nmapFind s.graphs gid with
  | none => s
  | some g =>
    let ser := dmapGet 0 g.serials pi
    let id := s.serial + 1
    let wg : Wg :=
      { ctx := g.ctx, graph := some gid, pass := pi, serial := ser, kind := .group, gangw := p.gangw, gangh := p.gangh, warps := passWarps p,
        wgx := p.wgx, wgy := p.wgy, wgz := p.wgz, nv := p.vregs, ns := p.sregs, cores := cores, range := some ⟨lo, lo + 1, hi⟩,
        taken := [], list := [], owed := some (0, lo), launch := g.launch, parents := [] }
    let s1 := { (s.setGraph gid { g with serials := dmapSet 0 g.serials pi (ser + 1) }) with
      serial := id
      wgs := nmapSet s.wgs id wg
      lastPass := cores.foldl (fun (m : NMap Nat) k => nmapSet m k.cid (gid * 64 + pi)) s.lastPass }
    (cores.foldl (fun (t : State) k => t.startPart g.ctx k) s1).startWg id

/-- A workgroup of one warp outside the dispatch (R208, R230): it starts at an index with its own generator integers, in the first role that its
pass declares (R344). -/
def State.placeWarp (s : State) (gid pi : Nat) (p : PassRec) (g : Graph) (kind : WarpKind) (k : WgCore) (m : Mask) (entry : Word)
    (parents : List Nat) (frag : Option Frag) (seed : Nat → Nat × Nat × Nat) : State × Nat :=
  let id := s.serial + 1
  let w := k.cid * 64 + k.slot0
  let wg : Wg :=
    { ctx := g.ctx, graph := some gid, pass := pi, serial := 0, kind := kind, gangw := 1, gangh := 1, warps := 1, wgx := 32, wgy := 1, wgz := 1,
      nv := p.vregs, ns := p.sregs, cores := [k], range := none, taken := [], list := [], owed := none, launch := g.launch, parents := parents }
  let x : Warp := { Warp.empty with ctx := g.ctx, wg := id, kind := kind, role := roleAt p 0, launched := m, nv := p.vregs, ns := p.sregs,
                                    frag := frag, order := id }
  let s1 := ({ s with serial := id, wgs := nmapSet s.wgs id wg }).startPart g.ctx k
  (s1.launchWarp w x entry g.launch seed, w)

/-! ## The distributor -/

/-- A list ordered by a comparison, each element put before the first that it precedes. -/
def insertBy {α : Type} (before : α → α → Bool) (x : α) (xs : List α) : List α :=
  match xs with
  | [] => [x]
  | y :: t => if before x y then x :: y :: t else y :: insertBy before x t

def sortBy {α : Type} (before : α → α → Bool) (xs : List α) : List α := xs.foldr (insertBy before) []

/-- An outstanding range with its owner (R346). -/
structure OutRange where
  next : Nat
  hi : Nat
  owner : Option Nat
  deriving DecidableEq, Repr

/-- The outstanding ranges of a pass, in the order in which they are examined (R346, R347). -/
def State.outRanges (s : State) (gid pi : Nat) (g : Graph) : List OutRange :=
  let free : List OutRange := (g.ranges.filter (fun r => r.pass = pi && decide (r.next < r.hi))).map (fun r => ⟨r.next, r.hi, none⟩)
  let own : List OutRange := s.wgs.filterMap (fun e =>
    match e.2.range with
    | some r => if e.2.graph = some gid && e.2.pass = pi && decide (r.next < r.hi) then some ⟨r.next, r.hi, some e.1⟩ else none
    | none => none)
  sortBy (fun a b => decide (b.hi - b.next < a.hi - a.next) || (a.hi - a.next = b.hi - b.next && decide (a.next < b.next))) (free ++ own)

/-- What an asker receives of a range, if the range qualifies (R347). -/
def rangeOffer (g : Graph) (pi grain : Nat) (r : OutRange) : Option (Nat × Nat) :=
  match r.owner with
  | none => if g.canTake pi r.next then some (r.next, r.hi) else none
  | some _ =>
    let n := r.hi - r.next
    if n < 2 * grain then none
    else
      let m := r.next + grain * ((n / max grain 1 + 1) / 2)
      if g.canTake pi m then some (m, r.hi) else none

/-- The range that an asker receives (R347). -/
def State.offer (s : State) (gid pi : Nat) (g : Graph) (p : PassRec) : Option (OutRange × Nat × Nat) :=
  if p.pclass = 0 then none
  else (s.outRanges gid pi g).findSome? (fun r => (rangeOffer g pi p.grain r).map (fun x => (r, x.1, x.2)))

/-- The range taken from where it stood (R347). -/
def State.cutOffer (s : State) (gid pi : Nat) (r : OutRange) (m : Nat) : State :=
  match r.owner with
  | none =>
    { s with graphs := nmapModify s.graphs gid (fun g =>
        { g with ranges := g.ranges.filter (fun q => !(q.pass = pi && q.next = r.next && q.hi = r.hi)) }) }
  | some id => { s with wgs := nmapModify s.wgs id (fun g => { g with range := g.range.map (fun q => { q with hi := m }) }) }

/-! ## The yardmaster -/

/-- %talw of a core. -/
def State.talwOf (s : State) (cid : Nat) : Nat := dmapGet 255 s.thermal.talw cid

/-- A pass of an admitted graph. -/
structure PassAt where
  gid : Nat
  pi : Nat
  g : Graph
  p : PassRec
  deriving DecidableEq, Repr

/-- The passes of the graphs whose context runs. -/
def State.allPasses (s : State) : List PassAt :=
  (s.graphs.filter (fun e => (s.ctx e.2.ctx).phase = .running)).flatMap (fun e => e.2.enumPasses.map (fun p => ⟨e.1, p.1, e.2, p.2⟩))

/-- Whether a core is a draining stop of another pass (R343). -/
def State.drains (s : State) (a : PassAt) (cid : Nat) : Bool :=
  s.draining.any (fun d => (d.1 ≠ a.gid || d.2.1 ≠ a.pi) &&
    (match (nmapFind s.graphs d.1).bind (fun g => g.passAt d.2.1) with
     | some p => ((rectCores p.gangw p.gangh d.2.2.1 d.2.2.2).getD []).contains cid
     | none => false))

/-- The cores of a gang's rectangle, each with room, and unless only room counts with warmth enough and no other pass's mark (R339, R343). -/
def State.gangRoom (s : State) (roomOnly : Bool) (a : PassAt) (stack core : Nat) : Option (List WgCore) :=
  match rectCores a.p.gangw a.p.gangh stack core with
  | none => none
  | some cs => cs.mapM (fun c =>
      if roomOnly || (32 ≤ s.talwOf c && !s.drains a c) then s.roomFor c a.g.ctx a.p (passWarps a.p) else none)

/-- The rectangle that a gang takes: the lowest north-west stop, in the lowest stack (R343). -/
def State.gangPlace (s : State) (roomOnly : Bool) (a : PassAt) : Option (List WgCore) :=
  ((List.range 48).flatMap (fun c => (List.range 4).map (fun st => (st, c)))).findSome? (fun e => s.gangRoom roomOnly a e.1 e.2)

/-- The cores that a workgroup of a pass would take next for a concurrent placement (R341): a core with %talw below 128 only when no other has
room (R353). -/
def State.concPlace (s : State) (roomOnly : Bool) (a : PassAt) : Option (List WgCore) :=
  let from1 (least : Nat) : Option (List WgCore) := (List.range 192).findSome? (fun c =>
    if roomOnly || (least ≤ s.talwOf c && !s.drains a c) then (s.roomFor c a.g.ctx a.p (passWarps a.p)).map (fun k => [k]) else none)
  if passGang a.p = 1 then
    match from1 128 with
    | some k => some k
    | none => from1 32
  else s.gangPlace roomOnly a

/-- The workgroups of a concurrent pass placed from the j-th on, all or none (R341). -/
def State.placeConc (s : State) (roomOnly : Bool) (a : PassAt) (n j : Nat) : Option State :=
  match n with
  | 0 => some s
  | k + 1 =>
    match nmapFind s.graphs a.gid with
    | none => none
    | some g =>
      let lo := j * a.p.grain
      match s.concPlace roomOnly { a with g := g } with
        | none => none
        | some cs => State.placeConc (s.placeWg a.gid a.pi a.p cs lo (min ((j + 1) * a.p.grain) (a.p.gw * a.p.gh))) roomOnly a k (j + 1)

/-- Whether a concurrent pass has work (R342): it has not been placed, and an index of it has been released (DESIGN CHOICE, log entry 88). -/
def concWork (a : PassAt) : Bool :=
  a.p.pclass = 0 && dmapGet 0 a.g.serials a.pi = 0 && (List.range (a.p.gw * a.p.gh)).any (fun t => a.g.isReleased a.pi t)

/-- The concurrent passes that hold the card (R342): the room of R339 is less than they need. One that only a gang's mark or a core's %talw keeps
from its place holds nothing back. -/
def State.concHolds (s : State) : List PassAt := s.allPasses.filter (fun a => concWork a && (s.placeConc true a (passNwg a.p) 0).isNone)

/-- Whether a hold keeps a pass back (R342). -/
def heldBack (holds : List PassAt) (a : PassAt) : Bool :=
  holds.any (fun h => (h.gid ≠ a.gid || h.pi ≠ a.pi) && decide (a.g.prio ≤ h.g.prio))

/-- The pressure on a pass (R355): 0 favoured, 1 neutral, 2 disfavoured. -/
def pressure (g : Graph) (p : PassRec) : Nat :=
  let ring (r : Nat) : Option ResRec := match g.res r with | some x => if x.trans && x.kind = 3 then some x else none | none => none
  let above (r : Nat) : Bool := match ring r with | some x => decide (x.highm < g.occupancy r) | none => false
  let under (r : Nat) : Bool := match ring r with | some x => decide (g.occupancy r < x.lowm) | none => false
  let outs := (g.genOuts p).map (fun o => o.2.1)
  if p.ins.any (fun i => above i.res) || outs.any under then 0 else if outs.any above then 2 else 1

/-- Whether a core may serve a pass now, its range apart (R339, R342, R343). -/
def State.maySolo (s : State) (holds : List PassAt) (cid : Nat) (a : PassAt) : Option WgCore :=
  if heldBack holds a || s.drains a cid then none else s.roomFor cid a.g.ctx a.p (passWarps a.p)

/-- Whether R353 lets a core take new work of a pass. -/
def State.warmthOk (s : State) (holds : List PassAt) (cid : Nat) (a : PassAt) : Bool :=
  let t := s.talwOf cid
  decide (128 ≤ t) || (decide (32 ≤ t) &&
    !(List.range 192).any (fun c => c ≠ cid && decide (128 ≤ s.talwOf c) && (s.maySolo holds c a).isSome))

/-- The mark of a pass that has been placed taken off (R343). -/
def State.undrain (s : State) (a : PassAt) : State :=
  { s with draining := s.draining.filter (fun d => !(d.1 = a.gid && d.2.1 = a.pi)) }

/-- What a decision of a core for a pass would place (R341, R343, R347, R353, R354): the core itself has room for the pass. -/
def State.decideFor (s : State) (holds : List PassAt) (cid : Nat) (a : PassAt) : Option State :=
  match s.maySolo holds cid a with
  | none => none
  | some k =>
    let warm : Bool := if passGang a.p = 1 then s.warmthOk holds cid a else decide (32 ≤ s.talwOf cid)
    if !warm then none
    else if a.p.pclass = 0 then (if concWork a then (s.placeConc false a (passNwg a.p) 0).map (fun t => t.undrain a) else none)
    else match s.offer a.gid a.pi a.g a.p with
      | none => none
      | some (r, lo, hi) =>
        ((if passGang a.p = 1 then some [k] else s.gangPlace false a) : Option (List WgCore)).map (fun cs =>
          ((s.cutOffer a.gid a.pi r lo).placeWg a.gid a.pi a.p cs lo hi).undrain a)

/-- Numbers compared in turn. -/
def lexLt (xs ys : List Nat) : Bool :=
  match xs, ys with
  | x :: t, y :: u => decide (x < y) || (x = y && lexLt t u)
  | _, _ => false

/-- The place of a pass in the order of R354. -/
def State.rankOf (s : State) (cid : Nat) (a : PassAt) : List Nat :=
  [3 - a.g.prio, pressure a.g a.p, 3 - a.p.prio, if nmapFind s.lastPass cid = some (a.gid * 64 + a.pi) then 0 else 1, a.gid, a.pi]

/-- The decision of a core among the passes of the graphs of one PRIO (R354): the first eligible pass in order. -/
def State.coreDecides (s : State) (prio : Nat) (holds : List PassAt) (cid : Nat) : Option State :=
  (sortBy (fun a b => lexLt (s.rankOf cid a) (s.rankOf cid b)) (s.allPasses.filter (fun a => a.g.prio = prio))).findSome? (s.decideFor holds cid)

/-- The occupied warp slots of a core. -/
def State.slotsHeld (s : State) (cid : Nat) : Nat := ((s.partsOn cid).map (fun e => e.2.nwarp)).foldl (· + ·) 0

/-- The rectangle that a waiting gang marks as draining (R343). -/
def State.drainRect (s : State) (a : PassAt) : Option (Nat × Nat) :=
  let prioOf (g : Wg) : Nat := match g.graph.bind (fun k => nmapFind s.graphs k) with | some h => h.prio | none => 0
  let ok (c : Nat) : Bool := s.coreServes c a.g.ctx && (s.partsOn c).all (fun e => decide (prioOf e.1 ≤ a.g.prio))
  let cost (cs : List Nat) : Nat := (cs.map s.slotsHeld).foldl (· + ·) 0
  (((List.range 48).flatMap (fun c => (List.range 4).map (fun st => (st, c)))).foldl (fun (b : Option ((Nat × Nat) × Nat)) e =>
    match rectCores a.p.gangw a.p.gangh e.1 e.2 with
    | none => b
    | some cs =>
      if !cs.all ok then b
      else match b with
        | none => some (e, cost cs)
        | some (_, n) => if cost cs < n then some (e, cost cs) else b) none).map (·.1)

/-- Marks made for the gang passes that have work and find no rectangle (R343). -/
def State.markDrains (s : State) : State :=
  (s.allPasses.filter (fun a => passGang a.p ≠ 1 && (concWork a || (s.offer a.gid a.pi a.g a.p).isSome))).foldl (fun (t : State) a =>
    if t.draining.any (fun d => d.1 = a.gid && d.2.1 = a.pi) || (t.gangPlace false a).isSome then t
    else match t.drainRect a with
      | some (st, c) => { t with draining := t.draining ++ [(a.gid, a.pi, st, c)] }
      | none => t) s

/-- The first core, in ascending order, whose decision for the graphs of one PRIO places something (R354). -/
def State.decision (s : State) (prio : Nat) : Option State :=
  let holds := s.concHolds
  (List.range 192).findSome? (fun c => s.coreDecides prio holds c)

end Sys2Proof.Machine
end

