-- ==== Sys2Proof/Machine/Raster.lean ====
section
/-! DEFINITION. Triangles, coverage, depth, interpolation, and the pixels of raster tiles (R198 to R212, R219, R450). -/

namespace Sys2Proof.Machine

/-! ## Triangles -/

/-- A triangle on the screen (R200): snapped coordinates in 1/256 pixel, twice its signed area, and z and w of its vertices. -/
structure TriGeo where
  xs : List Int
  ys : List Int
  area : Int
  zs : List Q
  ws : List Q
  deriving DecidableEq, Repr

/-- Element k of a list of integers, 0 beyond it. -/
def intAt (xs : List Int) (k : Nat) : Int := (xs[k]?).getD 0

def qAt (xs : List Q) (k : Nat) : Q := (xs[k]?).getD (qInt 0)

/-- A coordinate snapped to the nearest 1/256 pixel (R200): `(±v / w + 1) × size / 2`. -/
def snapCoord (v w : Q) (size : Nat) : Int := qRound (qMul (qAdd (qDiv v w) (qInt 1)) ⟨(size : Int) * 128, 1⟩)

/-- The set-up's screen positions; none where R200 discards the triangle for its coordinates or its area. -/
def triGeo (pos : List Word) (wpix hpix : Nat) : Option TriGeo := do
  let qs ← (pos.take 12).mapM qF32
  let at4 (j c : Nat) : Q := qAt qs (4 * j + c)
  let js := [0, 1, 2]
  let xs := js.map (fun j => snapCoord (at4 j 0) (at4 j 3) wpix)
  let ys := js.map (fun j => snapCoord (qNeg (at4 j 1)) (at4 j 3) hpix)
  let area := (intAt xs 1 - intAt xs 0) * (intAt ys 2 - intAt ys 0) - (intAt ys 1 - intAt ys 0) * (intAt xs 2 - intAt xs 0)
  if qs.length ≠ 12 || js.any (fun j => qLe (at4 j 3) (qInt 0)) || (xs ++ ys).any (fun x => decide (2 ^ 24 < x.natAbs)) || area = 0 then none
  else some { xs := xs, ys := ys, area := area, zs := js.map (fun j => at4 j 2), ws := js.map (fun j => at4 j 3) }

/-- The first and last pixel whose centre lies within a span of snapped coordinates, clipped to a size (R200). -/
def centreSpan (xs : List Int) (size : Nat) : Int × Int :=
  let (lo, hi) := intSpan xs
  (max 0 (-((128 - lo) / 256)), min ((size : Int) - 1) ((hi - 128) / 256))

/-- The vertices in the order of R201. -/
def vertOrder (g : TriGeo) : List Nat := if 0 < g.area then [0, 1, 2] else [0, 2, 1]

/-- E of the edge from vertex i to vertex j at a pixel's centre, in 1/65536 (R201). -/
def edgeAt (g : TriGeo) (i j : Nat) (px py : Int) : Int :=
  (intAt g.xs j - intAt g.xs i) * (256 * py + 128 - intAt g.ys i) - (intAt g.ys j - intAt g.ys i) * (256 * px + 128 - intAt g.xs i)

/-- Whether an edge keeps a pixel: the top-left rule (R201). -/
def edgeKeeps (g : TriGeo) (i j : Nat) (px py : Int) : Bool :=
  let e := edgeAt g i j px py
  let a := intAt g.xs j - intAt g.xs i
  let b := intAt g.ys j - intAt g.ys i
  decide (0 < e) || (e = 0 && (decide (b < 0) || (b = 0 && decide (0 < a))))

/-- The edges in order, each with the vertex opposite to it. -/
def triEdges (g : TriGeo) : List (Nat × Nat × Nat) :=
  match vertOrder g with
  | [a, b, c] => [(b, c, a), (c, a, b), (a, b, c)]
  | _ => []

/-- R201's coverage. -/
def triCovers (g : TriGeo) (px py : Int) : Bool := (triEdges g).all (fun e => edgeKeeps g e.1 e.2.1 px py)

/-- The area coordinate of a vertex (R202). -/
def lambda (g : TriGeo) (i : Nat) (px py : Int) : Q :=
  match (triEdges g).find? (fun e => e.2.2 = i) with
  | some e => ⟨edgeAt g e.1 e.2.1 px py, g.area.natAbs⟩
  | none => qInt 0

/-- The exact depth (R202). -/
def triDepth (g : TriGeo) (px py : Int) : Q :=
  qSum ([0, 1, 2].map (fun i => qMul (lambda g i px py) (qDiv (qAt g.zs i) (qAt g.ws i))))

/-- The perspective weights (R202); 0 when their sum is 0. -/
def triWeights (g : TriGeo) (px py : Int) : List Q :=
  let us := [0, 1, 2].map (fun i => qDiv (lambda g i px py) (qAt g.ws i))
  us.map (fun u => qDiv u (qSum us))

/-- A pixel that a triangle covers and does not depth-clip (R201, R202). -/
def triHits (g : TriGeo) (px py : Int) : Bool :=
  triCovers g px py && qLe (qInt 0) (triDepth g px py) && qLe (triDepth g px py) (qInt 1)

/-! ## Depth -/

/-- The stored depth of a Z (R202), clamped for a helper as R209 says. -/
def depthBits (d : Option ResRec) (z : Q) : Word :=
  match d with
  | some r =>
    if r.ty % 4 = 1 then BitVec.ofInt 32 (max 0 (min 0xFFFFFF (qRound (qMul z (qInt 0xFFFFFF)))))
    else BitVec.ofNat 32 (qTo .f32 z)
  | none => BitVec.ofNat 32 (qTo .f32 z)

/-- The stored depth at the start of a pass (R206). -/
def depthClear (d : Option ResRec) : Word :=
  match d with
  | some r => if r.ty % 4 = 1 then r.clear &&& 0xFFFFFF#32 else r.clear
  | none => 0

/-- Whether a stored depth is less than another, as numbers (R206). -/
def depthLt (r : ResRec) (a b : Word) : Bool :=
  if r.ty % 4 = 1 then decide (a.toNat < b.toNat) else fvLt false ((ffmt .f32).decode a.toNat) ((ffmt .f32).decode b.toNat)

def depthEq (r : ResRec) (a b : Word) : Bool :=
  if r.ty % 4 = 1 then a = b else fvEq ((ffmt .f32).decode a.toNat) ((ffmt .f32).decode b.toNat)

/-- Whether a fragment wins (R206). -/
def fragWins (d : Option ResRec) (z : Word) (key : Word) (p : Pixel) : Bool :=
  let keyOk : Bool := decide (key.toNat ≤ p.key.toNat)
  match d with
  | none => keyOk
  | some r =>
    match r.ty / 4 % 4 with
    | 0 => depthLt r z p.z || (depthEq r z p.z && keyOk)
    | 1 => depthLt r p.z z || (depthEq r z p.z && keyOk)
    | _ => keyOk

/-! ## Colour -/

/-- The clear pixel of a colour resource (R198). -/
def clearPixel (r : ResRec) : BitVec 64 :=
  if r.ty = 1 then
    let c := r.clear.extractLsb' 0 16
    (r.clear.extractLsb' 16 16) ++ c ++ c ++ c
  else r.clear.zeroExtend 64

/-- Channels of a colour format and their bits. -/
def chanBits (r : ResRec) : Nat × Nat := match r.ty with | 0 => (4, 8) | 1 => (4, 16) | _ => (1, 32)

/-- conv of one .f32 channel (R211). -/
def convChan (r : ResRec) (c : Word) : Nat :=
  match r.ty with
  | 0 =>
    match (ffmt .f32).decode c.toNat with
    | .nan _ => 0
    | .inf neg => if neg then 0 else 255
    | .fin neg m e => (qRound (qMul (qMax (qInt 0) (qMin (qInt 1) (qFin neg m e))) (qInt 255))).toNat
  | 1 => ((ffmt .f16).deliver .rne 0 false false ((ffmt .f32).decode c.toNat)).bits
  | _ => if ((ffmt .f32).decode c.toNat).isNan then 0x7FC00000 else c.toNat

/-- The conv of a quad, as a pixel (R211). -/
def convPixel (r : ResRec) (cs : List Word) : BitVec 64 :=
  let (n, b) := chanBits r
  BitVec.ofNat 64 ((List.range n).foldr (fun k a => a + convChan r ((cs[k]?).getD 0) * 2 ^ (b * k)) 0)

/-- One channel of FOUT.min, .max or .add (R211); `mode` is SUB[2:1]. -/
def foutChan (r : ResRec) (mode out c : Nat) : Nat :=
  match r.ty with
  | 0 => match mode with | 1 => min out c | 2 => max out c | _ => min 255 (out + c)
  | 1 => (minmax .f16 (mode = 2) false out c).1
  | _ => (minmax .f32 (mode = 2) false out c).1

/-- A pixel after FOUT.min, .max or .add; .add does nothing on the floating formats (R211). -/
def foutPixel (r : ResRec) (mode : Nat) (out c : BitVec 64) : BitVec 64 :=
  let (n, b) := chanBits r
  if mode = 3 && r.ty ≠ 0 then out
  else BitVec.ofNat 64 ((List.range n).foldr (fun k a =>
    a + foutChan r mode (out.toNat / 2 ^ (b * k) % 2 ^ b) (c.toNat / 2 ^ (b * k) % 2 ^ b) * 2 ^ (b * k)) 0)

/-! ## Fragments -/

/-- The pixel of a lane of a block (R208). -/
def lanePixel (x0 y0 l : Nat) : Nat × Nat := (x0 + l % 2 + 2 * (l / 4 % 4), y0 + l / 2 % 2 + 2 * (l / 16))

/-- The lanes of a block whose pixels a triangle covers (R208). -/
def blockMask (g : TriGeo) (x0 y0 : Nat) : Mask :=
  maskOf ((List.range 32).filter (fun l => let p := lanePixel x0 y0 l; triHits g p.1 p.2))

/-- The launched lanes: those of quads with a covered pixel (R208). -/
def quadMask (m : Mask) : Mask := maskOf ((List.range 32).filter (fun l => (List.range 4).any (fun k => m.getLsbD (l / 4 * 4 + k))))

/-- The fragment warps of a triangle in a raster tile (R208). -/
def tileFrags (g : TriGeo) (t : Tri) (wt tile : Nat) : List Frag :=
  (List.range 16).flatMap (fun j => (List.range 8).filterMap (fun i =>
    let x0 := 64 * (tile % max wt 1) + 8 * i
    let y0 := 64 * (tile / max wt 1) + 4 * j
    let m := blockMask g x0 y0
    if m = 0 then none else some ⟨t, tile, x0, y0, m⟩))

/-- v0, v1 and v2 of a lane of a fragment warp (R209). -/
def fragRegs (g : TriGeo) (d : Option ResRec) (f : Frag) (l : Nat) : List Word :=
  let p := lanePixel f.x0 f.y0 l
  [BitVec.ofNat 32 (p.1 + p.2 * 2 ^ 15 + (if 0 < g.area then 2 ^ 30 else 0) + (if f.covered.getLsbD l then 0 else 2 ^ 31)), f.tri.key,
    depthBits d (triDepth g p.1 p.2)]

/-- An attribute component interpolated (R210). -/
def interp (ws : List Q) (as : List Word) : Word :=
  let vs := as.map (fun a => (ffmt .f32).decode a.toNat)
  if vs.any (·.isNan) then 0x7FC00000#32
  else
    let infs := (vs.zip ws).filterMap (fun e => match e.1 with
      | .inf neg => if e.2.num = 0 then none else some (neg != decide (e.2.num < 0))
      | _ => none)
    match infs with
    | n :: t => if t.all (fun m => m = n) then (if n then 0xFF800000#32 else 0x7F800000#32) else 0x7FC00000#32
    | [] => BitVec.ofNat 32 (qTo .f32 (qSum ((vs.zip ws).map (fun e => match qOf e.1 with | some x => qMul e.2 x | none => qInt 0))))

/-! ## The graph's side -/

/-- The size of a raster pass's targets in tiles. -/
def Graph.targetSize (g : Graph) (p : PassRec) : Option (Nat × Nat) := ((g.targets p).head?).map (fun r => (r.wt, r.ht))

/-- The depth target of a pass. -/
def Graph.depthRes (g : Graph) (p : PassRec) : Option ResRec := if p.depth = 0xFFFF then none else g.res p.depth

/-- Colour output j of a raster pass. -/
def Graph.colourRes (g : Graph) (p : PassRec) (j : Nat) : Option (Nat × ResRec) :=
  match p.outs[j]? with
  | some (k, _) => if k = 0xFFFF then none else (g.res k).map (fun r => (k, r))
  | none => none

/-- The geometry of a triangle in the pass that emitted it. -/
def State.geoOf (s : State) (t : Tri) : Option TriGeo := do
  let gid ← t.graph
  let g ← nmapFind s.graphs gid
  let p ← g.passAt t.pass
  let (wt, ht) ← if g.isRaster p then g.targetSize p else none
  triGeo t.pos (64 * wt) (64 * ht)

/-- The pixel of a raster tile before any fragment (R206). -/
def freshPixel (d : Option ResRec) (c0 c1 : BitVec 64) : Pixel := { z := depthClear d, key := 0xFFFFFFFF#32, c0 := c0, c1 := c1 }

/-! ## Tile memory -/

/-- Where the bytes of a colour tile's row of eight texels lie: the place of a byte of a colour resource, by 8 × 8 tile and byte within
it, with its metadata byte as offset `none` (R219, R306, R307). -/
def State.colourPlace (s : State) (g : Graph) (ri : Nat) (r : ResRec) (tile sub : Nat) (o : Option Nat) : TilePlace :=
  let tb := pixelBytes r
  if r.trans then
    match nmapFind g.slots (tileKey ri tile), g.yardAt ri (tileOwner r.wt tile / 2) with
    | some n, some es =>
      let base := n * r.stride
      .phys (s.yardPa (tileOwner r.wt tile / 2) (areaByte es (base + (match o with | some k => sub * 64 * tb + k | none => r.tbytes + sub))))
    | _, _ => .nowhere
  else
    let tx := tile % max r.wt 1 * 8 + sub % 8
    let ty := tile / max r.wt 1 * 8 + sub / 8
    let n := ty * (8 * r.wt) + tx
    .virt (match o with | some k => r.base + n * 64 * tb + k | none => r.mta + n)

/-- What an access of a rasteriser to bytes meets: done, a translation fault, a breach of the worlds, PROT with the address of the access (R24),
or a line that an engine job owns. -/
inductive UnitAcc where
  | ok (bs : List Byte)
  | park (va kind level : Nat) (entry : BitVec 64)
  | secv
  | prot (a : Nat)
  | wait
  deriving DecidableEq, Repr

/-- Where a device unit's access to bytes of one page goes for a context: host memory (true) or a home, at an address; nowhere for what has no
place, and where the page walk meets poison, which is reported: R429 says what that does to lanes, jobs and the display only (DESIGN CHOICE, log
entry 44). -/
def State.unitTo (s : State) (c : Nat) (submit : Word) (t : TilePlace) (acc : AccKind) : State × Except UnitAcc (Option (Bool × Nat)) :=
  let dev (s1 : State) (a : Nat) : State × Except UnitAcc (Option (Bool × Nat)) :=
    if !s1.reachable (a / 2 ^ 50) || s1.paKind a = .reserved then (s1, .error (.prot (match t with | .virt va => va | _ => a)))
    else if s1.secBreach c a then (s1, .error .secv) else (s1, .ok (some (false, a)))
  match t with
  | .nowhere => (s, .ok none)
  | .phys pa => dev s pa
  | .virt va =>
    match s.translate c va acc with
    | (s1, .to true a) => (s1, .ok (some (true, a)))
    | (s1, .to false a) => dev s1 a
    | (s1, .fault kind level e) => (s1, .error (.park va kind level e))
    | (s1, .secv) => (s1, .error .secv)
    | (s1, .poison cls) => (s1.reportConsumed c cls (poisonVa va) submit (s.cardNo * 2 ^ 8), .ok none)

/-- A device unit's read of bytes of one page for a context: what has no place, and poison, read as zero bytes; poison is reported. -/
def State.unitRead (s : State) (c : Nat) (submit : Word) (t : TilePlace) (n : Nat) : State × UnitAcc :=
  let zero : List Byte := List.replicate n 0
  match s.unitTo c submit t .read with
  | (s1, .error e) => (s1, e)
  | (s1, .ok none) => (s1, .ok zero)
  | (s1, .ok (some (true, a))) => (s1, .ok (s1.readHost a n))
  | (s1, .ok (some (false, a))) =>
    match s1.homePoison a n with
    | some cls => (s1.reportConsumed c cls (match t with | .virt va => poisonVa va | _ => poisonPa a) submit (s.cardNo * 2 ^ 8), .ok zero)
    | none => (s1, .ok (s1.readHome a n))

/-- A device unit's write of bytes of one page for a context. -/
def State.unitWrite (s : State) (c : Nat) (t : TilePlace) (bs : List Byte) : State × UnitAcc :=
  match s.unitTo c 0 t .write with
  | (s1, .error e) => (s1, e)
  | (s1, .ok none) => (s1, .ok [])
  | (s1, .ok (some (host, a))) => (if host then s1.writeHost a bs else s1.writeHome a bs, .ok [])

/-- The bytes of one 8 × 8 tile from an offset on, cut where a page or a 256-byte unit of the yard ends: places, first byte and length. -/
def State.tilePieces (s : State) (g : Graph) (ri : Nat) (r : ResRec) (tile sub n : Nat) : List (TilePlace × Nat × Nat) :=
  let at0 := s.colourPlace g ri r tile sub (some 0)
  let k := match at0 with | .virt va => 4096 - va % 4096 | _ => 256
  if n = 0 then [] else if n ≤ k then [(at0, 0, n)] else [(at0, 0, k), (s.colourPlace g ri r tile sub (some k), k, n - k)]

/-- Pieces of a tile read in order. -/
def State.readPieces (s : State) (c : Nat) (submit : Word) (ps : List (TilePlace × Nat × Nat)) : State × UnitAcc :=
  ps.foldl (fun (a : State × UnitAcc) p =>
    match a with
    | (t, .ok bs) => match t.unitRead c submit p.1 p.2.2 with
      | (t1, .ok x) => (t1, .ok (bs ++ x))
      | r => r
    | r => r) (s, .ok [])

/-- The raw bytes of one 8 × 8 colour tile of a raster tile, decoded where the resource is compressed (R216, R450). -/
def State.colourTile (s : State) (g : Graph) (ri : Nat) (r : ResRec) (tile sub : Nat) : State × UnitAcc :=
  let n := 64 * pixelBytes r
  if r.cdc then
    match s.unitRead g.ctx g.submit (s.colourPlace g ri r tile sub none) 1 with
    | (s1, .ok mb) =>
      let m := (byteAt mb 0).toNat
      match s1.readPieces g.ctx g.submit (s.tilePieces g ri r tile sub (cdcBytes m)) with
      | (s2, .ok bs) => (s2, .ok (cdcDecode m bs r.clear.toNat))
      | x => x
    | x => x
  else s.readPieces g.ctx g.submit (s.tilePieces g ri r tile sub n)

/-- The texel of a raw tile. -/
def rawTexel (bs : List Byte) (tb k : Nat) : BitVec 64 := BitVec.ofNat 64 (ofBytes ((bs.drop (tb * k)).take tb))

/-- The colour of every pixel of a raster tile by y × 64 + x, loaded as R450 says. -/
def State.loadColour (s : State) (g : Graph) (o : Option (Nat × ResRec)) (tile : Nat) : State × Except UnitAcc (Nat → BitVec 64) :=
  match o with
  | none => (s, .ok (fun _ => 0))
  | some (ri, r) =>
    if r.trans then (s, .ok (fun _ => clearPixel r))
    else
      let step (a : State × Except UnitAcc (List (List Byte))) (sub : Nat) : State × Except UnitAcc (List (List Byte)) :=
        match a with
        | (t, .ok xs) => match t.colourTile g ri r tile sub with
          | (t1, .ok bs) => (t1, .ok (xs ++ [bs]))
          | (t1, e) => (t1, .error e)
        | x => x
      match (List.range 64).foldl step (s, .ok []) with
      | (t, .ok xs) => (t, .ok (fun p => rawTexel ((xs[p / 64 / 8 * 8 + p % 64 / 8]?).getD []) (pixelBytes r) (p / 64 % 8 * 8 + p % 8)))
      | (t, .error e) => (t, .error e)

/-- A raster tile's memory when it is first processed (R206, R450). -/
def State.loadTile (s : State) (g : Graph) (p : PassRec) (tile : Nat) : State × Except UnitAcc (NMap Pixel) :=
  match s.loadColour g (g.colourRes p 0) tile with
  | (s1, .ok f0) =>
    match s1.loadColour g (g.colourRes p 1) tile with
    | (s2, .ok f1) => (s2, .ok ((List.range 4096).map (fun k => (k, freshPixel (g.depthRes p) (f0 k) (f1 k)))))
    | (s2, .error e) => (s2, .error e)
  | (s1, .error e) => (s1, .error e)

/-- The raw bytes of one 8 × 8 tile of an output from a raster tile's pixels. -/
def tileBytes (px : NMap Pixel) (tb : Nat) (get : Pixel → BitVec 64) (sub : Nat) : List Byte :=
  (List.range 64).flatMap (fun k =>
    bytesOf tb (match nmapFind px ((sub / 8 * 8 + k / 8) * 64 + sub % 8 * 8 + k % 8) with | some p => (get p).toNat | none => 0))

/-- What the write-back of one output of a raster tile writes, for each 8 × 8 tile: its sectors, then its metadata byte (R215, R217, R450). -/
def State.outWrites (s : State) (g : Graph) (ri : Nat) (r : ResRec) (tile : Nat) (px : NMap Pixel) (get : Pixel → BitVec 64) :
    List (List (TilePlace × List Byte)) :=
  (List.range 64).map (fun sub =>
    let raw := tileBytes px (pixelBytes r) get sub
    let (mb, bs) := if r.cdc then cdcEncode raw r.clear.toNat else (0, raw)
    (s.tilePieces g ri r tile sub bs.length).map (fun p => (p.1, (bs.drop p.2.1).take p.2.2))
      ++ (if r.cdc then [(s.colourPlace g ri r tile sub none, bytesOf 1 mb)] else []))

/-- Every place that the writes of one 8 × 8 tile go to, or what stops the first that is stopped. A tile of which one write has no place is not
written at all, so that its sectors and its metadata stay a pair (R217). -/
def State.unitTargets (s : State) (c : Nat) (submit : Word) (ws : List (TilePlace × List Byte)) :
    State × Except UnitAcc (List (Bool × Nat × List Byte)) :=
  match ws with
  | [] => (s, .ok [])
  | w :: rest => match s.unitTo c submit w.1 .write with
    | (s1, .error e) => (s1, .error e)
    | (s1, .ok none) => (s1, .ok [])
    | (s1, .ok (some (host, x))) => match State.unitTargets s1 c submit rest with
      | (s2, .error e) => (s2, .error e)
      | (s2, .ok xs) => (s2, .ok (if xs.isEmpty && !rest.isEmpty then [] else (host, x, w.2) :: xs))

/-- The same for several tiles. -/
def State.tileTargets (s : State) (c : Nat) (submit : Word) (ts : List (List (TilePlace × List Byte))) :
    State × Except UnitAcc (List (Bool × Nat × List Byte)) :=
  match ts with
  | [] => (s, .ok [])
  | ws :: rest => match s.unitTargets c submit ws with
    | (s1, .error e) => (s1, .error e)
    | (s1, .ok xs) => match State.tileTargets s1 c submit rest with
      | (s2, .error e) => (s2, .error e)
      | (s2, .ok ys) => (s2, .ok (xs ++ ys))

/-- Lines recalled from the cores' L1s through the directory, where they hold no written byte (R217, R249). -/
def State.recallLines (s : State) (runs : List (Nat × Nat)) : State :=
  let gone (e : Nat × (Byte × Bool)) : Bool := !e.2.2 && runs.any (fun r => sameLine (e.1 % 2 ^ 52) 1 r.1 r.2)
  let cids := dedupNat ((s.mem.l1.filter gone).map (fun e => e.1 / 2 ^ 52))
  cids.foldl (fun (t : State) k => t.wakeCore k) { s with mem := { s.mem with l1 := s.mem.l1.filter (fun e => !gone e) } }

/-- Every target of a raster tile written as one update (R206, R217, R450): colour, and depth to its ring. Nothing is written while some place
cannot be reached, or a job owns one of the lines (R217, R251). -/
def State.storeTile (s : State) (g : Graph) (p : PassRec) (tile : Nat) (px : NMap Pixel) : State × Option UnitAcc :=
  let out (o : Option (Nat × ResRec)) (get : Pixel → BitVec 64) : List (List (TilePlace × List Byte)) :=
    match o with
    | some (ri, r) => s.outWrites g ri r tile px get
    | none => []
  let ws := out (g.colourRes p 0) (·.c0) ++ out (g.colourRes p 1) (·.c1)
    ++ out ((g.depthRes p).map (fun r => (p.depth, r))) (fun x => x.z.zeroExtend 64)
  match s.tileTargets g.ctx g.submit ws with
  | (s1, .error e) => (s1, some e)
  | (s1, .ok ts) =>
    let runs := ts.filterMap (fun (e : Bool × Nat × List Byte) => if e.1 then none else some (e.2.1, e.2.2.length))
    if runs.any (fun r => s1.ownedByJob r.1 r.2) then (s1, some .wait)
    else (ts.foldl (fun (t : State) e => if e.1 then t.writeHost e.2.1 e.2.2 else t.writeHome e.2.1 e.2.2) (s1.recallLines runs), none)

end Sys2Proof.Machine
end

