-- ==== Sys2Proof/Machine/GraphOps.lean ====
section
/-! DEFINITION. Fragment and relaunched warps, workgroup exit, TDONE, RTNEXT, GLAUNCH, admission and REORD (R208, R229, R230, R313 to R329,
R348 to R356). -/

namespace Sys2Proof.Machine

/-! ## Warps outside the dispatch -/

/-- The cores of a stack by falling %talw, then rising %coreid (R356). -/
def State.warmCores (s : State) (stack : Nat) : List Nat :=
  sortBy (fun a b => decide (s.talwOf b < s.talwOf a) || (s.talwOf a = s.talwOf b && decide (a < b))) ((List.range 48).map (fun c => stack * 48 + c))

/-- Room for a fragment warp in a stack: room that is not held back first (R205, R356). -/
def State.fragRoom (s : State) (stack c gid pi : Nat) (p : PassRec) : Option WgCore :=
  match (s.warmCores stack).findSome? (fun k => s.roomFor k c p 1) with
  | some k => some k
  | none => (s.warmCores stack).findSome? (fun k => s.roomHeld k c gid pi p)

/-- Register values of a warp just placed. -/
def State.presetV (s : State) (w : Nat) (vs : List (Nat × List Word)) : State :=
  { s with regs := vs.foldl (fun (r : RegFile) e => e.2.zipIdx.foldl (fun (r : RegFile) x => r.setV w e.1 x.2 x.1) r) s.regs }

/-- A fragment warp launched, if there is room for it (R208, R209, R336). -/
def State.launchFrag (s : State) (gid pi : Nat) (g : Graph) (p : PassRec) (wt : Nat) (f : Frag) : Option State := do
  let geo ← s.geoOf f.tri
  let k ← s.fragRoom (tileOwner wt f.tile / 2) g.ctx gid pi p
  let m := quadMask f.covered
  let vs := (lanesOf m).map (fun l => (l, fragRegs geo (g.depthRes p) f l))
  let v0 (l : Nat) : Nat := match vs.find? (fun e => e.1 = l) with | some (_, x :: _) => x.toNat | _ => 0
  let (s1, w) := s.placeWarp gid pi p g .fragment k m p.frag [] (some f) (fun l => (pi, f.tri.key.toNat, v0 l))
  some (s1.presetV w vs)

/-- The raster tiles of the graphs of one PRIO whose fragment warps wait for room: graph, key of the tile. -/
def State.fragQueue (s : State) (prio : Nat) : List (Nat × Nat) :=
  s.graphs.flatMap (fun e =>
    if e.2.prio = prio && (s.ctx e.2.ctx).phase = .running then (e.2.raster.filter (fun r => !r.2.pend.isEmpty)).map (fun r => (e.1, r.1)) else [])

/-- The first waiting fragment warp of one raster tile launched. -/
def State.launchFirst (s : State) (gid key : Nat) : Option State := do
  let g ← nmapFind s.graphs gid
  let p ← g.passAt (key / 2 ^ 24)
  let r ← nmapFind g.raster key
  let f ← r.pend.head?
  let (wt, _) ← g.targetSize p
  let s1 ← s.launchFrag gid (key / 2 ^ 24) g p wt f
  some { s1 with graphs := nmapModify s1.graphs gid (fun g => { g with raster := nmapModify g.raster key (fun r => { r with pend := r.pend.tail }) }) }

/-- The reorder entries of a core. -/
def State.entriesAt (s : State) (cid : Nat) : List ReEntry := dmapGet [] s.cores.reorder cid

/-- The state with a core's reorder entries replaced. -/
def State.setEntries (s : State) (cid : Nat) (es : List ReEntry) : State :=
  { s with cores := { s.cores with reorder := dmapSet [] s.cores.reorder cid es } }

/-- The graph and pass of an entry's workgroup. -/
def State.entryPass (s : State) (e : ReEntry) : Option (Nat × Nat) := do
  let g ← nmapFind s.wgs e.wg
  let k ← g.graph
  some (k, g.pass)

/-- Whether a reorder entry's graph has a PRIO, and its context runs. -/
def State.entryRuns (s : State) (prio : Nat) (e : ReEntry) : Bool :=
  match (s.entryPass e).bind (fun k => nmapFind s.graphs k.1) with
  | some g => g.prio = prio && (s.ctx g.ctx).phase = .running
  | none => false

/-- The next warp of a draining reorder unit for a graph of one PRIO launched, if the core has room that is not held back (R205, R230,
R356). Taken entries stand group by group. -/
def State.relaunch (s : State) (prio cid : Nat) : Option State := do
  let es := s.entriesAt cid
  let e ← es.find? (fun e => e.drain ≠ 0 && s.entryRuns prio e)
  let (gid, pi) ← s.entryPass e
  let g ← nmapFind s.graphs gid
  let p ← g.passAt pi
  let k ← s.roomFor cid g.ctx p 1
  let like (x : ReEntry) : Bool := x.drain = e.drain && x.key = e.key && x.target = e.target && s.entryPass x = some (gid, pi)
  let mine := (es.filter like).take 32
  let rest := (es.zipIdx.filter (fun x => !(like x.1 && decide (((es.take x.2).filter like).length < 32)))).map (·.1)
  let n := mine.length
  let first (l : Nat) : Nat := match mine[l]? with | some x => (x.payload.headD 0).toNat | none => 0
  let (s1, w) := s.placeWarp gid pi p g .relaunched k (maskOf (List.range n)) e.target (dedupNat (mine.map (·.wg))) none
    (fun l => (pi, e.key.toNat, first l))
  some ((s1.presetV w (mine.zipIdx.map (fun x => (x.2, x.1.payload)))).setEntries cid rest)

/-- The next placement for the graphs of one PRIO, if any: a fragment warp, a relaunched warp, or what a core decides (R354, R356). -/
def State.placeNext (s : State) (prio : Nat) : Option State :=
  match (s.fragQueue prio).findSome? (fun e => s.launchFirst e.1 e.2) with
  | some t => some t
  | none =>
    match (s.cores.reorder.map (·.1)).findSome? (fun c => s.relaunch prio c) with
    | some t => some t
    | none => s.decision prio

/-- Placements one after another, each for the highest PRIO that has one: a placement may take off a mark that kept a higher PRIO from its
place (R343, R354). -/
def State.placements (s : State) (fuel : Nat) : State :=
  match fuel with
  | 0 => s
  | k + 1 =>
    match ([3, 2, 1, 0].filter (fun p => s.graphs.any (fun e => e.2.prio = p))).findSome? (fun p => s.placeNext p) with
    | some t => State.placements t k
    | none => s

/-- What the yardmasters do after an event (R340, R354, R356): workgroups that wait for their first index look again; then placements until
there is none to make; then the marks. -/
def State.yardmaster (s : State) : State := if s.graphs.isEmpty then s else (s.startOwed.placements 24576).markDrains

/-! ## Workgroups exit -/

/-- The live warps of a workgroup, on one core or on any. -/
def State.wgWarps (s : State) (id : Nat) : List Nat := (s.warps.filter (fun e => e.2.wg = id && e.2.live ≠ 0)).map (·.1)

/-- Tags of a run of units taken off (R403). -/
def untagRun (m : NMap Nat) (a n : Nat) : NMap Nat := nmapClear m a (a + n)

/-- The matrix room of a part returned when its last warp exits (R149), which also leaves the multicast groups (R287). -/
def State.endMatrix (s : State) (id : Nat) (g : Wg) (k : WgCore) : State :=
  if k.lsize = 0 && k.accn = 0 && k.resv.isEmpty && !s.groups.any (fun e => (e.2.memberOf id k.cid).isSome) then s
  else
    let m := s.cores
    let s1 := { s with
      cores := { m with tagLoft := untagRun m.tagLoft (k.cid * 256 + k.loftb) ((k.lsize + 1023) / 1024),
                        tagAcc := untagRun m.tagAcc (k.cid * 32 + k.acc0) k.accn }
      wgs := nmapModify s.wgs id (fun (w : Wg) =>
        { w with cores := w.cores.map (fun (c : WgCore) => if c.cid = k.cid then { c with lsize := 0, accn := 0, resv := [] } else c) }) }
    s1.leaveAll g.ctx id k.cid

/-- The room of a workgroup freed once its last warp has exited and its engine jobs have ended, with what its gang's links hold (R259, R303, R339,
R403). -/
def State.endRoom (s : State) (id : Nat) (g : Wg) : State :=
  let ws := (s.warps.filter (fun e => e.2.wg = id)).map (·.1)
  let m := g.cores.foldl (fun (m : Cores) k =>
    { m with tagScratch := untagRun m.tagScratch (k.cid * 4096 + k.sbase) k.ssize, tagSlot := untagRun m.tagSlot (k.cid * 64 + k.slot0) k.nwarp,
             tagCol := untagRun m.tagCol (k.cid * 512 + k.cbase) k.csize }) s.cores
  { s with
    cores := { m with links := linksWithout m.links [id], flight := linksWithout m.flight [id] }
    warps := s.warps.filter (fun e => e.2.wg ≠ id)
    ops := s.ops.filter (fun e => !ws.contains e.2.w)
    signs := s.signs.filter (fun e => !ws.contains (e.1 / 8))
    wgs := nmapModify s.wgs id (fun w => { w with cores := [] }) }

/-- Whether a workgroup still has reorder entries or warps relaunched from them (R230). -/
def State.wgEntries (s : State) (id : Nat) : Bool :=
  s.cores.reorder.any (fun e => e.2.any (fun x => x.wg = id)) || s.wgs.any (fun e => e.2.parents.contains id)

/-- The untaken rest of a range made unowned, and the tiles of a workgroup retired (R320, R348). -/
def endTiles (g : Wg) (h : Graph) : Graph :=
  let h1 := match g.range with
    | some r =>
      if r.next < r.hi && (match h.passAt g.pass with | some p => p.pclass ≠ 0 | none => false) then
        { h with ranges := h.ranges ++ [⟨g.pass, r.next, r.hi⟩] }
      else h
    | none => h
  g.taken.foldl (fun (h : Graph) t => h.retireTile g.pass t) h1

/-- A workgroup exits (R259, R320, R348): what it wrote is released, its tiles retire, and its graph may complete. -/
def State.endWg (s : State) (id : Nat) (g : Wg) : State :=
  let s1 := { s with wgs := nmapErase s.wgs id }
  match g.graph with
  | none => s1
  | some k => ({ s1 with graphs := nmapModify s1.graphs k (endTiles g) }).finishGraph k

/-- A core of a workgroup on which its last warp has exited, and which still has matrix room or a place in a multicast group to give back (R149,
R287). -/
def State.matrixOver (s : State) (id : Nat) (g : Wg) : Option WgCore :=
  g.cores.find? (fun k => !(s.wgWarps id).any (fun w => warpCid w = k.cid) &&
    (k.lsize ≠ 0 || k.accn ≠ 0 || !k.resv.isEmpty || s.groups.any (fun e => (e.2.memberOf id k.cid).isSome)))

/-- Whether an engine or cut-selection job of a workgroup is outstanding (R259). -/
def State.wgJobs (s : State) (id : Nat) : Bool :=
  s.jobs.any (fun e => e.2.wg = id) || s.cuts.any (fun e => (s.warp e.2.w).wg = id)

/-- Whether a release at each core of a workgroup has to wait (R250, R259). -/
def State.wgHeld (s : State) (g : Wg) : Bool := g.cores.any (fun k => s.releaseHeld k.cid .card)

/-- What a workgroup wrote released at each of its cores (R259). -/
def State.wgRelease (s : State) (g : Wg) : State := g.cores.foldl (fun (t : State) k => t.releaseAt k.cid .card) s

/-- One step of a workgroup's end, if it is due (R149, R259, R287, R320). -/
def State.endStep (s : State) (id : Nat) (g : Wg) : Option State :=
  if g.unstarted then none
  else match s.matrixOver id g with
  | some k => some (s.endMatrix id g k)
  | none =>
    if !(s.wgWarps id).isEmpty || s.wgJobs id || s.wgHeld g then none
    else if !g.cores.isEmpty then some ((s.wgRelease g).endRoom id g)
    else if s.wgEntries id then none
    else some (s.endWg id g)

/-- Every end that is due (R320), and the placements that follow (R354). -/
def State.settleFrom (s : State) (fuel : Nat) : State :=
  match fuel with
  | 0 => s
  | k + 1 =>
    match s.wgs.findSome? (fun e => s.endStep e.1 e.2) with
    | some t => State.settleFrom t k
    | none => s

/-- After a warp's last lane or a job's end: workgroups end, then the yardmasters decide. -/
def State.settle (s : State) : State :=
  let t := s.settleFrom (s.wgs.foldl (fun (a : Nat) e => a + e.2.cores.length + 2) 4)
  if t.wgs.length = s.wgs.length && t.warps.length = s.warps.length then t else t.yardmaster

/-! ## TDONE -/

/-- TILE 0x04 of a warp that is in no workgroup of a pass (R325, R352). -/
def State.noPass (s : State) (w : Nat) : Bool := (s.warp w).kind ≠ .group || (s.wgOf w).graph.isNone

/-- The tile that a lane's TDONE names. -/
def tdoneTile (f : RForm) (s : State) (c : Rd) : Option Nat :=
  if f.sub.getLsbD 0 then (s.warp c.w).tile else some (srcN s c .n32 f.sa)

/-- The causes of TDONE (R325). -/
def tdoneCause (f : RForm) (s : State) (c : Rd) : Option (Cause × Nat × BitVec 64) :=
  if s.noPass c.w then some (.tile, 4, 0)
  else match tdoneTile f s c with
    | none => some (.tile, 4, 0)
    | some t => if (s.wgOf c.w).taken.contains t then none else some (.tile, 3, 0)

/-- One lane's part of TDONE (R259, R325): a release at each core of the workgroup, then the retire. -/
def perfTdone (f : RForm) (s : State) (o : Op) (l : Nat) : State × Perf :=
  let r := opRec o l
  let g := s.wgOf o.w
  let t := if f.sub.getLsbD 0 then r.aux - 1 else (r.a.truncate 32 : Word).toNat
  match g.graph with
  | none => (s, .trap .tile 4 0)
  | some k =>
    match nmapFind s.graphs k with
    | none => (s, .done [])
    | some h =>
      if (nmapFind h.retired (tileKey g.pass t)).isSome then (s, .done [])
      else if s.wgHeld g then (s, .wait .release 0)
      else
        let s1 := s.wgRelease g
        ((((s1.setGraph k (h.retireTile g.pass t)).finishGraph k).yardmaster), .done [])

def opTdone (f : RForm) : LongOp := 
  { cause := tdoneCause f, slots := slotsR f .n32 .b32 .b32, ord := { mem := true, rel := true }, perf := perfTdone f }

/-- TDONE (R325). -/
def execTdone (h : Hdr) (f : RForm) (s : State) : Out := .next (issueLong (.tdone h f) h (opTdone f) s)

/-! ## RTNEXT -/

/-- Entry k of a workgroup's list decided (R351): its index is owed, or the list ends there with none. -/
def State.decideIndex (s : State) (w k : Nat) : State :=
  let id := (s.warp w).wg
  let g := s.wgOf w
  let put (t : State) (f : Wg → Wg) : State := { t with wgs := nmapModify t.wgs id f }
  let ends (t : State) : State := put t (fun x => { x with list := x.list ++ [none] })
  if g.list.any (·.isNone) then ends s
  else match g.range, g.graph.bind (fun q => (nmapFind s.graphs q).map (fun h => (q, h))) with
    | some r, some (gid, h) =>
      if r.next < r.hi then put s (fun x => { x with range := some { r with next := r.next + 1 }, owed := some (k, r.next) })
      else match h.passAt g.pass with
        | none => ends s
        | some p =>
          match if s.warmthOk s.concHolds (warpCid w) ⟨gid, g.pass, h, p⟩ then s.offer gid g.pass h p else none with
          | some (q, lo, hi) =>
            put (s.cutOffer gid g.pass q lo) (fun x => { x with range := some ⟨lo, lo + 1, hi⟩, owed := some (k, lo) })
          | none => (ends s).yardmaster
    | _, _ => ends s

/-- RTNEXT returns r to the lanes of M (R351): their generators are reseeded and the warp's current tile becomes r. -/
def State.rtReturn (s : State) (f : RForm) (o : Op) (r : Option Nat) : State × Perf :=
  let x := s.warp o.w
  let g := s.wgOf o.w
  let d : Nat := match r with | some t => t | none => 0xFFFFFFFF
  let s1 := s.setWarp o.w { x with tile := r }
  let seeds := (lanesOf o.lanes).map (fun l => RegWrite.rng l (seedOf g.launch.seed.toNat g.pass d (x.warpid * 32 + l)))
  (s1.applyWrites o.w seeds,
    .done ((lanesOf o.lanes).flatMap (fun l => dstWords (opRec o l).hm f.dst l [BitVec.ofNat 32 d])))

/-- The count k of an RTNEXT, taken once (R351, R385). -/
def State.rtCount (s : State) (o : Op) : State × Nat :=
  match o.mark with
  | some k => (s, k)
  | none =>
    let x := s.warp o.w
    (((s.setWarp o.w { x with k := x.k + 1 }).modOp o.seq (fun (q : Op) => { q with mark := some (x.k + 1) })), x.k + 1)

/-- RTNEXT for its warp (R351). -/
def perfRtnext (f : RForm) (s : State) (o : Op) (_ : Nat) : State × Perf :=
  let (s0, k) := s.rtCount o
  let id := (s0.warp o.w).wg
  match (s0.wgOf o.w).list[k]? with
  | some r => s0.rtReturn f o r
  | none =>
    if s0.warps.any (fun e => e.2.wg = id && e.2.live ≠ 0 && decide (e.2.k + 15 < k)) || (s0.wgOf o.w).list.length < k then
      (s0, .wait .lag 0xFFFFFFFF)
    else
      let s1 := if (s0.wgOf o.w).owed.isSome then s0 else s0.decideIndex o.w k
      let g := s1.wgOf o.w
      match g.owed, g.graph.bind (fun q => (nmapFind s1.graphs q).map (fun h => (q, h))) with
      | some (_, t), some (gid, h) =>
        if !h.isReleased g.pass t then (s1, .wait .tile t)
        else if !h.slotsReady g.pass t then (s1, .wait .slotFree t)
        else
          let s2 := (s1.setGraph gid (h.take g.pass t))
          let s3 := { s2 with wgs := nmapModify s2.wgs id (fun x => { x with owed := none, taken := x.taken ++ [t], list := x.list ++ [some t] }) }
          (g.cores.foldl (fun (t : State) c => t.acquireAt c.cid .card) s3).rtReturn f o (some t)
      | _, _ => s1.rtReturn f o none

/-- The cause of RTNEXT (R352). -/
def rtnextCause (s : State) (c : Rd) : Option (Cause × Nat × BitVec 64) := if s.noPass c.w then some (.tile, 4, 0) else none

def opRtnext (f : RForm) : LongOp :=
  { cause := rtnextCause, slots := slotsR f .b32 .b32 .b32, pend := fun s c => pendOf (s.inHandler c.w c.l) f.dst c.l 1, once := true
    ord := { mem := true, acq := true }, span := fun _ _ => (5, 0, 0), perf := perfRtnext f }

/-- RTNEXT (R351). -/
def execRtnext (h : Hdr) (f : RForm) (s : State) : Out := .next (issueLong (.rtnext h f) h (opRtnext f) s)

/-- A waiting RTNEXT looks again (R318, R351). -/
def execTileIndexTake (id : Nat) (s : State) : Out :=
  .next (match nmapFind s.ops id with
    | none => s
    | some o => match o.instr with
      | .rtnext _ f => retryLanes (opRtnext f) id (lanesOf o.todo) s
      | _ => s)

/-! ## Admission -/

/-- A queue's register block. -/
def State.queue (s : State) (q : Nat) : Queue := (nmapFind s.queues q).getD Queue.reset

def State.setQueue (s : State) (q : Nat) (x : Queue) : State := { s with queues := nmapSet s.queues q x }

/-- A queue entry's STATUS written, through translation for an entry in device memory (R327, R328). -/
def State.putStatus (s : State) (c : Nat) (host : Bool) (a : Nat) (x : Word) : State :=
  if host then s.writeHost a (bytesOf 4 x.toNat)
  else (s.unitWrite c (.virt a) (bytesOf 4 x.toNat)).1

/-- A queue's entry consumed: QHEAD advances (R326, R328). -/
def State.consume (s : State) (q : Nat) : State :=
  let x := s.queue q
  s.setQueue q { x with qhead := x.qhead + 1, stat := if x.qhead + 1 = x.qtail then 0 else 1 }

/-- Admission ends with a status word (R317, R328, R329). DESIGN CHOICE (log entry 49): the SUBMIT of a queue that has been disabled or has stopped is
not consumed. -/
def State.endAdmission (s : State) (id : Nat) (a : AdmReq) (status : Word) : State :=
  let s1 := { s with adms := nmapErase s.adms id }
  let s2 := match a.op with
    | some op =>
      let y := s1.ctx a.ctx
      (s1.setCtx a.ctx { y with launchQ := y.launchQ.filter (fun k => k ≠ id) }).endAccepted op (fun o => statusWrites o status)
    | none => s1
  match a.queue with
  | none => s2
  | some q =>
    let s3 := s2.putStatus a.ctx a.host a.status status
    let x := s3.queue q
    if x.qhead = a.entry && x.stat ≠ 3 && x.qctl.getLsbD 31 then s3.consume q else s3

/-- A graph admitted (R313, R316, R320, R346): its scoreboard starts, and the yardmasters look at its work. -/
def State.admitGraph (s : State) (id : Nat) (a : AdmReq) (g : Graph) : State :=
  let gid := s.serial + 1
  let s1 := { s with serial := gid, graphs := nmapSet s.graphs gid g.start }
  let s2 := match a.queue with
    | some q => let y := s1.queue q; s1.setQueue q { y with graphs := y.graphs ++ [gid] }
    | none => s1
  ((s2.endAdmission id a admittedWord).finishGraph gid).yardmaster

/-! ## Promoted frames -/

/-- A frame's bytes copied into a yard unit, or back (R401). -/
def State.copyFrame (s : State) (stack frame unit : Nat) (into : Bool) : State :=
  (List.range 16).foldl (fun (t : State) k =>
    let a := frame * 65536 + 4096 * k
    let b := t.yardPa stack (unit * 65536 + 4096 * k)
    if into then t.copy4K a b 10 9 else t.copy4K b a 9 10) s

/-- A promoted frame's home switches back to GDDR-7 with its bytes (R401). -/
def State.demote (s : State) (frame : Nat) : State :=
  match nmapFind s.mem.moved frame with
  | none => s
  | some y =>
    let s1 := s.copyFrame (y / 2 ^ 32) frame (y % 2 ^ 32) false
    { s1 with mem := { s1.mem with moved := nmapErase s1.mem.moved frame } }

/-- Whether a 64 KiB unit of a stack's yard meets a graph's areas. -/
def Graph.holdsUnit (g : Graph) (stack u : Nat) : Bool :=
  g.yard.any (fun e => e.1 % 4 = stack && e.2.any (fun r => decide (r.1 < 65536 * (u + 1) ∧ 65536 * u < r.1 + r.2)))

/-- The promoted frames that lie in a graph's areas are demoted and the promotions into them given up: rings take precedence (R401). -/
def State.makeRoom (s : State) (g : Graph) : State :=
  let s1 := { s with mem := { s.mem with promos := s.mem.promos.filter (fun p => !g.holdsUnit p.stack p.yard) } }
  (s1.mem.moved.filter (fun e => g.holdsUnit (e.2 / 2 ^ 32) (e.2 % 2 ^ 32))).foldl (fun (t : State) e => t.demote e.1) s1

/-- A checked graph takes its space, or waits for it (R316). -/
def State.admitOrWait (s : State) (id : Nat) (a : AdmReq) (g : Graph) : State :=
  match s.reserve g with
  | some h => (s.makeRoom h).admitGraph id a h
  | none =>
    if a.graph.isSome then s
    else { s with serial := s.serial + 1, adms := nmapSet s.adms id { a with graph := some g, since := s.serial + 1 } }

/-- Whether no other waiting graph comes first (R316). -/
def State.admTurn (s : State) (id : Nat) (a : AdmReq) : Bool :=
  match a.graph with
  | none => true
  | some g => s.adms.all (fun e => match e.2.graph with
      | some h => e.1 = id || !(decide (g.prio < h.prio) || (g.prio = h.prio && decide (e.2.since < a.since || (e.2.since = a.since && e.1 < id))))
      | none => true)

/-- Admission of one graph (R313). -/
def execGraphAdmission (id : Nat) (s : State) : Out :=
  .next (match nmapFind s.adms id with
    | none => s
    | some a =>
      if a.fault.isSome || (s.ctx a.ctx).phase ≠ .running then s
      else match a.graph with
        | some g => if s.admTurn id a then s.admitOrWait id a g else s
        | none =>
          match s.examineGraph a.ctx a.addr a.queue with
          | (s1, .refused r) => s1.endAdmission id a r.word
          | (s1, .stopped (.park va kind level e) sub rd) =>
            ({ s1 with adms := nmapSet s1.adms id { a with fault := some (va, kind), submit := sub, reading := rd } }).addFault a.ctx .queue va kind
              level e (s.cardNo * 2 ^ 8)
          | (s1, .stopped .bad _ rd) => s1.endAdmission id a (unread rd).word
          | (s1, .stopped .secv sub _) => s1.fatalEnd a.ctx (agentFatal Cause.secv.code 0 0 sub)
          | (s1, .stopped (.poison cls addr) sub rd) => (s1.reportConsumed a.ctx cls addr sub (s.cardNo * 2 ^ 8)).endAdmission id a (unread rd).word
          | (s1, .graph g) => s1.admitOrWait id a g)

/-- A parked admission tried again, or refused with RESULT 2 (R317, R400). -/
def State.replyAdm (s : State) (fail : Bool) (id : Nat) : State :=
  match nmapFind s.adms id with
  | none => s
  | some a =>
    if a.fault.isNone then s
    else if fail then s.endAdmission id a (unread a.reading).word
    else { s with adms := nmapSet s.adms id { a with fault := none } }

/-! ## GLAUNCH -/

/-- GLAUNCH for its warp (R329). -/
def perfGlaunch (s : State) (o : Op) (l : Nat) : State × Perf :=
  let r := opRec o l
  let c := (s.warp o.w).ctx
  let a := r.a.toNat
  if a % 64 ≠ 0 then (s, .trap .align 0 r.a)
  else match s.genericAddr o.w l r.hm a with
    | .here (.virt va) =>
      if va ≠ a then (s, .trap .prot 0 r.a)
      else
        let x := s.ctx c
        if s.releaseHeld (warpCid o.w) .system then (s, .wait .release 0)
        else if 16 ≤ x.launchQ.length then (s, .wait .launchQueue 1)
        else
          let id := s.serial + 1
          let q : AdmReq :=
            { ctx := c, addr := a, queue := none, op := some o.seq, graph := none, since := 0, entry := 0, host := false, status := 0, fault := none }
          let s1 := s.releaseAt (warpCid o.w) .system
          (({ s1 with serial := id, adms := nmapSet s1.adms id q }).setCtx c { x with launchQ := x.launchQ ++ [id] }, .accept)
    | _ => (s, .trap .prot 0 r.a)

def opGlaunch (f : RForm) : LongOp :=
  { slots := slotsR f .n64 .b32 .b32, pend := fun s c => pendOf (s.inHandler c.w c.l) f.dst c.l 1, once := true
    ord := { mem := true, rel := true }, late := true, perf := perfGlaunch }

/-- GLAUNCH (R329). -/
def execGlaunch (h : Hdr) (f : RForm) (s : State) : Out := .next (issueLong (.glaunch h f) h (opGlaunch f) s)

/-- A waiting GLAUNCH looks at the launch queue again (R329). -/
def execLaunchQueueAccept (id : Nat) (s : State) : Out :=
  .next (match nmapFind s.ops id with
    | none => s
    | some o => match o.instr with
      | .glaunch _ f => retryLanes (opGlaunch f) id (lanesOf o.todo) s
      | _ => s)

/-! ## REORD -/

/-- One lane's part of REORD (R229): its entry is deposited, unless the unit is full. -/
def perfReord (f : RForm) (s : State) (o : Op) (l : Nat) : State × Perf :=
  let r := opRec o l
  let cid := warpCid o.w
  let es := s.entriesAt cid
  if 4096 ≤ es.length then (s, .wait .reorder 0)
  else
    let e : ReEntry :=
      { key := r.a.truncate 16, target := r.c.truncate 32, payload := wordsOf (reordN f) r.data, ctx := (s.warp o.w).ctx, wg := (s.warp o.w).wg,
        drain := 0 }
    let s1 := s.setEntries cid (es ++ [e])
    ({ s1 with cores := { s1.cores with reTimer := nmapSet s1.cores.reTimer cid (s.cyclesOf cid) } }, .done [])

/-- REORD (R229): the lanes of M exit; its window is empty. -/
def opReord (f : RForm) : LongOp :=
  { pre := privInHandler
    slots := fun s c => { slotsR f .b32 .b32 .b32 s c with data := s.vRun c f.sb (reordN f) }
    perf := perfReord f }

/-- REORD (R229). -/
def execReord (h : Hdr) (f : RForm) (s : State) : Out := .next (issueLong (.reord h f) { h with nxt := .exit } (opReord f) s)

/-- Entries group by group, in the order of each group's first deposit (R230); a group is of one pass. -/
def State.inGroups (s : State) (fuel : Nat) (es : List ReEntry) : List ReEntry :=
  match fuel, es with
  | 0, es => es
  | _, [] => []
  | n + 1, e :: t =>
    let like (x : ReEntry) : Bool := x.key = e.key && x.target = e.target && s.entryPass x = s.entryPass e
    e :: t.filter like ++ s.inGroups n (t.filter (fun x => !like x))

/-- Every entry present is taken by a drain, and its groups launch as there is room (R230). -/
def State.drain (s : State) (cid : Nat) : State :=
  let es := s.entriesAt cid
  let n := es.foldl (fun (a : Nat) e => max a e.drain) 0 + 1
  let fresh := (es.filter (fun e => e.drain = 0)).map (fun e => { e with drain := n })
  (s.setEntries cid (es.filter (fun e => e.drain ≠ 0) ++ s.inGroups fresh.length fresh)).yardmaster

/-- Whether the distributor has no further range for a pass (R230, R347). -/
def State.noRange (s : State) (gid pi : Nat) : Bool :=
  match nmapFind s.graphs gid with
  | none => true
  | some g => match g.passAt pi with
    | none => true
    | some p => (s.outRanges gid pi g).all (fun r => r.owner.isSome && decide (r.hi - r.next < 2 * p.grain))

/-- A reorder unit drains when it is full or its pass has no further range (R230). -/
def execReorderDrain (cid : Nat) (s : State) : Out :=
  let es := s.entriesAt cid
  let due : Bool := (decide (4096 ≤ es.length) && es.any (fun e => e.drain = 0)) || es.any (fun e => e.drain = 0 && (match s.entryPass e with | some (g, p) => s.noRange g p | none => false))
  .next (if due then s.drain cid else s)

/-- 4,096 cc without a deposit drain a reorder unit (R230). -/
def execReorderTimerExpiry (cid : Nat) (s : State) : Out :=
  let due : Bool := (s.entriesAt cid).any (fun e => e.drain = 0) && (match nmapFind s.cores.reTimer cid with
    | some t => decide (t + 4096 ≤ s.cyclesOf cid)
    | none => false)
  .next (if due then s.drain cid else s)

end Sys2Proof.Machine
end

