-- ==== Sys2Proof/Machine/QueueOps.lean ====
section
/-! DEFINITION. The submission queues and the display planes (R326 to R331, R447 to R449). -/

namespace Sys2Proof.Machine

/-! ## Queues -/

/-- The context that QCTL names (R326). -/
def Queue.ctx (x : Queue) : Nat := (x.qctl.extractLsb' 0 12).toNat

/-- The entries of a queue (R326). -/
def Queue.len (x : Queue) : Nat := 2 ^ (x.qctl.extractLsb' 16 5).toNat

/-- Whether a queue runs: enabled and not stopped. -/
def Queue.on (x : Queue) : Bool := x.qctl.getLsbD 31 && x.stat ≠ 3

/-- Whether QCTL is valid: 1 to 16 for the number of entries, and the live identifier of its slot (R326). -/
def State.qctlOk (s : State) (x : Queue) : Bool :=
  let k := (x.qctl.extractLsb' 16 5).toNat
  let y := s.ctx x.ctx
  decide (1 ≤ k ∧ k ≤ 16) && y.valid && s.ctxLive x.ctx

/-- A queue stopped (R326). -/
def State.stopQueue (s : State) (q cause : Nat) : State := s.setQueue q { s.queue q with stat := 3, cause := cause }

/-- A device agent's access of a queue that fails: a fault holds the queue, which keeps the cause that a FAIL reply gives it; other failures
stop it with that cause (R328). -/
def State.queueStop (s : State) (q cause : Nat) (e : RecStop) : State :=
  let x := s.queue q
  let here := s.cardNo * 2 ^ 8
  match e with
  | .park va kind level en => (s.setQueue q { x with fault := some (va, kind), fcause := cause }).addFault x.ctx .queue va kind level en here
  | .bad => s.stopQueue q cause
  | .poison cls a => (s.reportConsumed x.ctx cls a 0 here).stopQueue q cause
  | .secv => s.fatalEnd x.ctx (agentFatal Cause.secv.code 0 0 0)

/-- The fields of a queue entry (R327). -/
structure QEntry where
  op : Nat
  graph : Nat
  tokaddr : Nat
  tokval : Nat
  deriving DecidableEq, Repr

def qentryOf (x : Nat) : QEntry :=
  { op := bitsAt x 0 8, graph := bitsAt x 64 64, tokaddr := bitsAt x 128 64, tokval := bitsAt x 192 64 }

/-- An entry that R327 allows: STATUS is the device's own. -/
def qentryOk (x : Nat) : Bool :=
  let e := qentryOf x
  decide (e.op ≤ 3) && bitsAt x 8 56 = 0 && bitsAt x 288 224 = 0
    && (if e.op = 1 then e.graph % 64 = 0 else e.graph = 0)
    && (if e.op = 2 || e.op = 3 then e.tokaddr % 8 = 0 else e.tokaddr = 0 && e.tokval = 0)

/-- The address of a queue's next entry (R326). -/
def Queue.entryAddr (x : Queue) : Nat := x.qbase.toNat + 64 * (x.qhead.toNat % x.len)

/-- A queue's next entry read, while it runs and has one: an invalid one stops it with cause 1, a failed read with cause 2 (R326,
R328). -/
def State.queueEntry (s : State) (q : Nat) : State × Option QEntry :=
  let x := s.queue q
  if !x.on || x.qhead = x.qtail || x.fault.isSome then (s, none)
  else if !s.qctlOk x then (s.stopQueue q 3, none)
  else if (s.ctx x.ctx).phase ≠ .running then (s, none)
  else
    let r : State × Except RecStop Nat :=
      if x.qctl.getLsbD 12 then (s, .ok (ofBytes (s.readHost x.entryAddr 64))) else s.readRecord x.ctx x.entryAddr 64
    match r with
    | (s1, .error e) => (s1.queueStop q 2 e, none)
    | (s1, .ok y) => if qentryOk y then (s1, some (qentryOf y)) else (s1.stopQueue q 1, none)

/-- An entry other than SUBMIT consumed: STATUS 0, then QHEAD (R327, R328). -/
def State.queueDone (s : State) (q : Nat) : State :=
  let x := s.queue q
  (s.putStatus x.ctx (x.qctl.getLsbD 12) (x.entryAddr + 0x20) 0).consume q

/-- NOP (R328): consumed at once. -/
def execQueueNop (q : Nat) (s : State) : Out :=
  .next (match s.queueEntry q with
    | (s1, some e) => if e.op = 0 then s1.queueDone q else s
    | (s1, none) => s1)

/-- SUBMIT (R328): its graph goes to admission, which writes the status and consumes the entry. -/
def execQueueSubmit (q : Nat) (s : State) : Out :=
  .next (match s.queueEntry q with
    | (s1, none) => s1
    | (s1, some e) =>
      let x := s1.queue q
      if e.op ≠ 1 then s
      else if s1.adms.any (fun a => a.2.queue = some q && a.2.entry = x.qhead) then s
      else
        let id := s1.serial + 1
        let a : AdmReq :=
          { ctx := x.ctx, addr := e.graph, queue := some q, op := none, graph := none, since := 0, entry := x.qhead,
            host := x.qctl.getLsbD 12, status := x.entryAddr + 0x20, fault := none }
        { s1.setQueue q { x with stat := 1 } with serial := id, adms := nmapSet s1.adms id a })

/-- WAIT (R328): consumed once the token, read as an acquire at system scope, has reached the value. -/
def execQueueWait (q : Nat) (s : State) : Out :=
  .next (match s.queueEntry q with
    | (s1, none) => s1
    | (s1, some e) =>
      if e.op ≠ 2 then s
      else match s1.readRecord (s1.queue q).ctx e.tokaddr 8 with
        | (s2, .error r) => s2.queueStop q 5 r
        | (s2, .ok v) => if e.tokval ≤ v then s2.queueDone q else s2.setQueue q { s2.queue q with stat := 2 })

/-- SIGNAL (R328): once every graph admitted earlier from this queue has completed, the token is written as a release at system
scope. -/
def execQueueSignal (q : Nat) (s : State) : Out :=
  .next (match s.queueEntry q with
    | (s1, none) => s1
    | (s1, some e) =>
      if e.op ≠ 3 then s
      else if !(s1.queue q).graphs.isEmpty then s1.setQueue q { s1.queue q with stat := 1 }
      else if 0xFE * 2 ^ 48 ≤ e.tokaddr then s1.stopQueue q 5
      else match s1.writeToken (s1.queue q).ctx e.tokaddr e.tokval with
        | (s2, none) => s2.queueDone q
        | (s2, some r) => s2.queueStop q 5 r)

/-- A QTAIL write (R326): taken, then checked for overrun or a move backwards from the tail that stood there; a queue that has stopped keeps its cause (DEDUCED, log entry 87). -/
def execQueueDoorbell (q : Nat) (v : Word) (s : State) : Out :=
  let x := { s.queue q with qtail := v }
  let s1 := s.setQueue q x
  .next (if s.card.stage ≠ 5 then s
    else if x.stat = 3 then s1
    else if x.len < (v - x.qhead).toNat || (v - x.qhead).toNat < ((s.queue q).qtail - x.qhead).toNat then s1.stopQueue q 4
    else if x.on && !s.qctlOk x then s1.stopQueue q 3 else s1)

/-- The bits that QCTL keeps (R326, R434). -/
def qctlMask : Word := 0x801F1FFF#32

/-- A QCTL write that sets ENABLE (R326): from 0, QHEAD becomes QTAIL and the queue is idle, or stops with cause 3; while ENABLE is 1 the
write is dropped. A SUBMIT still in admission is no longer this queue's next entry. -/
def execQueueEnable (q : Nat) (v : Word) (s : State) : Out :=
  let x := s.queue q
  .next (if s.card.stage ≠ 5 || x.qctl.getLsbD 31 || !v.getLsbD 31 then s
    else
      let y := { x with qctl := v &&& qctlMask, qhead := x.qtail, stat := 0, cause := 0, fault := none, graphs := x.graphs }
      let s1 := { s with adms := s.adms.map (fun (e : Nat × AdmReq) =>
        if e.2.queue = some q then (e.1, { e.2 with entry := x.qtail - 1 }) else e) }
      let s2 := s1.setQueue q y
      if s2.qctlOk y then s2 else s2.stopQueue q 3)

/-- A QCTL write with ENABLE 0 (R326): ends consumption; of an enabled queue every other field stays. That QSTAT keeps what it read before is a DESIGN
CHOICE (log entry 49). -/
def execQueueDisable (q : Nat) (v : Word) (s : State) : Out :=
  let x := s.queue q
  .next (if s.card.stage ≠ 5 || v.getLsbD 31 then s
    else if x.qctl.getLsbD 31 then s.setQueue q { x with qctl := x.qctl &&& 0x7FFFFFFF#32, fault := none }
    else s.setQueue q { x with qctl := v &&& qctlMask })

/-- The reply to a fault on which a queue holds (R328, R400): with FAIL it stops, by the access that faulted. -/
def State.replyQueue (s : State) (fail : Bool) (q : Nat) : State :=
  let x := s.queue q
  match x.fault with
  | none => s
  | some _ =>
    let s1 := s.setQueue q { x with fault := none }
    if !fail then s1
    else s1.stopQueue q x.fcause

/-! ## Display -/

/-- A byte run read by the display engine for a context: none where it is poisoned, unmapped, or of a world the plane may not read
(R331, R392, R429). -/
def State.scanRead (s : State) (plane c a n : Nat) : State × Option (List Byte) :=
  let secure : Bool := s.worlds.blocks.contains (.plane plane)
  match s.translate c a .read with
  | (s1, .to true x) => (s1, some (s1.readHost x n))
  | (s1, .to false x) =>
    if !s1.reachable (x / 2 ^ 50) || s1.paKind x = .reserved || (s1.paSecure x && !secure) then (s1, none)
    else match s1.homePoison x n with
      | some cls => (s1.reportConsumed c cls (poisonVa a) 0 (s.cardNo * 2 ^ 8), none)
      | none => (s1, some (s1.readHome x n))
  | (s1, .poison cls) => (s1.reportConsumed c cls (poisonVa a) 0 (s.cardNo * 2 ^ 8), none)
  | (s1, _) => (s1, none)

/-- The raw pixels of one 8 × 8 tile of a shown resource, row by row; none for a pixel of a poisoned unit (R216, R219, R429, R448). -/
def State.scanTile (s : State) (plane c : Nat) (r : ResRec) (n : Nat) : State × List (Option Nat) :=
  let tb := pixelBytes r
  let split (bs : List Byte) : List (Option Nat) := (List.range 64).map (fun k => some (rawTexel bs tb k).toNat)
  let blank : List (Option Nat) := List.replicate 64 none
  if r.cdc then
    match s.scanRead plane c (r.mta + n) 1 with
    | (s1, none) => (s1, blank)
    | (s1, some mb) =>
      let m := (byteAt mb 0).toNat
      match s1.scanRead plane c (r.base + n * 64 * tb) (cdcBytes m) with
      | (s2, none) => (s2, blank)
      | (s2, some bs) => (s2, split (cdcDecode m bs r.clear.toNat))
  else
    (List.range (2 * tb)).foldl (fun (a : State × List (Option Nat)) u =>
      match a.1.scanRead plane c (r.base + n * 64 * tb + 32 * u) 32 with
      | (t, some bs) => (t, a.2 ++ (List.range (32 / tb)).map (fun k => some (rawTexel bs tb k).toNat))
      | (t, none) => (t, a.2 ++ List.replicate (32 / tb) none)) (s, [])

/-- The 8 × 8 tiles of a shown resource, each way (R198, R219). -/
def resTilesX (r : ResRec) : Nat := 8 * r.wt

/-- One scan of a resource: what the engine's reads leave in the state (R331). -/
def State.scan (s : State) (plane c : Nat) (r : ResRec) : State :=
  (List.range (64 * r.wt * r.ht)).foldl (fun (t : State) n => (t.scanTile plane c r n).1) s

/-- The resource record at a plane's PBASE (R447), read in the context that Config.planeContext gives it (log entry 50): none where it cannot
be read or is no persistent colour resource. -/
def State.baseResource (s : State) (n : Nat) (x : Plane) : State × Option (Nat × ResRec) :=
  let c := Config.planeContext n
  match s.scanRead n c x.pbase.toNat 64 with
  | (s1, some bs) =>
    let r := resOf (ofBytes bs)
    (s1, if resOk (ofBytes bs) && r.kind = 0 && !r.trans then some (c, r) else none)
  | (s1, none) => (s1, none)

/-- What a plane shows: the resource of the graph shown last, before any that of PBASE (R330, R447). -/
def Plane.shows (x : Plane) : Option (Nat × ResRec) := match x.shown with | some d => some d | none => x.first

/-- A plane set, and the resource that it shows read while it is enabled (R331). -/
def State.scanPlane (s : State) (n : Nat) (y : Plane) : State :=
  let s1 := { s with planes := nmapSet s.planes n y }
  match y.shows with
  | some (c, r) => if y.ctlNow.getLsbD 0 then s1.scan n c r else s1
  | none => s1

/-- A deadline of a plane (R330, R449): PCTL and PPOS take effect, the most recently completed graph is shown, or before any the resource of
PBASE, the count of deadlines goes up, and the resource is read. What the output's picture is, or that it is disabled, is free (log entry 50). -/
def execDisplayDeadline (n : Nat) (s : State) : Out :=
  let x := (nmapFind s.planes n).getD Plane.reset
  .next (if s.card.stage ≠ 5 || 16 ≤ n then s
    else
      let shown := match x.done.getLast? with | some d => some d | none => x.shown
      let on : Bool := x.pctl.getLsbD 0
      let (s1, first) := if on && shown.isNone then s.baseResource n x else (s, none)
      { s1 with free := s1.free + 1 }.scanPlane n
        { x with ctlNow := x.pctl, posNow := x.ppos, pvbl := if on then x.pvbl + 1 else x.pvbl, shown := shown, done := [], first := first,
                 mode := (Config.outputMode (x.pctl.extractLsb' 1 2).toNat s.free).filter (fun m => decide (m.1 ≤ 7680 ∧ m.2 ≤ 4320)) })

/-- The 10-bit code of a channel (R448). -/
def channelCode (ty v : Nat) : Nat :=
  if ty = 0 then (qRound ⟨(v : Int) * 1023, 255⟩).toNat
  else
    match (ffmt (if ty = 1 then .f16 else .f32)).decode v with
    | .nan _ => 0
    | .inf neg => if neg then 0 else 1023
    | .fin neg m e => (qRound (qMul (qMax (qInt 0) (qMin (qInt 1) (qFin neg m e))) (qInt 1023))).toNat

/-- The red, green and blue codes of a stored pixel (R448). -/
def pixelCodes (r : ResRec) (p : Nat) : Nat × Nat × Nat :=
  match r.ty with
  | 0 => (channelCode 0 (p % 256), channelCode 0 (p / 256 % 256), channelCode 0 (p / 65536 % 256))
  | 1 => (channelCode 1 (p % 65536), channelCode 1 (p / 65536 % 65536), channelCode 1 (p / 2 ^ 32 % 65536))
  | _ => let c := channelCode 2 (p % 2 ^ 32); (c, c, c)

/-- The codes that a plane gives an output position, none where it does not cover it; zero pixels where its output is disabled or the resource
does not fit the output's picture (R448, R449). -/
def State.planePixel (s : State) (n out x y : Nat) : Option (Nat × Nat × Nat) :=
  let p := (nmapFind s.planes n).getD Plane.reset
  let px := (p.posNow.extractLsb' 0 16).toNat
  let py := (p.posNow.extractLsb' 16 16).toNat
  if !p.ctlNow.getLsbD 0 || (p.ctlNow.extractLsb' 1 2).toNat ≠ out then none
  else match p.shows with
    | none => none
    | some (c, r) =>
      if x < px || y < py || px + 64 * r.wt ≤ x || py + 64 * r.ht ≤ y then none
      else if !(match p.mode with | some m => decide (px + 64 * r.wt ≤ m.1 ∧ py + 64 * r.ht ≤ m.2) | none => false) then some (0, 0, 0)
      else
        let ux := x - px
        let uy := y - py
        match ((s.scanTile n c r (uy / 8 * resTilesX r + ux / 8)).2[uy % 8 * 8 + ux % 8]?).getD none with
        | some v => some (pixelCodes r v)
        | none => some (0, 0, 0)

/-- The codes sent at an output position (R448): the enabled plane with the highest z, the higher number winning a tie, else black. -/
def State.outputPixel (s : State) (out x y : Nat) : Nat × Nat × Nat :=
  let zOf (n : Nat) : Nat := (((nmapFind s.planes n).getD Plane.reset).ctlNow.extractLsb' 4 4).toNat
  let best := (List.range 16).foldl (fun (b : Option (Nat × Nat × Nat × Nat)) n =>
    match s.planePixel n out x y, b with
    | some c, none => some (zOf n, c)
    | some c, some d => if d.1 ≤ zOf n then some (zOf n, c) else b
    | none, b => b) none
  match best with
  | some (_, c) => c
  | none => (0, 0, 0)

end Sys2Proof.Machine
end

