-- ==== Sys2Proof/Machine/Atlas.lean ====
section
/-! DEFINITION. Sheets, atlas and view records, projected errors, and the ray hierarchy as data (R178 to R187, R225, R226). -/

namespace Sys2Proof.Machine

/-! ## Sheets -/

/-- A sphere: centre and radius in raw units (R178). -/
structure Sphere where
  c : List Int
  r : Nat
  deriving DecidableEq, Repr

/-- A sheet's header (R179). -/
structure Sheet where
  own : Sphere
  par : Sphere
  errOwn : Nat
  errPar : Nat
  group : Nat
  level : Nat
  src : Nat
  gexp : Nat
  org : List Int
  ntri : Nat
  nrm : Bool
  nvtx : Nat
  uv : Bool
  rsv : Nat
  aofs : Nat
  deriving DecidableEq, Repr

/-- A sphere of a header, from its first bit on. -/
def sphereAt (x lo : Nat) : Sphere := { c := (List.range 3).map (fun k => signedAt x (lo + 32 * k) 32), r := bitsAt x (lo + 96) 32 }

/-- The fields of a sheet header (R179). -/
def sheetOf (x : Nat) : Sheet :=
  { own := sphereAt x 0, par := sphereAt x 128, errOwn := bitsAt x 256 32, errPar := bitsAt x 288 32, group := bitsAt x 320 24,
    level := bitsAt x 344 8, src := bitsAt x 352 24, gexp := bitsAt x 376 8,
    org := (List.range 3).map (fun k => signedAt x (384 + 32 * k) 32), ntri := bitsAt x 480 7, nrm := bitsAt x 487 1 = 1,
    nvtx := bitsAt x 488 7, uv := bitsAt x 495 1 = 1, rsv := bitsAt x 496 8, aofs := bitsAt x 504 8 }

/-- A sheet with no source group (R179). -/
def noSource : Nat := 0xFFFFFF

/-- The raw coordinates of a vertex from its six bytes (R180). -/
def vertexRaw (h : Sheet) (x : Nat) : List Int :=
  (List.range 3).map (fun k => intAt h.org k + (bitsAt x (16 * k) 16 : Nat) * 2 ^ h.gexp)

/-- A raw coordinate as .f32 (R196). -/
def rawF32 (c : Int) : Word := BitVec.ofNat 32 (qTo .f32 ⟨c, 65536⟩)

/-- The offset of the triangle stream, and its control bytes (R180). -/
def Sheet.stream (h : Sheet) : Nat := 64 + 16 * ((6 * (h.nvtx + 1) + 15) / 16)

def Sheet.ctlBytes (h : Sheet) : Nat := (2 * h.ntri + 7) / 8

/-- The code of triangle t + 1 (R180). -/
def triCode (ctl t : Nat) : Nat := bitsAt ctl (2 * t) 2

/-- The index bytes that triangles 0 to k take (R180). -/
def triUsed (ctl k : Nat) : Nat :=
  match k with
  | 0 => 3
  | t + 1 => triUsed ctl t + (if triCode ctl t = 0 then 3 else 1)

/-- The vertices of triangle k (R180). -/
def triVerts (ctl : Nat) (bs : List Byte) (k : Nat) : Nat × Nat × Nat :=
  let b (x : Nat) : Nat := (byteAt bs x).toNat
  match k with
  | 0 => (b 0, b 1, b 2)
  | t + 1 =>
    let (i0, i1, i2) := triVerts ctl bs t
    let x := triUsed ctl t
    match triCode ctl t with
    | 0 => (b x, b (x + 1), b (x + 2))
    | 1 => (i2, i1, b x)
    | 2 => (i0, i2, b x)
    | _ => (i1, i0, b x)

/-- The offsets of the attributes of a vertex: its normal, and its texture coordinates (R181). -/
def Sheet.normalAt (h : Sheet) (i : Nat) : Nat := 16 * h.aofs + 3 * i

def Sheet.uvAt (h : Sheet) (i : Nat) : Nat := 16 * h.aofs + 4 * ((3 * (h.nvtx + 1) * (if h.nrm then 1 else 0) + 3) / 4) + 4 * i

def qAbs (a : Q) : Q := ⟨a.num.natAbs, a.den⟩

/-- A normal decoded (R181). -/
def normalOf (x : Nat) : List Word :=
  let one := qInt 1
  let u : Q := ⟨2 * (bitsAt x 0 12 : Nat) - 4095, 4095⟩
  let v : Q := ⟨2 * (bitsAt x 12 12 : Nat) - 4095, 4095⟩
  let z := qSub (qSub one (qAbs u)) (qAbs v)
  let sgn (a b : Q) : Q := if b.num < 0 then qNeg a else a
  let (p, q) := if z.num < 0 then (sgn (qSub one (qAbs v)) u, sgn (qSub one (qAbs u)) v) else (u, v)
  [p, q, z].map (fun a => BitVec.ofNat 32 (qTo .f32 a))

/-! ## Atlas and view -/

/-- An atlas record (R183). -/
structure AtlasRec where
  reqslots : Nat
  ngroups : Nat
  nsheets : Nat
  reqring : Nat
  res : Nat
  data : Nat
  sheets : Nat
  deriving DecidableEq, Repr

def atlasOf (x : Nat) : AtlasRec :=
  { reqslots := bitsAt x 320 32, ngroups := bitsAt x 288 32, nsheets := bitsAt x 256 32, reqring := bitsAt x 192 64, res := bitsAt x 128 64,
    data := bitsAt x 64 64, sheets := bitsAt x 0 64 }

/-- An atlas record within R183. -/
def atlasOk (x : Nat) : Bool :=
  let a := atlasOf x
  bitsAt x 352 160 = 0 && (List.range 25).any (fun k => a.reqslots = 2 ^ k) && decide (1 ≤ a.ngroups ∧ a.ngroups ≤ 0xFFFFFF)
    && decide (1 ≤ a.nsheets ∧ a.nsheets ≤ 0xFFFFFF) && a.reqring % 64 = 0 && a.res % 8 = 0 && a.data % 64 = 0 && a.sheets % 4 = 0

/-- A view record (R185). -/
structure ViewRec where
  hcap : Nat
  hierbase : Nat
  cutlist : Nat
  cap : Nat
  hier : Bool
  req : Bool
  near : Nat
  tau : Nat
  kproj : Nat
  eye : List Int
  deriving DecidableEq, Repr

def viewOf (x : Nat) : ViewRec :=
  { hcap := bitsAt x 384 32, hierbase := bitsAt x 320 64, cutlist := bitsAt x 256 64, cap := bitsAt x 224 32, hier := bitsAt x 193 1 = 1,
    req := bitsAt x 192 1 = 1, near := bitsAt x 160 32, tau := bitsAt x 128 32, kproj := bitsAt x 96 32,
    eye := (List.range 3).map (fun k => signedAt x (32 * k) 32) }

/-- A view record within R185. -/
def viewOk (x : Nat) : Bool :=
  let v := viewOf x
  bitsAt x 416 96 = 0 && bitsAt x 194 30 = 0 && (v.hier || (v.hcap = 0 && v.hierbase = 0)) && v.hierbase % 64 = 0 && v.cutlist % 8 = 0
    && decide (v.cap ≤ 0xFFFFFF) && decide (1 ≤ v.near) && decide (v.tau ≤ 0xFFFFFFFE)

/-- A header that a job accepts (R191). -/
def sheetOk (a : AtlasRec) (h : Sheet) : Bool :=
  h.rsv = 0 && decide (h.gexp ≤ 16) && decide (h.group < a.ngroups) && (h.src = noSource || decide (h.src < a.ngroups))

/-- The projected error (R186). -/
def projErr (v : ViewRec) (p : Sphere) (e : Nat) : Nat :=
  let d2 := (List.range 3).foldl (fun (t : Nat) k => t + (intAt p.c k - intAt v.eye k).natAbs ^ 2) 0
  let s : Int := (isqrt d2 : Nat) - (p.r : Int)
  if e = 0 then 0
  else if e = 0xFFFFFFFF || s < v.near then 0xFFFFFFFF
  else min (e * v.kproj / s.toNat) 0xFFFFFFFF

/-- Whether a sheet is in the cut, and whether its source group is requested, from the residency of its group and its source (R187). -/
def cutTest (v : ViewRec) (h : Sheet) (resG resX : Bool) : Bool × Bool :=
  let po := projErr v h.own h.errOwn
  let pp := projErr v h.par h.errPar
  let cut : Bool := resG && (decide (po ≤ v.tau) || !resX) && decide (v.tau < pp)
  (cut, cut && !resX && decide (v.tau < po) && v.req)

/-! ## The ray hierarchy -/

/-- A triangle of a hierarchy: the raw coordinates of its vertices, and its key (R226). -/
structure HTri where
  v : List (List Int)
  key : Nat
  deriving DecidableEq, Repr

/-- A box: per-axis least and greatest raw coordinates. -/
abbrev HBox := List (Int × Int)

/-- The least box around points. -/
def boxOf (ps : List (List Int)) : HBox := (List.range 3).map (fun k => intSpan (ps.map (fun p => intAt p k)))

/-- The least box around boxes. -/
def boxJoin (bs : List HBox) : HBox :=
  boxOf (bs.flatMap (fun b => [b.map (·.1), b.map (·.2)]))

/-- A list cut in runs of eight. -/
def eights {α : Type} (fuel : Nat) (xs : List α) : List (List α) :=
  match fuel with
  | 0 => []
  | k + 1 => if xs.isEmpty then [] else xs.take 8 :: eights k (xs.drop 8)

/-- The boxes of each level above the triangles, the root's level first (R226). -/
def boxLevels (fuel : Nat) (bs : List HBox) : List (List HBox) :=
  match fuel with
  | 0 => [bs]
  | k + 1 => if bs.length ≤ 1 then [bs] else boxLevels k ((eights bs.length bs).map boxJoin) ++ [bs]

/-- The boxes of level 0 (R226). -/
def leafBoxes (ts : List HTri) : List HBox := (eights ts.length ts).map (fun g => boxJoin (g.map (fun t => boxOf t.v)))

/-- A child's box as bytes (R225). -/
def boxBytes (b : HBox) : List Byte := (b.map (fun p => bytesOf 4 (rawF32 p.1).toNat)).flatten ++ (b.map (fun p => bytesOf 4 (rawF32 p.2).toNat)).flatten

/-- A node from its children, each a box and a reference (R225). -/
def nodeBytes (cs : List (HBox × Nat)) : List Byte :=
  let pad := 8 - cs.length
  (cs.map (fun c => boxBytes c.1)).flatten ++ List.replicate (24 * pad) 0 ++ (cs.map (fun c => bytesOf 4 c.2)).flatten
    ++ List.replicate (4 * pad) 0xFF ++ List.replicate 32 0

/-- The nodes of a level whose children are the boxes below, with the references of those from a first one on. -/
def levelNodes (below : List HBox) (ref : Nat) : List Byte :=
  ((eights below.length (below.zipIdx.map (fun e => (e.1, ref + e.2)))).map nodeBytes).flatten

/-- The nodes of the levels below the root's, each child numbered after the levels above it. -/
def nodesFrom (levels : List (List HBox)) (base : Nat) (leaves : List HBox) : List Byte :=
  match levels with
  | [] => []
  | l :: t =>
    match t with
    | [] => levelNodes leaves (2 ^ 31)
    | m :: _ => levelNodes m (base + l.length) ++ nodesFrom t (base + l.length) leaves

/-- The ray hierarchy of triangles (R225, R226). -/
def hierarchyBytes (ts : List HTri) : List Byte :=
  let levels := if ts.isEmpty then [] else boxLevels ts.length (leafBoxes ts)
  let nn := (levels.map (·.length)).foldl (· + ·) 0
  bytesOf 4 nn ++ bytesOf 4 ts.length ++ bytesOf 8 (64 + 256 * nn) ++ List.replicate 48 0
    ++ nodesFrom levels 0 (ts.map (fun t => boxOf t.v))
    ++ (ts.map (fun t => (t.v.flatMap (fun p => p.flatMap (fun c => bytesOf 4 (rawF32 c).toNat))) ++ bytesOf 4 t.key ++ List.replicate 8 0)).flatten

end Sys2Proof.Machine
end

