-- ==== Sys2Proof/Machine/AtlasOps.lean ====
section
/-! DEFINITION. CUTSEL with its jobs, and SHDEC (R188 to R196). -/

namespace Sys2Proof.Machine

/-! ## Jobs -/

/-- A cut-selection job's accesses as those of an agent of its context, in the private space of the lane that issued it (R194, R335). -/
def State.cutEnv (s : State) (j : CutJob) : JEnv :=
  s.jobEnv { ctx := j.ctx, stack := j.stack, cid := j.cid, w := j.w, src := noRec j.lane, xform := false, sub := 0, out := [], err := 0,
             done := 0, red := none, scope := .system, started := true, fault := none, wg := 0, home := j.home, owns := [], order := j.order,
             redo := [], recs := none } false

/-- An unsigned number read by a job. -/
def JEnv.readN (v : JEnv) (a n : Nat) : JRes Nat :=
  match v.read .generic a n with
  | .ok bs => .ok (ofBytes bs)
  | .error e => .error e

/-- The runs of targets that a range of a context reaches, cut at its lines; what no translation reaches is left out (R193, R251). -/
def JEnv.runs (v : JEnv) (a n : Nat) : List (Nat × Nat) :=
  (cuts a n).filterMap (fun c => match v.target .generic c.1 c.2 with
    | .ok (some t) => some (t, c.2)
    | _ => none)

/-- The ranges that a job may write (R193). -/
def viewAreas (v : ViewRec) : List (Nat × Nat) := [(v.cutlist, 8 * v.cap)] ++ (if v.hier then [(v.hierbase, v.hcap)] else [])

def State.setCut (s : State) (id : Nat) (j : CutJob) : State := { s with cuts := nmapSet s.cuts id j }

/-- A cut job parked on a fault (R194, R399). -/
def State.parkCut (s : State) (id : Nat) (j : CutJob) (va kind level : Nat) (e : BitVec 64) : State :=
  (s.setCut id { j with fault := some (va, kind) }).addFault j.ctx .cut va kind level e (s.whereOf j.w)

/-- A job whose records are read takes the lines of its outputs that are translated now (R193). -/
def State.takeCut (s : State) (j : CutJob) : CutJob :=
  match j.words with
  | none => j
  | some (a, b) =>
    { j with owns := if viewOk b && atlasOk a then (viewAreas (viewOf b)).flatMap (fun r => (s.cutEnv j).runs r.1 r.2) else [] }

/-- A job whose two records are read takes the lines of its outputs (R193). -/
def State.startCut (s : State) (id : Nat) : State :=
  match nmapFind s.cuts id with
  | none => s
  | some j =>
    let v := s.cutEnv j
    match v.readN j.atlas 64, v.readN j.view 64 with
    | .ok a, .ok b =>
      s.setCut id (s.takeCut { j with words := some (a, b), fault := none })
    | .error (.park va kind level e), _ => s.parkCut id j va kind level e
    | .ok _, .error (.park va kind level e) => s.parkCut id j va kind level e
    | _, _ => s

/-- The engine and cut-selection jobs take the lines of their outputs that are translated by now: what was mapped or mapped anew since they
looked last is theirs too (R193, R249). -/
def State.retake (s : State) : State :=
  { s.retakeJobs with cuts := s.cuts.map (fun (e : Nat × CutJob) => (e.1, s.takeCut e.2)) }

/-- The residency bit of a group (R183). -/
def JEnv.resident (v : JEnv) (a : AtlasRec) (g : Nat) : JRes Bool :=
  match v.readN (a.res + g / 8) 1 with
  | .ok x => .ok (x / 2 ^ (g % 8) % 2 = 1)
  | .error e => .error e

/-- Why a job's evaluation stops: an access, or an invalid header (R191). -/
inductive CutStop where
  | acc (e : JStop)
  | sheet (k : Nat)
  deriving DecidableEq, Repr

def liftJ {α : Type} (r : JRes α) : Except CutStop α := match r with | .ok x => .ok x | .error e => .error (.acc e)

/-- One sheet of a range: its word W, its header, and the tests of R187. DESIGN CHOICE (log entry 76): a sum of R183 that passes 2^64 is not
wrapped, so that the address is in no space and the access ends with ERR 5. -/
def JEnv.sheet (v : JEnv) (a : AtlasRec) (w : ViewRec) (k : Nat) : Except CutStop (Nat × Sheet × Bool × Bool) := do
  let x ← liftJ (v.readN (a.sheets + 4 * k) 4)
  let h := sheetOf (← liftJ (v.readN (a.data + 64 * x) 64))
  if !sheetOk a h then .error (.sheet k)
  else
    let g ← liftJ (v.resident a h.group)
    let r ← if h.src = noSource then .ok true else liftJ (v.resident a h.src)
    let t := cutTest w h g r
    .ok (x, h, t.1, t.2)

/-- A sheet in the cut: its id, its word, its header. -/
structure CutSheet where
  id : Nat
  w : Nat
  h : Sheet
  deriving DecidableEq, Repr

/-- The cut of a range in ascending ids, and the groups requested, ascending and once each (R187, R190). DESIGN CHOICE (log entry 77): where
one sheet's header is invalid and another sheet's access fails, the job reports the one it meets first in ascending sheet id. -/
def JEnv.cut (v : JEnv) (a : AtlasRec) (w : ViewRec) (lo n : Nat) : Except CutStop (List CutSheet × List Nat) :=
  (List.range n).foldlM (fun (acc : List CutSheet × List Nat) k =>
    match v.sheet a w (lo + k) with
    | .error e => .error e
    | .ok (x, h, c, q) =>
      .ok (if c then acc.1 ++ [⟨lo + k, x, h⟩] else acc.1, if q then insertNat h.src acc.2 else acc.2)) ([], [])

/-- The triangles of a sheet in the cut (R180, R226). -/
def JEnv.sheetTris (v : JEnv) (a : AtlasRec) (c : CutSheet) : JRes (List HTri) := do
  let base := a.data + 64 * c.w
  let h := c.h
  let ctl ← v.readN (base + h.stream) h.ctlBytes
  let ix ← v.read .generic (base + h.stream + h.ctlBytes) (triUsed ctl h.ntri)
  (List.range (h.ntri + 1)).foldlM (fun (acc : List HTri) t => do
    let (i0, i1, i2) := triVerts ctl ix t
    let ps ← [i0, i1, i2].foldlM (fun (ps : List (List Int)) i => do
      let x ← v.readN (base + 64 + 6 * i) 6
      .ok (ps ++ [vertexRaw h x])) []
    .ok (acc ++ [⟨ps, c.id * 128 + t⟩])) []

/-- The ray hierarchy over the list (R190, R226). -/
def JEnv.hierarchy (v : JEnv) (a : AtlasRec) (cs : List CutSheet) : JRes (List Byte) := do
  let ts ← cs.foldlM (fun (acc : List HTri) c => do
    let xs ← v.sheetTris a c
    .ok (acc ++ xs)) []
  .ok (hierarchyBytes ts)

/-- Bytes written for a job from an address on, line by line. -/
def State.cutWrite (s : State) (j : CutJob) (a : Nat) (bs : List Byte) : JRes State :=
  (Sys2Proof.Machine.cuts a bs.length).foldlM (fun (t : State) c =>
    match (t.cutEnv j).target .generic c.1 c.2 with
    | .ok (some g) => .ok (t.writeUpdate j.ctx (0, [(g, (bs.drop (c.1 - a)).take c.2)]) [])
    | .ok none => .ok t
    | .error e => .error e) s

/-- Whether a job accepted earlier still has to write a line that this one writes (R251). -/
def State.cutBlocked (s : State) (j : CutJob) : Bool := j.owns.any (fun o => s.ownedBefore j.order o.1 o.2)

/-- An area that the spec leaves with earlier bytes or bytes that the job wrote (R190, R191): each byte is left, or takes `new` of its index
where there is one, otherwise a free value (log entry 4). DESIGN CHOICE (log entry 78): with HOVF a line of the area that no access reaches is left
as it is, and causes neither an error nor a fault. -/
def State.openArea (s : State) (j : CutJob) (a n : Nat) (new : List Byte) : State :=
  let s1 := (Sys2Proof.Machine.cuts a n).foldl (fun (t : State) c =>
    match (t.cutEnv j).target .generic c.1 c.2, (t.cutEnv j).read .generic c.1 c.2 with
    | .ok (some g), .ok old =>
      t.writeUpdate j.ctx (0, [(g, (List.range c.2).map (fun k =>
        let i := c.1 - a + k
        if Config.freeBit (s.free + i) then byteAt old k else (new[i]?).getD ((Config.freeWord (s.free + i)).truncate 8)))]) []
    | _, _ => t) s
  { s1 with free := s1.free + n }

/-- One request (R192); whether it was dropped. -/
def State.request (s : State) (j : CutJob) (a : AtlasRec) (x : Nat) : JRes (State × Bool) := do
  let h ← (s.cutEnv j).readN a.reqring 4
  let s1 ← s.cutWrite j a.reqring (bytesOf 4 (h + 1))
  let at4 := a.reqring + 64 + 4 * (h % a.reqslots)
  let e ← (s1.cutEnv j).readN at4 4
  if e / 2 ^ 31 % 2 = 1 then
    let d ← (s1.cutEnv j).readN (a.reqring + 4) 4
    let s2 ← s1.cutWrite j (a.reqring + 4) (bytesOf 4 (d + 1))
    .ok (s2, true)
  else
    let s2 ← s1.cutWrite j at4 (bytesOf 4 (x + 2 ^ 31))
    .ok (s2, false)

/-- The requests in order; whether any was dropped. -/
def State.requests (s : State) (j : CutJob) (a : AtlasRec) (xs : List Nat) : JRes (State × Bool) :=
  xs.foldlM (fun (r : State × Bool) x => do
    let (t, d) ← r.1.request j a x
    .ok (t, r.2 || d)) (s, false)

/-- The status word (R191). -/
def cutStatus (count err : Nat) (drop hovf trunc : Bool) : Word :=
  BitVec.ofNat 32 (count * 2 ^ 8 + err * 2 ^ 4 + (if drop then 4 else 0) + (if hovf then 2 else 0) + (if trunc then 1 else 0))

/-- What a job writes before its status (R190, R192), and its status. -/
def State.cutOutputs (s : State) (j : CutJob) (a : AtlasRec) (w : ViewRec) (lo n : Nat) : Except CutStop (State × Word) := do
  let v := s.cutEnv j
  let (cut, reqs) ← v.cut a w lo n
  let list := cut.take w.cap
  let hier ← if w.hier then liftJ (v.hierarchy a list) else .ok []
  let hovf : Bool := w.hier && decide (w.hcap < hier.length)
  let s1 ← liftJ (s.cutWrite j w.cutlist (list.flatMap (fun c => bytesOf 4 c.id ++ bytesOf 4 c.w)))
  let s2 ← if hovf then .ok (s1.openArea j w.hierbase w.hcap hier) else liftJ (s1.cutWrite j w.hierbase hier)
  let (s3, drop) ← liftJ (s2.requests j a reqs)
  .ok (s3, cutStatus cut.length 0 drop hovf (decide (w.cap < cut.length)))

/-- A job ends with a status (R190, R193): the lines are given back, and the status is written last. -/
def State.endCut (s : State) (id : Nat) (j : CutJob) (x : Word) : State :=
  let s1 := { s with cuts := nmapErase s.cuts id }
  (s1.endAccepted id (fun o => statusWrites o x)).acquireAt j.cid .system

/-- A job stopped by an access (R191, R194): parked, ended with ERR 5 or 6, or a breach of the worlds. -/
def State.stopCut (s : State) (id : Nat) (j : CutJob) (e : JStop) (areas : List (Nat × Nat)) : State :=
  let spoil (t : State) : State := areas.foldl (fun (t : State) r => t.openArea j r.1 r.2 []) t
  match e with
  | .park va kind level en => s.parkCut id j va kind level en
  | .secv => s.secvEnd j.ctx j.w
  | .err 3 cls a => ((spoil s).reportConsumed j.ctx cls a (s.submitOf j.home) (s.whereOf j.w)).endCut id j (cutStatus 0 6 false false false)
  | .err _ _ _ | .spad _ => (spoil s).endCut id j (cutStatus 0 5 false false false)

/-- A cut-selection job is carried out and ends (R190 to R194), once the jobs accepted before it have written the lines they share (R251). DESIGN
CHOICE (log entry 95): both records are read before either is judged. -/
def State.runCut (s : State) (id : Nat) : State :=
  match nmapFind s.cuts id with
  | none => s
  | some j =>
      if j.fault.isSome || s.cutBlocked j || !s.blockServes (.cutEngine j.stack) j.ctx || (s.ctx j.ctx).phase ≠ .running then s
      else
        let v := s.cutEnv j
        let recs : JRes (Nat × Nat) := match j.words with
          | some p => .ok p
          | none => do
            let a ← v.readN j.atlas 64
            let b ← v.readN j.view 64
            .ok (a, b)
        match recs with
        | .error e => s.stopCut id j e []
        | .ok (ax, bx) =>
          let a := atlasOf ax
          let w := viewOf bx
          let (lo, hi) := j.range.getD (0, a.nsheets)
          if !atlasOk ax then s.endCut id j (cutStatus 0 1 false false false)
          else if !viewOk bx then s.endCut id j (cutStatus 0 2 false false false)
          else if hi < lo || a.nsheets < hi then s.endCut id j (cutStatus 0 4 false false false)
          else match s.cutOutputs j a w lo (hi - lo) with
            | .ok (s1, x) => s1.endCut id j x
            | .error (.sheet k) =>
              ((viewAreas w).foldl (fun (t : State) r => t.openArea j r.1 r.2 []) s).endCut id j (cutStatus k 3 false false false)
            | .error (.acc e) => s.stopCut id j e (viewAreas w)

/-- The reply to a fault that a job is parked on (R194, R400): walked again, with the lines that are translated by now (R193). -/
def State.replyCut (s : State) (fail : Bool) (id : Nat) : State :=
  match nmapFind s.cuts id with
  | none => s
  | some j =>
    if j.fault.isNone then s
    else
      let j1 := { j with fault := none }
      if !fail then (if j.words.isNone then (s.setCut id j1).startCut id else s.setCut id (s.takeCut j1))
      else s.stopCut id j1 (.err 2 0 0) (match j.words with
        | some (a, b) => if atlasOk a && viewOk b then viewAreas (viewOf b) else []
        | none => [])

/-- A job abandoned at a pre-emption, to be run again in full (R194). -/
def State.abandonCut (s : State) (id : Nat) : State :=
  match nmapFind s.cuts id with
  | none => s
  | some j => s.setCut id { j with words := none, owns := [], fault := none }

/-! ## CUTSEL -/

/-- CUTSEL for its warp (R189, R193). -/
def perfCutsel (f : RForm) (s : State) (o : Op) (l : Nat) : State × Perf :=
  let r := opRec o l
  let cid := warpCid o.w
  let x := s.warp o.w
  if r.a.toNat % 64 ≠ 0 then (s, .trap .align 0 r.a)
  else if r.b.toNat % 64 ≠ 0 then (s, .trap .align 0 r.b)
  else if 8 ≤ (s.cuts.filter (fun e => e.2.stack = cidStack cid)).length then (s, .wait .cutQueue 0)
  else
    let range : Option (Nat × Nat) := match f.sc with
      | .zr => none
      | _ => some (r.c.toNat % 2 ^ 32, r.c.toNat / 2 ^ 32 % 2 ^ 32)
    let j : CutJob :=
      { ctx := x.ctx, stack := cidStack cid, cid := cid, w := o.w, atlas := r.a.toNat, view := r.b.toNat, range := range, words := none, owns := [],
        fault := none, home := s.wgOf o.w, lane := if r.hm then 0 else l, order := s.serial + 1 }
    if s.releaseHeld cid .system then (s, .wait .release 0)
    else ({ (s.releaseAt cid .system).setCut o.seq j with serial := s.serial + 1 }.startCut o.seq, .accept)

def opCutsel (f : RForm) : LongOp :=
  { slots := slotsR f .n64 .n64 .n64, pend := fun s c => pendOf (s.inHandler c.w c.l) f.dst c.l 1, once := true
    ord := { mem := true, rel := true }, late := true, perf := perfCutsel f }

/-- CUTSEL (R189). -/
def execCutsel (h : Hdr) (f : RForm) (s : State) : Out := .next (issueLong (.cutsel h f) h (opCutsel f) s)

/-- A waiting CUTSEL looks at the engine's queue again (R189). -/
def execCutselJobAccept (id : Nat) (s : State) : Out :=
  .next (match nmapFind s.ops id with
    | none => s
    | some o => match o.instr with
      | .cutsel _ f => retryLanes (opCutsel f) id (lanesOf o.todo) s
      | _ => s)

/-! ## SHDEC -/

/-- Bytes read by a lane at generic addresses, unit by unit, as LD would (R195). -/
def State.laneRead (s : State) (o : Op) (r : LaneRec) (a unit n : Nat) : State × Except Acc (List Byte) :=
  match s.tryParts (s.whoOf o) o.w r .generic ((List.range n).map (fun k => ⟨a + unit * k, unit, none⟩)) with
  | (s1, .ok bs) => (s1, .ok bs.flatten)
  | (s1, .error e) => (s1, .error e)

/-- The registers that SHDEC writes for item k of a sheet (R196). -/
def State.shdecWords (s : State) (o : Op) (r : LaneRec) (mode base k x : Nat) : State × Except Acc (List Word) :=
  let h := sheetOf x
  let zero : List Word := List.replicate 4 0
  match mode with
  | 0 =>
    if h.nvtx < k then (s, .ok zero)
    else match s.laneRead o r (base + 64 + 6 * k) 2 3 with
      | (s1, .ok bs) => (s1, .ok ((vertexRaw h (ofBytes bs)).map rawF32 ++ [0x3F800000#32]))
      | (s1, .error e) => (s1, .error e)
  | 1 =>
    if h.nvtx < k then (s, .ok zero)
    else
      let n1 : State × Except Acc (List Word) :=
        if h.nrm then
          match s.laneRead o r (base + h.normalAt k) 1 3 with
          | (s1, .ok bs) => (s1, .ok (normalOf (ofBytes bs)))
          | (s1, .error e) => (s1, .error e)
        else (s, .ok (List.replicate 3 0))
      match n1 with
      | (s1, .error e) => (s1, .error e)
      | (s1, .ok ws) =>
        if h.uv then
          match s1.laneRead o r (base + h.uvAt k) 4 1 with
          | (s2, .ok bs) => (s2, .ok (ws ++ [BitVec.ofNat 32 (ofBytes bs)]))
          | (s2, .error e) => (s2, .error e)
        else (s1, .ok (ws ++ [0]))
  | 2 =>
    if h.ntri < k then (s, .ok [0])
    else match s.laneRead o r (base + h.stream) 1 ((2 * k + 7) / 8) with
      | (s1, .error e) => (s1, .error e)
      | (s1, .ok cs) =>
        let ctl := ofBytes cs
        match s1.laneRead o r (base + h.stream + h.ctlBytes) 1 (triUsed ctl k) with
        | (s2, .error e) => (s2, .error e)
        | (s2, .ok ix) =>
          let (i0, i1, i2) := triVerts ctl ix k
          (s2, .ok [BitVec.ofNat 32 (i0 + i1 * 2 ^ 8 + i2 * 2 ^ 16 + 2 ^ 24)])
  | _ => (s, .ok [BitVec.ofNat 32 (bitsAt x 320 32), BitVec.ofNat 32 (bitsAt x 352 32), BitVec.ofNat 32 (bitsAt x 480 32), BitVec.ofNat 32 h.errOwn])

/-- One lane's part of SHDEC (R195, R196). -/
def perfShdec (f : RForm) (s : State) (o : Op) (l : Nat) : State × Perf :=
  let r := opRec o l
  match s.laneRead o r r.a.toNat 64 1 with
  | (s1, .error e) => (s1, e.perf)
  | (s1, .ok hs) =>
    match s1.shdecWords o r (subBits f 2 0) r.a.toNat (r.b.toNat % 2 ^ 32) (ofBytes hs) with
    | (s2, .ok ws) => (s2, .done (dstWords r.hm f.dst l ws))
    | (s2, .error e) => (s2, e.perf)

/-- The causes of SHDEC's header access that are judged at issue, in the order of LD (R195, R264): PROT, then ALIGN, then SPAD. -/
def shdecCause (f : RForm) (s : State) (c : Rd) : Option (Cause × Nat × BitVec 64) :=
  let a := srcN s c .n64 f.sa
  placeCause (s.genericAddr c.w c.l (s.inHandler c.w c.l) a) a 64 false

def opShdec (f : RForm) : LongOp :=
  { cause := shdecCause f, slots := fun s c => { slotsR f .n64 .n32 .b32 s c with addr := s.src c .n64 f.sa }
    ord := { mem := true }
    pend := fun s c => pendOf (s.inHandler c.w c.l) f.dst c.l (if f.sub = 2 then 1 else 4), perf := perfShdec f }

/-- SHDEC (R195). -/
def execShdec (h : Hdr) (f : RForm) (s : State) : Out := .next (issueLong (.shdec h f) h (opShdec f) s)

end Sys2Proof.Machine
end

