-- ==== Sys2Proof/Machine/RasterOps.lean ====
section
/-! DEFINITION. PRIMEMIT, the set-up and the rasterisers, IATTR and FOUT (R197 to R212, R450). -/

namespace Sys2Proof.Machine

/-! ## PRIMEMIT -/

/-- A stack's triangles that wait for the set-up. -/
def State.setupAt (s : State) (stack : Nat) : List Tri := dmapGet [] s.setup stack

def State.setSetup (s : State) (stack : Nat) (ts : List Tri) : State := { s with setup := dmapSet [] s.setup stack ts }

/-- One lane's triangle handed to the set-up of its core's stack (R197, R200). -/
def perfPrimemit (f : RForm) (s : State) (o : Op) (l : Nat) : State × Perf :=
  let r := opRec o l
  let g := s.wgOf o.w
  let stack := cidStack (warpCid o.w)
  let ts := s.setupAt stack
  let na := primNa f
  if !ts.isEmpty && decide (Config.setupQueueLen ≤ ts.length) then (s, .wait .setupQueue 0)
  else
    let t : Tri :=
      { ctx := (s.warp o.w).ctx, graph := g.graph, pass := g.pass, stack := stack, key := r.b.truncate 32, na := na,
        pos := wordsOf 12 r.data, attr := wordsOf (12 * na) (r.data / 2 ^ 384) }
    (s.setSetup stack (ts ++ [t]), .done [])

def opPrimemit (f : RForm) : LongOp :=
  { slots := fun s c => { slotsR f .n64 .n32 .n64 s c with data := s.vRun c f.sa 12 + 2 ^ 384 * s.vRun c f.sc (12 * primNa f) }
    perf := perfPrimemit f }

/-- PRIMEMIT (R197). -/
def execPrimemit (h : Hdr) (f : RForm) (s : State) : Out := .next (issueLong (.primemit h f) h (opPrimemit f) s)

/-! ## Set-up -/

/-- Tile numbers of a span of snapped coordinates, clipped to so many tiles (R203). -/
def tileSpan (xs : List Int) (n : Nat) : List Nat :=
  let (lo, hi) := intSpan xs
  (List.range n).filter (fun t => decide (lo ≤ 16384 * ((t : Int) + 1)) && decide (16384 * (t : Int) ≤ hi))

/-- The raster tiles that a triangle is entered for: none when its box covers no pixel centre of the target (R200, R203). -/
def triTiles (g : TriGeo) (wt ht : Nat) : List Nat :=
  let (x0, x1) := centreSpan g.xs (64 * wt)
  let (y0, y1) := centreSpan g.ys (64 * ht)
  if x1 < x0 || y1 < y0 then []
  else (tileSpan g.ys ht).flatMap (fun ty => (tileSpan g.xs wt).map (fun tx => ty * wt + tx))

/-- A tile-list entry sent to its rasteriser (R199, R203). -/
def State.sendEntry (s : State) (q : Nat) (e : TileEntry) : State := { s with entries := dmapSet [] s.entries q (dmapGet [] s.entries q ++ [e]) }

/-- The target size of the pass that emitted a triangle. -/
def State.triTarget (s : State) (t : Tri) : Option (Nat × Nat × Nat) := do
  let gid ← t.graph
  let g ← nmapFind s.graphs gid
  let p ← g.passAt t.pass
  let (wt, ht) ← if g.isRaster p then g.targetSize p else none
  some (gid, wt, ht)

/-- The first of some work whose context runs, and the rest in order. -/
def firstRunning {α : Type} (s : State) (ctx : α → Nat) (xs : List α) : Option (α × List α) :=
  match xs with
  | [] => none
  | x :: t => if (s.ctx (ctx x)).phase = .running then some (x, t) else (firstRunning s ctx t).map (fun r => (r.1, x :: r.2))

/-- The set-up takes its next triangle, discards it or enters it (R200, R203). -/
def execTriangleSetup (stack : Nat) (s : State) : Out :=
  .next (match firstRunning s (fun (t : Tri) => t.ctx) (s.setupAt stack) with
    | none => s
    | some (t, rest) =>
      let s1 := s.setSetup stack rest
      match s.triTarget t, s.geoOf t with
      | some (gid, wt, ht), some g =>
        (triTiles g wt ht).foldl (fun (u : State) k => u.sendEntry (tileOwner wt k) { graph := gid, pass := t.pass, tile := k, tri := t }) s1
      | _, _ => s1)

/-! ## Rasterisers -/

/-- A raster tile's state. -/
def Graph.rasterTile (g : Graph) (p t : Nat) : RasterTile :=
  (nmapFind g.raster (tileKey p t)).getD { pixels := [], pend := [], processed := false, written := false }

def Graph.setRasterTile (g : Graph) (p t : Nat) (x : RasterTile) : Graph := { g with raster := nmapSet g.raster (tileKey p t) x }

/-- R206 applied by the rasteriser to one fragment (R207). -/
def plainFragment (d : Option ResRec) (geo : TriGeo) (key : Word) (px : NMap Pixel) (x y : Nat) : NMap Pixel :=
  let k := y % 64 * 64 + x % 64
  let z := depthBits d (triDepth geo x y)
  nmapModify px k (fun p => if fragWins d z key p then { p with z := z, key := key } else p)

/-- The covered fragments of a triangle applied to a tile (R207). -/
def plainFragments (d : Option ResRec) (geo : TriGeo) (px : NMap Pixel) (fs : List Frag) : NMap Pixel :=
  fs.foldl (fun (px : NMap Pixel) f =>
    (lanesOf f.covered).foldl (fun (px : NMap Pixel) l => let q := lanePixel f.x0 f.y0 l; plainFragment d geo f.tri.key px q.1 q.2) px) px

/-- What a rasteriser met at an access for a raster tile: a fault on which the tile is parked (R399), or an end of the context, by a breach
of the worlds (R392) or by PROT, which no lane can take to a handler (R24, R413; DEDUCED, log entry 89). -/
def State.unitStop (s : State) (gid key : Nat) (g : Graph) (e : UnitAcc) : State :=
  match e with
  | .park va kind level en =>
    { s with graphs := nmapModify s.graphs gid (fun (h : Graph) => { h with stall := nmapSet h.stall key (va, kind) }) }.addFault g.ctx .job
      va kind level en (s.cardNo * 2 ^ 8)
  | .secv => s.fatalEnd g.ctx (agentFatal Cause.secv.code 0 0 g.submit)
  | .prot a => s.fatalEnd g.ctx (agentFatal Cause.prot.code 0 8 g.submit (BitVec.ofNat 64 a))
  | .ok _ | .wait => s

/-- A raster tile's memory loaded if it is not there yet (R206, R450). -/
def State.ensureTile (s : State) (gid pi t : Nat) : State × Option (Graph × PassRec × RasterTile) :=
  match nmapFind s.graphs gid with
  | none => (s, none)
  | some g => match g.passAt pi with
    | none => (s, none)
    | some p =>
      let x := g.rasterTile pi t
      if !x.pixels.isEmpty then (s, some (g, p, x))
      else if (nmapFind g.stall (tileKey pi t)).isSome then (s, none)
      else match s.loadTile g p t with
        | (s1, .ok px) => (s1, some (g, p, { x with pixels := px }))
        | (s1, .error e) => (s1.unitStop gid (tileKey pi t) g e, none)

/-- A rasteriser's bins. -/
def State.binsAt (s : State) (q : Nat) : List TileEntry := dmapGet [] s.lists q

/-- Whether an entry belongs to a raster tile of a pass. -/
def entryIn (gid pi t : Nat) (e : TileEntry) : Bool := e.graph = gid && e.pass = pi && e.tile = t

/-- The bin of a raster tile processed (R204, R207, R208): fragments go to fragment warps that wait for room, or are tested at once. The
flag says that the tile was there. -/
def State.processBin (s : State) (gid pi t : Nat) : State × Bool :=
  match s.ensureTile gid pi t with
  | (s1, none) => (s1, false)
  | (s1, some (g, p, x)) =>
    match g.targetSize p with
    | none => (s1, false)
    | some (wt, _) =>
      let q := tileOwner wt t
      let es := (s1.binsAt q).filter (entryIn gid pi t)
      let d := g.depthRes p
      let x1 := es.foldl (fun (x : RasterTile) e =>
        match s1.geoOf e.tri with
        | none => x
        | some geo =>
          let fs := tileFrags geo e.tri wt t
          if p.frag = 0xFFFFFFFF#32 then { x with pixels := plainFragments d geo x.pixels fs } else { x with pend := x.pend ++ fs }) x
      let s2 := { s1 with lists := dmapSet [] s1.lists q ((s1.binsAt q).filter (fun e => !entryIn gid pi t e)) }
      (s2.setGraph gid (g.setRasterTile pi t x1), true)

/-- The bytes of an entry in a tile-list ring (R203), and of the ring of one rasteriser (R307). -/
def entryBytes (t : Tri) : Nat := 64 + 48 * t.na

def Graph.ringBytes (g : Graph) (p : PassRec) : Nat := match g.res p.tlist with | some r => r.slots * r.tbytes | none => 0

/-- Whether fragment warps of a rasteriser's tiles of a pass run or wait for room. -/
def State.fragBusy (s : State) (gid pi q : Nat) : Bool :=
  match nmapFind s.graphs gid with
  | none => false
  | some g => match g.passAt pi with
    | none => false
    | some p => match g.targetSize p with
      | none => false
      | some (wt, _) =>
        g.raster.any (fun r => r.1 / 2 ^ 24 = pi && tileOwner wt (r.1 % 2 ^ 24) = q && !r.2.pend.isEmpty)
          || s.warps.any (fun w => match w.2.frag with
              | some f => f.tri.graph = some gid && f.tri.pass = pi && tileOwner wt f.tile = q
              | none => false)

/-- Space used in a rasteriser's ring for a pass. -/
def listKey (pi q : Nat) : Nat := pi * 8 + q

/-- A partial flush (R204): every bin of the pass that the rasteriser holds is processed; once the fragment warps have exited, the ring is
empty. -/
def State.partialFlush (s : State) (gid pi q : Nat) : State :=
  match (s.binsAt q).filter (fun e => e.graph = gid && e.pass = pi) with
  | [] =>
    if s.fragBusy gid pi q then s
    else { s with graphs := nmapModify s.graphs gid (fun (g : Graph) => { g with listBytes := nmapErase g.listBytes (listKey pi q) }) }
  | es => ((dedupNat (es.map (·.tile))).foldl (fun (t : State) k => (t.processBin gid pi k).1) s).yardmaster

/-- The next entry reaches its rasteriser's tile-list ring, or starts a partial flush (R203, R204). -/
def execTileListEntry (q : Nat) (s : State) : Out :=
  .next (match firstRunning s (fun (e : TileEntry) => e.tri.ctx) (dmapGet [] s.entries q) with
    | none => s
    | some (e, rest) =>
      if !s.blockServes (.rasteriser q) e.tri.ctx then s
      else
        let s1 := { s with entries := dmapSet [] s.entries q rest }
        match nmapFind s.graphs e.graph with
        | none => s1
        | some g => match g.passAt e.pass with
          | none => s1
          | some p =>
            let used := dmapGet 0 g.listBytes (listKey e.pass q)
            if (g.rasterTile e.pass e.tile).written then s1
            else if used + entryBytes e.tri ≤ g.ringBytes p then
              { s1.setGraph e.graph { g with listBytes := dmapSet 0 g.listBytes (listKey e.pass q) (used + entryBytes e.tri) } with
                lists := dmapSet [] s1.lists q (s1.binsAt q ++ [e]) }
            else s.partialFlush e.graph e.pass q)

/-- Whether the geometry of a pass is complete (R204): every pass tile has retired, no other workgroup of the pass is left, and every
triangle has reached its bin. -/
def State.geometryDone (s : State) (gid pi : Nat) : Bool :=
  match nmapFind s.graphs gid with
  | none => false
  | some g => match g.passAt pi with
    | none => false
    | some p =>
      (List.range (p.gw * p.gh)).all (fun t => (nmapFind g.retired (tileKey pi t)).isSome)
        && !s.wgs.any (fun w => w.2.graph = some gid && w.2.pass = pi && w.2.kind ≠ .fragment)
        && !s.setup.any (fun e => e.2.any (fun t => t.graph = some gid && t.pass = pi))
        && !s.entries.any (fun e => e.2.any (fun t => t.graph = gid && t.pass = pi))

/-- Whether the rasteriser of a tile is of the graph's world (R392). -/
def State.tileServed (s : State) (g : Graph) (p : PassRec) (t : Nat) : Bool :=
  match g.targetSize p with
  | some (wt, _) => s.blockServes (.rasteriser (tileOwner wt t)) g.ctx
  | none => true

/-- A raster tile processed once the geometry of its pass is complete (R204, R208, R450). -/
def execRasterTileProcess (gid pi t : Nat) (s : State) : Out :=
  .next (match nmapFind s.graphs gid with
    | none => s
    | some g => match g.passAt pi with
      | none => s
      | some p =>
        let x := g.rasterTile pi t
        let more : Bool := s.lists.any (fun e => e.2.any (entryIn gid pi t))
        if (s.ctx g.ctx).phase ≠ .running || !s.tileServed g p t || x.written || (x.processed && !more) || !(g.rasterTiles p).contains t || !s.geometryDone gid pi then s
        else match s.processBin gid pi t with
          | (s1, false) => s1
          | (s1, true) =>
            ({ s1 with graphs := nmapModify s1.graphs gid (fun (h : Graph) => h.setRasterTile pi t { h.rasterTile pi t with processed := true }) }).yardmaster)

/-- A raster tile's targets written back once its fragment warps have exited, and the tile retired (R320, R450). -/
def execColourTileWriteback (gid pi t : Nat) (s : State) : Out :=
  .next (match nmapFind s.graphs gid with
    | none => s
    | some g => match g.passAt pi with
      | none => s
      | some p =>
        let x := g.rasterTile pi t
        let busy : Bool := !x.pend.isEmpty || s.lists.any (fun e => e.2.any (entryIn gid pi t)) || !s.geometryDone gid pi
          || s.warps.any (fun w => match w.2.frag with
              | some f => f.tri.graph = some gid && f.tri.pass = pi && f.tile = t
              | none => false)
        if (s.ctx g.ctx).phase ≠ .running || !s.tileServed g p t || x.written || !x.processed || busy || (nmapFind g.stall (tileKey pi t)).isSome then s
        else match s.storeTile g p t x.pixels with
          | (s1, some e) => s1.unitStop gid (tileKey pi t) g e
          | (s1, none) =>
            let g1 := (g.setRasterTile pi t { x with pixels := [], written := true }).retireRaster pi t
            ((s1.setGraph gid g1).finishGraph gid).yardmaster)

/-! ## IATTR -/

/-- Component c of quad q of vertex i (R197, R210). -/
def triAttr (t : Tri) (i q c : Nat) : Word := (t.attr[(i * t.na + q) * 4 + c]?).getD 0

/-- The registers that IATTR writes for a lane (R210). -/
def State.iattrWords (s : State) (f : RForm) (w l : Nat) : List Word :=
  let q := subBits f 1 0
  let zero : List Word := List.replicate 4 0
  match (s.warp w).frag with
  | none => zero
  | some g =>
    if g.tri.na ≤ q then zero
    else if f.sub.getLsbD 2 then (List.range 4).map (triAttr g.tri 0 q)
    else match s.geoOf g.tri with
      | none => zero
      | some geo =>
        let p := lanePixel g.x0 g.y0 l
        let ws := triWeights geo p.1 p.2
        (List.range 4).map (fun c => interp ws ((List.range 3).map (fun i => triAttr g.tri i q c)))

def perfIattr (f : RForm) (s : State) (o : Op) (l : Nat) : State × Perf :=
  (s, .done (dstWords (opRec o l).hm f.dst l (s.iattrWords f o.w l)))

def opIattr (f : RForm) : LongOp :=
  { slots := slotsR f .b32 .b32 .b32, pend := fun s c => pendOf (s.inHandler c.w c.l) f.dst c.l 4, perf := perfIattr f }

/-- IATTR (R210). -/
def execIattr (h : Hdr) (f : RForm) (s : State) : Out := .next (issueLong (.iattr h f) h (opIattr f) s)

/-! ## FOUT -/

/-- The colour operands of a lane: output 0's quad, then output 1's. -/
def foutQuad (data k : Nat) : List Word := wordsOf 4 (data / 2 ^ (128 * k))

/-- What output k of a pixel becomes in .replace: the operand converted, or the clear value where it is zr (R211). -/
def replaceOut (o : Option (Nat × ResRec)) (src : Opnd) (cs : List Word) (old : BitVec 64) : BitVec 64 :=
  match o with
  | none => old
  | some (_, r) => match src with
    | .zr => clearPixel r
    | _ => convPixel r cs

/-- One FOUT of a covered pixel (R206, R211). -/
def foutApply (f : RForm) (g : Graph) (p : PassRec) (z key : Word) (data : Nat) (x : Pixel) : Pixel :=
  let mode := subBits f 2 1
  let c0 := foutQuad data 0
  let c1 := foutQuad data 1
  if mode = 0 then
    if fragWins (g.depthRes p) z key x then
      { z := z, key := key, c0 := replaceOut (g.colourRes p 0) f.sa c0 x.c0, c1 := replaceOut (g.colourRes p 1) f.sb c1 x.c1 }
    else x
  else if f.sub.getLsbD 0 then
    match g.colourRes p 1 with
    | some (_, r) => { x with c1 := foutPixel r mode x.c1 (convPixel r c0) }
    | none => x
  else
    match g.colourRes p 0 with
    | some (_, r) => { x with c0 := foutPixel r mode x.c0 (convPixel r c0) }
    | none => x

/-- One lane's part of FOUT (R211): a helper, or a lane of a warp that is no fragment warp, does nothing. -/
def perfFout (f : RForm) (s : State) (o : Op) (l : Nat) : State × Perf :=
  match (s.warp o.w).frag with
  | none => (s, .done [])
  | some fr =>
    if !fr.covered.getLsbD l then (s, .done [])
    else match fr.tri.graph.bind (fun k => (nmapFind s.graphs k).map (fun g => (k, g))), s.geoOf fr.tri with
      | some (gid, g), some geo =>
        match g.passAt fr.tri.pass with
        | none => (s, .done [])
        | some p =>
          let q := lanePixel fr.x0 fr.y0 l
          let z := depthBits (g.depthRes p) (triDepth geo q.1 q.2)
          let x := g.rasterTile fr.tri.pass fr.tile
          let px := nmapModify x.pixels (q.2 % 64 * 64 + q.1 % 64) (foutApply f g p z fr.tri.key (opRec o l).data)
          (s.setGraph gid (g.setRasterTile fr.tri.pass fr.tile { x with pixels := px }), .done [])
      | _, _ => (s, .done [])

def opFout (f : RForm) : LongOp :=
  { slots := fun s c => { slotsR f .n64 .n64 .b32 s c with data := s.vRun c f.sa 4 + 2 ^ 128 * s.vRun c f.sb 4 }, perf := perfFout f }

/-- FOUT (R211). -/
def execFout (h : Hdr) (f : RForm) (s : State) : Out := .next (issueLong (.fout h f) h (opFout f) s)

end Sys2Proof.Machine
end

