-- ==== Sys2Proof/Machine/Texture.lean ====
section
/-! DEFINITION. TEX, TEXG, TEXQ and TEXLD (R218 to R223). -/

namespace Sys2Proof.Machine

/-! ## Records and levels -/

/-- A texture record (R218). -/
structure TexRec where
  clear : Word
  aniso : Nat
  mip : Bool
  filt : Bool
  addrv : Nat
  addru : Nat
  cdc : Bool
  fmt : Nat
  lvm1 : Nat
  hm1 : Nat
  wm1 : Nat
  mta : Nat
  base : Nat
  deriving DecidableEq, Repr

def texOf (x : Nat) : TexRec :=
  { clear := BitVec.ofNat 32 (bitsAt x 224 32), aniso := bitsAt x 174 4, mip := bitsAt x 173 1 = 1, filt := bitsAt x 172 1 = 1,
    addrv := bitsAt x 170 2, addru := bitsAt x 168 2, cdc := bitsAt x 167 1 = 1, fmt := bitsAt x 164 3, lvm1 := bitsAt x 160 4,
    hm1 := bitsAt x 144 16, wm1 := bitsAt x 128 16, mta := bitsAt x 64 64, base := bitsAt x 0 64 }

/-- A record that R218 allows; any other raises TEXH (R223). -/
def texOk (x : Nat) : Bool :=
  let t := texOf x
  bitsAt x 256 256 = 0 && bitsAt x 178 46 = 0 && decide (t.fmt ≤ 3) && (!t.cdc || (t.fmt = 0 && t.mta ≠ 0)) && t.base % 256 = 0
    && decide (t.lvm1 ≤ Nat.log2 (max (t.wm1 + 1) (t.hm1 + 1)))

/-- The size of a level (R219). -/
def TexRec.levW (t : TexRec) (m : Nat) : Nat := max 1 ((t.wm1 + 1) / 2 ^ m)

def TexRec.levH (t : TexRec) (m : Nat) : Nat := max 1 ((t.hm1 + 1) / 2 ^ m)

/-- Texel bytes (R219). -/
def TexRec.tb (t : TexRec) : Nat := match t.fmt with | 1 => 8 | 3 => 1 | _ => 4

/-- The 8 × 8 tiles of a level, and those of the levels before it (R219). -/
def TexRec.levTiles (t : TexRec) (m : Nat) : Nat := (t.levW m + 7) / 8 * ((t.levH m + 7) / 8)

def TexRec.tilesBefore (t : TexRec) (m : Nat) : Nat := (List.range m).foldl (fun a k => a + t.levTiles k) 0

/-- The tile of a texel, over all levels, and the texel's place in it (R219). -/
def TexRec.texelTile (t : TexRec) (m x y : Nat) : Nat × Nat :=
  (t.tilesBefore m + y / 8 * ((t.levW m + 7) / 8) + x / 8, y % 8 * 8 + x % 8)

/-! ## Texels -/

/-- A channel's value: exact, an infinity or a NaN. -/
inductive Chan where
  | q (x : Q)
  | inf (neg : Bool)
  | nan
  deriving DecidableEq, Repr

def chanFv (v : Fv) : Chan :=
  match v with
  | .nan _ => .nan
  | .inf n => .inf n
  | .fin n m e => .q (qFin n m e)

/-- A texel's channels from its bits (R220). -/
def texelChans (fmt x : Nat) : List Chan :=
  let code (k : Nat) : Chan := .q ⟨(byteOf x k : Nat), 255⟩
  let zero : Chan := .q (qInt 0)
  let one : Chan := .q (qInt 1)
  match fmt with
  | 0 => (List.range 4).map code
  | 1 => (List.range 4).map (fun k => chanFv ((ffmt .f16).decode (x / 2 ^ (16 * k) % 65536)))
  | 2 => [chanFv ((ffmt .f32).decode (x % 2 ^ 32)), zero, zero, one]
  | _ => [code 0, zero, zero, one]

/-- A weighted sum of one channel, rounded once (R210, R221). -/
def mixChan (xs : List (Q × Chan)) : Word :=
  let live := xs.filter (fun e => e.1.num ≠ 0)
  let infs := live.filterMap (fun e => match e.2 with | .inf n => some (n != decide (e.1.num < 0)) | _ => none)
  if live.any (fun e => e.2 = .nan) then 0x7FC00000#32
  else match infs with
    | n :: t => if t.all (fun m => m = n) then (if n then 0xFF800000#32 else 0x7F800000#32) else 0x7FC00000#32
    | [] => BitVec.ofNat 32 (qTo .f32 (qSum (live.map (fun e => match e.2 with | .q x => qMul e.1 x | _ => qInt 0))))

/-- A tap: its weight, its level, and its texel indices before the address mode. -/
structure Tap where
  wt : Q
  m : Nat
  x : Int
  y : Int
  deriving DecidableEq, Repr

/-- A texel index placed on a level of size n; none outside it in border mode (R220). -/
def placeIndex (mode : Nat) (i : Int) (n : Nat) : Option Nat :=
  match mode with
  | 0 => some (i % (n : Int)).toNat
  | 1 => some (max 0 (min i ((n : Int) - 1))).toNat
  | 2 => let k := (i % (2 * (n : Int))).toNat; some (if k < n then k else 2 * n - 1 - k)
  | _ => if 0 ≤ i ∧ i < n then some i.toNat else none

/-- The taps of one level at a coordinate (R221). -/
def TexRec.levelTaps (t : TexRec) (m : Nat) (u v wt : Q) : List Tap :=
  let su := qMul u (qInt (t.levW m))
  let sv := qMul v (qInt (t.levH m))
  if !t.filt then [⟨wt, m, qFloor su, qFloor sv⟩]
  else
    let half : Q := ⟨1, 2⟩
    let xq := qFloor (qMul (qSub su half) (qInt 256))
    let yq := qFloor (qMul (qSub sv half) (qInt 256))
    let i := xq / 256
    let j := yq / 256
    let a : Q := ⟨xq % 256, 256⟩
    let b : Q := ⟨yq % 256, 256⟩
    let one := qInt 1
    [⟨qMul wt (qMul (qSub one a) (qSub one b)), m, i, j⟩, ⟨qMul wt (qMul a (qSub one b)), m, i + 1, j⟩,
      ⟨qMul wt (qMul (qSub one a) b), m, i, j + 1⟩, ⟨qMul wt (qMul a b), m, i + 1, j + 1⟩]

/-- The taps of a sample at a quantised level of detail, in 1/256 (R221). -/
def TexRec.sampleTaps (t : TexRec) (lq : Nat) (u v wt : Q) : List Tap :=
  if !t.mip then t.levelTaps ((lq + 128) / 256) u v wt
  else
    let m := lq / 256
    let f := if m = t.lvm1 then 0 else lq % 256
    t.levelTaps m u v (qMul wt ⟨(256 - f : Nat), 256⟩) ++ (if f = 0 then [] else t.levelTaps (m + 1) u v (qMul wt ⟨(f : Nat), 256⟩))

/-- A level of detail quantised (R221). -/
def TexRec.quantLod (t : TexRec) (v : Fv) : Nat :=
  match v with
  | .nan _ => 0
  | .inf neg => if neg then 0 else 256 * t.lvm1
  | .fin neg m e => (qFloor (qMul (qMax (qInt 0) (qMin (qFin neg m e) (qInt t.lvm1))) (qInt 256))).toNat

/-! ## Gradients -/

/-- floor(256 × log2 of the square root of a rational), clamped to a range of levels (R221, R222). -/
def lodOfSquare (r : Q) (lvm1 : Nat) : Nat :=
  let n := r.num.natAbs ^ 128
  let d := r.den ^ 128
  if n < d then 0 else min (Nat.log2 (n / d)) (256 * lvm1)

/-- The taps of TEXG: their number, their level of detail in 1/256, and the gradient they lie along (R222). -/
def TexRec.aniso222 (t : TexRec) (g : List Q) : Nat × Nat × Q × Q :=
  let w := qInt (t.wm1 + 1 : Nat)
  let h := qInt (t.hm1 + 1 : Nat)
  let sq (a b : Q) : Q := qAdd (qMul (qMul a w) (qMul a w)) (qMul (qMul b h) (qMul b h))
  let lx := sq (qAt g 0) (qAt g 1)
  let ly := sq (qAt g 2) (qAt g 3)
  let pmax := qMax lx ly
  let pmin := qMin lx ly
  let n : Nat :=
    if pmax.num = 0 then 1
    else if pmin.num = 0 then t.aniso + 1
    else min (t.aniso + 1) (2 ^ (((List.range 5).find? (fun c => qLe (qDiv pmax pmin) (qInt (4 ^ c)))).getD 5))
  let lod := if pmax.num = 0 then 0 else lodOfSquare (qDiv pmax (qInt (n * n : Nat))) t.lvm1
  if qLt lx ly then (n, lod, qAt g 2, qAt g 3) else (n, lod, qAt g 0, qAt g 1)

/-- The taps of TEXG at a coordinate (R222). -/
def TexRec.gradTaps (t : TexRec) (u v : Q) (g : List Q) : List Tap :=
  let (n, lod, gu, gv) := t.aniso222 g
  (List.range n).flatMap (fun (k : Nat) =>
    let c : Q := ⟨2 * (k : Int) + 1 - (n : Int), 2 * n⟩
    t.sampleTaps lod (qAdd u (qMul c gu)) (qAdd v (qMul c gv)) ⟨1, n⟩)

/-! ## Reads -/

/-- The bits of one texel of a level, read as LD would (R217, R219, R223). -/
def State.texelBits (s : State) (o : Op) (r : LaneRec) (t : TexRec) (m x y : Nat) : State × Except Acc Nat :=
  let (n, k) := t.texelTile m x y
  let tile := t.base + n * 64 * t.tb
  if t.cdc then
    match s.laneRead o r (t.mta + n) 1 1 with
    | (s1, .error e) => (s1, .error e)
    | (s1, .ok mb) =>
      let b := ofBytes mb
      match s1.laneRead o r tile 32 (cdcBytes b / 32) with
      | (s2, .error e) => (s2, .error e)
      | (s2, .ok bs) => (s2, .ok (ofBytes (((cdcDecode b bs t.clear.toNat).drop (4 * k)).take 4)))
  else
    match s.laneRead o r (tile + k * t.tb) t.tb 1 with
    | (s1, .ok bs) => (s1, .ok (ofBytes bs))
    | (s1, .error e) => (s1, .error e)

/-- The channels of a tap's texel; zero in the border (R220). -/
def State.tapChans (s : State) (o : Op) (r : LaneRec) (t : TexRec) (p : Tap) : State × Except Acc (List Chan) :=
  match placeIndex t.addru p.x (t.levW p.m), placeIndex t.addrv p.y (t.levH p.m) with
  | some x, some y =>
    match s.texelBits o r t p.m x y with
    | (s1, .ok b) => (s1, .ok (texelChans t.fmt b))
    | (s1, .error e) => (s1, .error e)
  | _, _ => (s, .ok (List.replicate 4 (.q (qInt 0))))

/-- The texels of the taps that carry weight, with their weights; that a tap of weight zero is not read is a DESIGN CHOICE (log entry 81). -/
def State.readTaps (s : State) (o : Op) (r : LaneRec) (t : TexRec) (ps : List Tap) : State × Except Acc (List (Q × List Chan)) :=
  match ps with
  | [] => (s, .ok [])
  | p :: rest =>
    if p.wt.num = 0 then State.readTaps s o r t rest
    else match s.tapChans o r t p with
      | (s1, .error e) => (s1, .error e)
      | (s1, .ok cs) => match State.readTaps s1 o r t rest with
        | (s2, .ok xs) => (s2, .ok ((p.wt, cs) :: xs))
        | (s2, .error e) => (s2, .error e)

/-- The four channels of a sum of taps (R221). -/
def mixTaps (xs : List (Q × List Chan)) : List Word :=
  (List.range 4).map (fun c => mixChan (xs.map (fun e => (e.1, (e.2[c]?).getD (.q (qInt 0))))))

/-- The record read, with ALIGN judged at issue and TEXH here (R223). -/
def State.readTex (s : State) (o : Op) (r : LaneRec) : State × Except Perf TexRec :=
  match s.laneRead o r r.a.toNat 64 1 with
  | (s1, .error e) => (s1, .error e.perf)
  | (s1, .ok bs) => if texOk (ofBytes bs) then (s1, .ok (texOf (ofBytes bs))) else (s1, .error (.trap .texh 0 0))

/-- Taps read and written to d to d + 3. -/
def State.finishTaps (s : State) (f : RForm) (o : Op) (r : LaneRec) (t : TexRec) (ps : List Tap) : State × Perf :=
  match s.readTaps o r t ps with
  | (s1, .ok xs) => (s1, .done (dstWords r.hm f.dst r.lane (mixTaps xs)))
  | (s1, .error e) => (s1, e.perf)

/-- Word k of a lane's captured registers as a floating value. -/
def recF32 (data k : Nat) : Option Q := qF32 (BitVec.ofNat 32 (bitsAt data (32 * k) 32))

/-- One lane's part of TEX (R221, R223): a coordinate that is no number makes every tap zero. -/
def perfTex (f : RForm) (s : State) (o : Op) (l : Nat) : State × Perf :=
  let r := opRec o l
  match s.readTex o r with
  | (s1, .error p) => (s1, p)
  | (s1, .ok t) =>
    let taps := match recF32 r.data 0, recF32 r.data 1 with
      | some u, some v => t.sampleTaps (t.quantLod ((ffmt .f32).decode (r.c.toNat % 2 ^ 32))) u v (qInt 1)
      | _, _ => []
    s1.finishTaps f o r t taps

/-- One lane's part of TEXG (R222, R223). A NaN or infinite gradient makes every tap zero: DESIGN CHOICE, log entry 80. -/
def perfTexg (f : RForm) (s : State) (o : Op) (l : Nat) : State × Perf :=
  let r := opRec o l
  match s.readTex o r with
  | (s1, .error p) => (s1, p)
  | (s1, .ok t) =>
    let g := (List.range 4).filterMap (fun k => recF32 r.data (2 + k))
    let taps := match recF32 r.data 0, recF32 r.data 1 with
      | some u, some v => if g.length = 4 then t.gradTaps u v g else []
      | _, _ => []
    s1.finishTaps f o r t taps

/-- One lane's part of TEXLD (R220, R223). -/
def perfTexld (f : RForm) (s : State) (o : Op) (l : Nat) : State × Perf :=
  let r := opRec o l
  match s.readTex o r with
  | (s1, .error p) => (s1, p)
  | (s1, .ok t) =>
    let x := bitsAt r.data 0 32
    let y := bitsAt r.data 32 32
    let m := r.c.toNat % 2 ^ 32
    if t.lvm1 < m || t.levW m ≤ x || t.levH m ≤ y then (s1, .done (dstWords r.hm f.dst l (List.replicate 4 0)))
    else match s1.texelBits o r t m x y with
      | (s2, .error e) => (s2, e.perf)
      | (s2, .ok b) => (s2, .done (dstWords r.hm f.dst l (mixTaps [(qInt 1, texelChans t.fmt b)])))

/-- One lane's part of TEXQ (R223). -/
def perfTexq (f : RForm) (s : State) (o : Op) (l : Nat) : State × Perf :=
  let r := opRec o l
  match s.readTex o r with
  | (s1, .error p) => (s1, p)
  | (s1, .ok t) =>
    let m := r.b.toNat % 2 ^ 32
    let ws : List Nat := if t.lvm1 < m then [0, 0, 0, 0] else [t.levW m, t.levH m, t.lvm1 + 1, t.fmt]
    (s1, .done (dstWords r.hm f.dst l (ws.map (BitVec.ofNat 32))))

/-! ## The instructions -/

/-- The operand values of a texture instruction: the coordinate registers, then the gradients. -/
def slotsTex (f : RForm) (tb tc : Ty) (n : Nat) (s : State) (c : Rd) : LaneRec :=
  { slotsR f .n64 tb tc s c with addr := s.src c .n64 f.sa, data := s.vRun c f.sb 2 + 2 ^ 64 * s.vRun c f.sc n }

/-- What the four texture instructions share (R223). -/
def texOp (f : RForm) (tb tc : Ty) (n : Nat) (perf : State → Op → Nat → State × Perf) : LongOp :=
  { cause := recCause f, slots := slotsTex f tb tc n, pend := fun s c => pendOf (s.inHandler c.w c.l) f.dst c.l 4, ord := { mem := true }
    perf := perf }

def opTex (f : RForm) : LongOp := texOp f .n64 .f32 0 (perfTex f)

def opTexg (f : RForm) : LongOp := texOp f .n64 .n64 4 (perfTexg f)

def opTexld (f : RForm) : LongOp := texOp f .n64 .n32 0 (perfTexld f)

def opTexq (f : RForm) : LongOp := texOp f .n32 .b32 0 (perfTexq f)

def execTex (h : Hdr) (f : RForm) (s : State) : Out := .next (issueLong (.tex h f) h (opTex f) s)

def execTexg (h : Hdr) (f : RForm) (s : State) : Out := .next (issueLong (.texg h f) h (opTexg f) s)

def execTexld (h : Hdr) (f : RForm) (s : State) : Out := .next (issueLong (.texld h f) h (opTexld f) s)

def execTexq (h : Hdr) (f : RForm) (s : State) : Out := .next (issueLong (.texq h f) h (opTexq f) s)

end Sys2Proof.Machine
end

