-- ==== Sys2Proof/Machine/Ray.lean ====
section
/-! DEFINITION. Ray queries (R225, R227, R228). -/

namespace Sys2Proof.Machine

/-! ## Geometry -/

/-- An interval of ray parameters; a missing end is unbounded. -/
structure Span where
  lo : Option Q
  hi : Option Q
  ok : Bool
  deriving DecidableEq, Repr

/-- Two spans met. -/
def Span.meet (a b : Span) : Span :=
  let lo := match a.lo, b.lo with | some x, some y => some (qMax x y) | some x, none => some x | none, y => y
  let hi := match a.hi, b.hi with | some x, some y => some (qMin x y) | some x, none => some x | none, y => y
  ⟨lo, hi, a.ok && b.ok && (match lo, hi with | some x, some y => qLe x y | _, _ => true)⟩

/-- Whether a parameter lies in a span. -/
def Span.has (a : Span) (t : Q) : Bool :=
  a.ok && (match a.lo with | some x => qLe x t | none => true) && (match a.hi with | some x => qLe t x | none => true)

/-- The span of two .f32 bounds (R227): empty for a NaN. -/
def raySpan (lo hi : Word) : Span :=
  let a := (ffmt .f32).decode lo.toNat
  let b := (ffmt .f32).decode hi.toNat
  let s : Span := ⟨qOf a, qOf b, !a.isNan && !b.isNan && !(a.isInf && !a.neg) && !(b.isInf && b.neg)⟩
  s.meet ⟨none, none, true⟩

/-- A ray: origin, direction, interval (R227); none of its points are taken when a value is no number. -/
structure Ray where
  o : List Q
  d : List Q
  t : Span
  deriving DecidableEq, Repr

/-- The ray of a lane's eight registers (R228): O, tmin, D, tmax. -/
def rayOf (data : Nat) : Ray :=
  let w (k : Nat) : Word := BitVec.ofNat 32 (bitsAt data (32 * k) 32)
  let o := (List.range 3).filterMap (fun k => qF32 (w k))
  let d := (List.range 3).filterMap (fun k => qF32 (w (4 + k)))
  let t := raySpan (w 3) (w 7)
  { o := o, d := d, t := { t with ok := t.ok && o.length = 3 && d.length = 3 } }

def vSub (a b : List Q) : List Q := (List.range 3).map (fun k => qSub (qAt a k) (qAt b k))

def vDot (a b : List Q) : Q := qSum ((List.range 3).map (fun k => qMul (qAt a k) (qAt b k)))

def vCross (a b : List Q) : List Q :=
  let c (i j : Nat) : Q := qSub (qMul (qAt a i) (qAt b j)) (qMul (qAt a j) (qAt b i))
  [c 1 2, c 2 0, c 0 1]

/-- A hit: t*, u and v (R227). -/
structure Hit where
  t : Q
  u : Q
  v : Q
  key : Word
  tri : Nat
  deriving DecidableEq, Repr

/-- A ray against a triangle's vertices (R227). -/
def Ray.hits (r : Ray) (vs : List (List Q)) (key : Word) (tri : Nat) : Option Hit :=
  let vert (k : Nat) : List Q := (vs[k]?).getD []
  let e1 := vSub (vert 1) (vert 0)
  let e2 := vSub (vert 2) (vert 0)
  let p := vCross r.d e2
  let det := vDot e1 p
  if !r.t.ok || det.num = 0 then none
  else
    let tv := vSub r.o (vert 0)
    let q := vCross tv e1
    let u := qDiv (vDot tv p) det
    let v := qDiv (vDot r.d q) det
    let t := qDiv (vDot e2 q) det
    let zero := qInt 0
    if qLe zero u && qLe zero v && qLe (qAdd u v) (qInt 1) && r.t.has t then some ⟨t, u, v, key, tri⟩ else none

/-- Whether some t of the interval puts the ray inside a closed box (R227). -/
def Ray.enters (r : Ray) (box : List Word) : Bool :=
  let bound (k : Nat) : Word := (box[k]?).getD 0
  let axis (k : Nat) : Span :=
    let b := raySpan (bound k) (bound (k + 3))
    let o := qAt r.o k
    let d := qAt r.d k
    let at1 (x : Option Q) : Option Q := x.map (fun y => qDiv (qSub y o) d)
    if d.num = 0 then { b with lo := none, hi := none, ok := b.has o }
    else if d.num < 0 then ⟨at1 b.hi, at1 b.lo, b.ok⟩
    else ⟨at1 b.lo, at1 b.hi, b.ok⟩
  r.t.ok && ((r.t.meet (axis 0)).meet ((axis 1).meet (axis 2))).ok

/-- The better of two hits (R227): least t*, then least key, then least triangle index. -/
def betterHit (a : Option Hit) (b : Hit) : Option Hit :=
  match a with
  | none => some b
  | some x =>
    if qLt b.t x.t || (qEq b.t x.t && (decide (b.key.toNat < x.key.toNat) || (b.key = x.key && decide (b.tri < x.tri)))) then some b else some x

/-! ## Traversal -/

/-- How a traversal stands: its hit, and the nodes visited. -/
structure Trav where
  best : Option Hit
  visits : Nat
  deriving DecidableEq, Repr

/-- A child still to be looked at: its reference, and whether its box is entered. -/
abbrev Child := Nat × Bool

/-- The children of a node's 256 bytes (R225). -/
def nodeChildren (r : Ray) (x : Nat) : List Child :=
  (List.range 8).map (fun c =>
    (bitsAt x (8 * (0xC0 + 4 * c)) 32, r.enters ((List.range 6).map (fun k => BitVec.ofNat 32 (bitsAt x (8 * (24 * c + 4 * k)) 32)))))

/-- A node within R225: its reserved bytes, and its references. -/
def nodeOk (x nn nt : Nat) : Bool :=
  bitsAt x (8 * 0xE0) 256 = 0 && (List.range 8).all (fun c =>
    let ref := bitsAt x (8 * (0xC0 + 4 * c)) 32
    ref = 0xFFFFFFFF || (if 2 ^ 31 ≤ ref then decide (ref - 2 ^ 31 < nt) else decide (ref < nn)))

/-- A triangle record's vertices; none when a coordinate is no number. -/
def triRecord (x : Nat) : List (List Q) :=
  (List.range 3).map (fun v => (List.range 3).filterMap (fun k => qF32 (BitVec.ofNat 32 (bitsAt x (32 * (3 * v + k)) 32))))

/-- A query goes on over the children that are left, depth first, the lowest child first (R227, R228). `any` stops at the first hit. That a
closest-hit query too enters a node child only when its box is entered is a DESIGN CHOICE (log entry 82). -/
def State.traverse (s : State) (o : Op) (lr : LaneRec) (r : Ray) (any : Bool) (base nn nt : Nat) (fuel : Nat) (todo : List Child) (v : Trav) :
    State × Except Perf (Option Hit) :=
  match fuel, todo with
  | 0, _ => (s, .error (.trap .rayh 0 0))
  | _, [] => (s, .ok v.best)
  | k + 1, (ref, inside) :: rest =>
    if ref = 0xFFFFFFFF then State.traverse s o lr r any base nn nt k rest v
    else if 2 ^ 31 ≤ ref then
      let n := ref - 2 ^ 31
      match s.laneRead o lr (base + 64 + 256 * nn + 48 * n) 16 3 with
      | (s1, .error e) => (s1, .error e.perf)
      | (s1, .ok bs) =>
        let x := ofBytes bs
        let vs := triRecord x
        if bitsAt x 320 64 ≠ 0 then (s1, .error (.trap .rayh 0 0))
        else match if vs.all (fun p => p.length = 3) then r.hits vs (BitVec.ofNat 32 (bitsAt x 288 32)) n else none with
          | none => State.traverse s1 o lr r any base nn nt k rest v
          | some h => if any then (s1, .ok (some h)) else State.traverse s1 o lr r any base nn nt k rest { v with best := betterHit v.best h }
    else if !inside then State.traverse s o lr r any base nn nt k rest v
    else if nn ≤ v.visits then (s, .error (.trap .rayh 0 0))
    else match s.laneRead o lr (base + 64 + 256 * ref) 16 16 with
      | (s1, .error e) => (s1, .error e.perf)
      | (s1, .ok bs) =>
        let x := ofBytes bs
        if !nodeOk x nn nt then (s1, .error (.trap .rayh 0 0))
        else State.traverse s1 o lr r any base nn nt k (nodeChildren r x ++ rest) { v with visits := v.visits + 1 }

/-- A query's result (R225, R228): the header is checked, then the root is visited when there is one. -/
def State.rayQuery (s : State) (o : Op) (lr : LaneRec) (any : Bool) : State × Except Perf (Option Hit) :=
  let base := lr.a.toNat
  match s.laneRead o lr base 16 4 with
  | (s1, .error e) => (s1, .error e.perf)
  | (s1, .ok bs) =>
    let x := ofBytes bs
    let nn := bitsAt x 0 32
    let nt := bitsAt x 32 32
    if bitsAt x 128 384 ≠ 0 || bitsAt x 64 64 ≠ 64 + 256 * nn then (s1, .error (.trap .rayh 0 0))
    else s1.traverse o lr (rayOf lr.data) any base nn nt (9 * nn + 2) (if nn = 0 then [] else [(0, true)]) ⟨none, 0⟩

/-- The hit record (R228). -/
def hitWords (h : Option Hit) : List Word :=
  match h with
  | none => [0x7F800000#32, 0xFFFFFFFF#32, 0, 0]
  | some x =>
    let f (a : Q) : Word := BitVec.ofNat 32 (qTo .f32 a)
    [f x.t, x.key, f x.u, f x.v]

/-! ## RAYQ -/

/-- The queries that a core's ray engine holds (R228). -/
def State.rayCount (s : State) (cid : Nat) : Nat :=
  (s.ops.map (fun e => match e.2.instr with
    | .rayq _ _ => if warpCid e.2.w = cid then popcountN 32 (rayAccepted e.2 &&& e.2.lanes).toNat else 0
    | _ => 0)).foldl (· + ·) 0

/-- One lane's part of RAYQ (R228): the engine accepts it, and the instruction is over for R43 once every lane is accepted; tried again, the
query is answered. -/
def perfRayq (f : RForm) (s : State) (o : Op) (l : Nat) : State × Perf :=
  let r := opRec o l
  if (rayAccepted o).getLsbD l then
    match s.rayQuery o r (f.sub.getLsbD 0) with
    | (s1, .ok h) => (s1, .done (dstWords r.hm f.dst l (hitWords h)))
    | (s1, .error p) => (s1, p)
  else if 256 ≤ s.rayCount (warpCid o.w) then (s, .wait .rayQueue 0)
  else
    let m := rayAccepted o ||| bit32 l
    (s.modOp o.seq (fun (q : Op) => { q with mark := some m.toNat, accepted := decide (q.lanes &&& ~~~m = 0) }), .wait .none 0)

def opRayq (f : RForm) : LongOp :=
  { cause := recCause f
    slots := fun s c => { slotsR f .n64 .n64 .n64 s c with addr := s.src c .n64 f.sa, data := s.vRun c f.sb 4 + 2 ^ 128 * s.vRun c f.sc 4 }
    pend := fun s c => pendOf (s.inHandler c.w c.l) f.dst c.l 4, ord := { mem := true }, late := true
    perf := perfRayq f }

/-- RAYQ (R228). -/
def execRayq (h : Hdr) (f : RForm) (s : State) : Out := .next (issueLong (.rayq h f) h (opRayq f) s)

/-- A lane's answered query written, and the lane out of the instruction (R46). -/
def State.endQuery (s : State) (id l : Nat) : State :=
  match nmapFind s.ops id with
  | none => s
  | some o =>
    if o.lanes.getLsbD l && !o.todo.getLsbD l then
      (((s.applyWrites o.w o.writes).wakeCore (warpCid o.w)).modOp id (fun (q : Op) => { q with writes := [] })).dropLane id l false
    else s

/-- The ray engine answers a lane's query (R228). -/
def execRayQueryCompletion (id l : Nat) (s : State) : Out :=
  .next (match nmapFind s.ops id with
    | none => s
    | some o => match o.instr with
      | .rayq _ f => if (rayAccepted o &&& o.todo).getLsbD l then (retryLanes (opRayq f) id [l] s).endQuery id l else s
      | _ => s)

end Sys2Proof.Machine
end

