-- ==== Sys2Proof/Machine/SysOps.lean ====
section
/-! DEFINITION. Special registers and the registers of the interrupted code (R406 to R408, R421), and what the runtime's handler
computes for the emulated division (R145). -/

namespace Sys2Proof.Machine

/-- The special register that RDSR names: in the .ind form the whole of SA; none when no register has that number (R407). -/
def rdsrNumber (f : RForm) (s : State) (c : Rd) : Option Nat :=
  match f.sub.getLsbD 0, f.sa with
  | false, .sr n => some n.toNat
  | false, _ => none
  | true, _ =>
    let n := srcN s c .n32 f.sa
    if n < 0x200 && srAssigned n then some n else none

/-- RDSR (R406, R407). -/
def outRdsr (f : RForm) (s : State) (c : Rd) : LaneOut :=
  let x : BitVec 64 := match rdsrNumber f s c with | some n => s.readSr c.w c.l c.mask n | none => 0
  outT s c f.dst f.ty x

def execRdsr (h : Hdr) (f : RForm) (s : State) : Out :=
  .next (issueFixed h (checkOf (.rdsr h f)) (fixedOf (outRdsr f)) s)

/-- The number of a special-register operand. -/
def srNum (o : Opnd) : Nat := match o with | .sr n => n.toNat | _ => 0

/-- The causes of WRSR (R408): PRIV. -/
def preWrsr (f : RForm) (s : State) (c : Rd) : Option Cause :=
  let n := srNum f.sb
  if n = 0x30 || n = 0x31 || n = 0x32 then none
  else if n = 0x50 || n = 0x51 || n = 0x52 then privOutside s c
  else some .priv

/-- WRSR (R408): %rng by each lane, the registers of the warp by the lowest lane of M. -/
def outWrsr (f : RForm) (s : State) (c : Rd) : LaneOut :=
  let x := s.src c f.ty f.sa
  let d : Word := x.truncate 32
  ⟨match srNum f.sb with
    | 0x30 => [.fpflags d]
    | 0x31 => [.fpctl d]
    | 0x32 => [.rng c.l d]
    | 0x50 => [.trapbase x]
    | 0x51 => [.traphandler d]
    | 0x52 => [.wdog d]
    | _ => [], 0⟩

def execWrsr (h : Hdr) (f : RForm) (s : State) : Out :=
  .next (issueFixed h (checkOf (.wrsr h f)) { fixedOf (outWrsr f) with pre := preWrsr f, slots := slotsR f f.ty .b32 .b32 } s)

/-! ## Registers of the interrupted code -/

/-- A lane's resume pc (R416). -/
def State.resumePc (s : State) (w l : Nat) : Word :=
  match (s.latchOf w).laneRec l with | some r => r.rp | none => s.regs.getHv w l 0

/-- The value of a register of the interrupted code (R421). -/
def irRead (f : RForm) (s : State) (c : Rd) (o : Opnd) : BitVec 64 :=
  let wide := isWide f.ty
  let r := s.regs
  match o with
  | .v k => if wide then pair64 (r.getV c.w c.l k.toNat) (r.getV c.w c.l (k.toNat + 1)) else (r.getV c.w c.l k.toNat).zeroExtend 64
  | .s k => if wide then pair64 (r.getS c.w k.toNat) (r.getS c.w (k.toNat + 1)) else (r.getS c.w k.toNat).zeroExtend 64
  | .pc => (s.resumePc c.w c.l).zeroExtend 64
  | o => s.src c .b32 o

/-- The writes to a register of the interrupted code; pc takes none (R421). -/
def irWrites (f : RForm) (c : Rd) (o : Opnd) (x : BitVec 64) : List RegWrite :=
  match o with
  | .pc => []
  | o => dstWrites false o c.l (isWide f.ty) x

/-- RDIR (R421). -/
def outRdir (f : RForm) (s : State) (c : Rd) : LaneOut :=
  outT s c f.dst f.ty (match irTarget f f.sa s c with | some o => irRead f s c o | none => 0)

/-- POISON of a register of the interrupted code that RDIR reads (R421, R429). -/
def irPoison (f : RForm) (s : State) (c : Rd) : Option (Cause × Nat) :=
  match irTarget f f.sa s c with
  | some o => if poisonUse s.mem.poison c.w c.l false ⟨o, tyRegs f.ty, false⟩ then some (.poison, 1) else none
  | none => none

def execRdir (h : Hdr) (f : RForm) (s : State) : Out :=
  .next (issueFixed h (checkOf (.rdir h f))
    { fixedOf (outRdir f) with pre := privOutside, wait := irWaits f f.sa, cause := irPoison f } s)

/-- WRIR (R421). -/
def outWrir (f : RForm) (s : State) (c : Rd) : LaneOut :=
  ⟨match irTarget f f.sb s c with | some o => irWrites f c o (s.src c f.ty f.sa) | none => [], 0⟩

def execWrir (h : Hdr) (f : RForm) (s : State) : Out :=
  .next (issueFixed h (checkOf (.wrir h f))
    { fixedOf (outWrir f) with pre := privOutside, wait := irWaits f f.sb, slots := slotsR f f.ty .b32 .b32 } s)

/-! ## The emulated division -/

/-- The quotient and remainder that the handler computes for a word of the emulation space (R145). -/
def emulatedDivision (t : Ty) (a b : Int) : Int × Int :=
  if b = 0 then (if t = .n32 then 0xFFFFFFFF else if 0 ≤ a then -1 else -2 ^ 31, a)
  else if t = .i32 && a = -2 ^ 31 && b = -1 then (-2 ^ 31, 0)
  else (a.tdiv b, a - a.tdiv b * b)

end Sys2Proof.Machine
end

