-- ==== Sys2Proof/Machine/Perform.lean ====
section
/-! DEFINITION. Which operation an outstanding instruction carries, so that a part of it can be tried again; completions, the ends of waits,
replays, RFT, and the exit of lanes (R41, R43, R268, R371, R374, R378 to R380, R400, R416, R422). -/

namespace Sys2Proof.Machine

/-- The long-latency operation of an instruction that acts lane by lane or once for its warp; an MMA has no part to be tried. -/
def longOpOf (i : Instr) : Option LongOp :=
  match i with
  | .ld _ f => some (opLd f)
  | .st _ f => some (opSt f)
  | .ldmc _ f => some (opLdmc f)
  | .prfm _ f => some (opPrfm f)
  | .cctl _ f => some (opCctl f)
  | .atom _ f => some (opAtom f false true)
  | .red _ f => some (opAtom f false false)
  | .cas _ f => some (opAtom f true true)
  | .fence _ f => some (opFence f)
  | .feset _ f => some (opFeset f)
  | .feqry _ f => some (opFeqry f)
  | .acinit _ f => some (opAcinit f)
  | .arrive _ f => some (opArrive f)
  | .acfree _ f => some (opAcfree f)
  | .nnsend _ f => some (opNnsend f)
  | .nnrecv _ f => some (opNnrecv f)
  | .mcjoin _ f => some (opMcjoin f)
  | .mcleave _ f => some (opMcleave f)
  | .tld _ f => some (opTld f)
  | .tst _ f => some (opTst f)
  | .pkst _ f => some (opPkst f)
  | .pkld _ f => some (opPkld f)
  | .cpy _ f => some (opCpy f)
  | .xform _ f => some (opXform f)
  | .lres _ f => some (opLres f)
  | .lrel _ f => some (opLrel f)
  | .lstat _ f => some (opLstat f)
  | .lld _ f => some (opLld f)
  | .ldt4 _ f => some (opLdt4 f)
  | .accz _ f => some (opAccz f)
  | .accrd _ f => some (opAccrd f)
  | .accwr _ f => some (opAccwr f)
  | .accout _ f => some (opAccout f)
  | .accin _ f => some (opAccin f)
  | .racq _ f => some (opRacq false f)
  | .rtake _ f => some (opRacq true f)
  | .rfill _ f => some (opRfill false f)
  | .rfree _ f => some (opRfill true f)
  | .tdone _ f => some (opTdone f)
  | .rtnext _ f => some (opRtnext f)
  | .glaunch _ f => some (opGlaunch f)
  | .reord _ f => some (opReord f)
  | .cutsel _ f => some (opCutsel f)
  | .shdec _ f => some (opShdec f)
  | .primemit _ f => some (opPrimemit f)
  | .iattr _ f => some (opIattr f)
  | .fout _ f => some (opFout f)
  | .tex _ f => some (opTex f)
  | .texg _ f => some (opTexg f)
  | .texld _ f => some (opTexld f)
  | .texq _ f => some (opTexq f)
  | .rayq _ f => some (opRayq f)
  | _ => none

/-- The warp-wide operation of an instruction, with its header and its convergence register (R52). -/
def wideOpOf (i : Instr) : Option (WideOp × Hdr × Nat) :=
  match i with
  | .shfl h f => some (wideShfl f, h, cvOf f)
  | .vote h f => some (wideVote f, h, cvOf f)
  | .ballot h f => some (wideBallot f, h, cvOf f)
  | .matchOp h f => some (wideMatch f, h, cvOf f)
  | .redux h f => some (wideRedux f, h, cvOf f)
  | .prefixOp h f => some (widePrefix f, h, cvOf f)
  | .fredux h f => some (wideFredux f, h, cvOf f)
  | .qnt h f => some (wideQnt f, h, cvOf f)
  | .dqnt h f => some (wideDqnt f, h, cvOf f)
  | .ldt4 h f => some (wideLdt4 h f, h, cvOf f)
  | .mma h f => some (wideMma false (.mma h f) h f, h, cvOf f)
  | .mmaq h f => some (wideMma true (.mmaq h f) h f, h, cvOf f)
  | .accrd h f => some (wideAccrd h f, h, cvOf f)
  | .accwr h f => some (wideAccwr h f, h, cvOf f)
  | .accout h f => some (wideAccout h f, h, cvOf f)
  | .accin h f => some (wideAccin h f, h, cvOf f)
  | _ => none

/-! ## Parts tried again -/

/-- The parts of some lanes of an outstanding instruction tried again; lanes parked at a fetch fetch again (R380). -/
def State.tryAgain (s : State) (id : Nat) (ls : List Nat) : State :=
  match nmapFind s.ops id with
  | none => s
  | some o =>
    match o.instr, longOpOf o.instr with
    | .pageWalk _ _ _, _ => ls.foldl (fun (t : State) l => t.dropLane id l false) s
    | _, some op => retryLanes op id (ls.filter (fun l => o.todo.getLsbD l)) s
    | _, none => s

/-- Whether an instruction waits for an engine to accept its query (R228): its further parts are the engine's. -/
def engineOwned (o : Op) : Bool := match o.instr with | .rayq _ _ => o.accepted | _ => false

/-- The lanes of an outstanding instruction that wait for something other than a replay or an engine. -/
def waitingLanes (o : Op) : List Nat :=
  (lanesOf (o.todo &&& ~~~parkedMask o)).filter (fun l => match o.instr with | .rayq _ _ => !(rayAccepted o).getLsbD l | _ => true)

/-- A long-latency instruction whose parts are performed completes (R43, R268); one that still waits looks again. -/
def execLoadCompletion (id : Nat) (s : State) : Out :=
  .next (match nmapFind s.ops id with
    | none => s
    | some o =>
      if o.mma.isSome || o.accepted then s
      else ((s.tryAgain id (waitingLanes o)).completeOp id))

/-- A lane that waits on a full-empty bit looks again (R266). -/
def execFullEmptyWaitEnd (id l : Nat) (s : State) : Out :=
  .next (match nmapFind s.ops id with
    | none => s
    | some o => if (o.waitOf l).1 = .fullEmpty then s.tryAgain id [l] else s)

/-- An LDMC's ask reaches its home slice (R286). -/
def execMulticastAsk (id l : Nat) (s : State) : Out :=
  .next (match nmapFind s.ops id with
    | none => s
    | some o => match o.instr with
      | .ldmc _ f => retryLanes (opLdmc f) id ((waitingLanes o).filter (fun k => k = l)) s
      | _ => s)

/-- A waiting MCJOIN looks again (R284). -/
def execMcjoinDrainEnd (id : Nat) (s : State) : Out :=
  .next (match nmapFind s.ops id with
    | none => s
    | some o => match o.instr with
      | .mcjoin _ f => retryLanes (opMcjoin f) id (waitingLanes o) s
      | _ => s)

/-- A waiting CPY or XFORM looks at the engine queue again (R289). -/
def execEngineJobAccept (id : Nat) (s : State) : Out :=
  .next (match nmapFind s.ops id with
    | none => s
    | some o => match o.instr with
      | .cpy _ f => retryLanes (opCpy f) id (waitingLanes o) s
      | .xform _ f => retryLanes (opXform f) id (waitingLanes o) s
      | _ => s)

/-! ## Replays -/

/-- The marks of some lanes' parked parts changed. -/
def setParked (o : Op) (ls : List Nat) (f : Nat → Nat) : Op :=
  { o with parked := o.parked.map (fun p => if ls.contains p.1 then (p.1, p.2.1, f p.2.2) else p) }

/-- The parked parts of some lanes walked again (R380, R400): performed, or parked anew. A ray query that was answered is written. -/
def State.replayOp (s : State) (id : Nat) (ls : List Nat) : State :=
  let s1 := s.modOp id (fun o => setParked o ls (fun k => k % failedKind))
  let s2 := s1.tryAgain id ls
  match nmapFind s2.ops id with
  | some o => if engineOwned o then ls.foldl (fun (t : State) l => t.endQuery id l) s2 else s2.completeOp id
  | none => s2

/-- Whether an earlier instruction of the warp still has a pending replay (R380). -/
def State.earlierParked (s : State) (id w : Nat) : Bool :=
  s.ops.any (fun e => e.2.w = w && decide (e.1 < id) && e.2.parked.any (fun p => decide (p.2.2 / failedKind ≠ 1)))

/-- The lanes of an instruction whose fault has been answered and that wait for their turn. -/
def turnLanes (o : Op) : List Nat := (o.parked.filter (fun p => p.2.2 / failedKind = 2)).map (·.1)

/-- Answered parts replayed, an earlier instruction of the warp first (R380). -/
def State.takeTurns (s : State) (ids : List Nat) : State :=
  ids.foldl (fun (t : State) id => match nmapFind t.ops id with
    | none => t
    | some o =>
      match turnLanes o with
      | [] => t
      | ls => if t.earlierParked id o.w then t else t.replayOp id ls) s

/-- RFT.retry walks a lane's parked part again, after the earlier pending replays of the warp (R380, R422). -/
def State.replayInTurn (s : State) (id l : Nat) : State :=
  match nmapFind s.ops id with
  | none => s
  | some o =>
    if s.earlierParked id o.w then s.modOp id (fun o => setParked o [l] (fun k => k % failedKind + 2 * failedKind))
    else s.replayOp id [l]

/-- PAGE raised by the parked lanes of an instruction (R400): their parts stay, marked, until the handler replies; the lanes' next
instruction is where they stopped. -/
def State.failOp (s : State) (id : Nat) (ls : List Nat) : State :=
  match nmapFind s.ops id with
  | none => s
  | some o =>
    match o.parked.filter (fun p => ls.contains p.1 && decide (p.2.2 < failedKind)) with
    | [] => s
    | p :: rest =>
      let ps := p :: rest
      let s1 := s.raise o.w o.pc o.word (ps.map (fun q => ⟨q.1, .page, q.2.2, BitVec.ofNat 64 q.2.1⟩)) (opRec o) (some id)
      s1.modOp id (fun o => setParked o (ps.map (·.1)) (fun k => k % failedKind + failedKind))

/-! ## RFT -/

/-- Where RFT.adv sends a lane, and the registers that the word's transfer writes (R37, R38, R422). -/
def State.advTarget (s : State) (w l : Nat) (rp : Word) (x : IWord) : Word × List RegWrite × Bool :=
  match hdrOf x with
  | none => (rp + 1, [], false)
  | some h => if s.guardTrue h w l then ((s.nxt h w l rp).1, (s.nxt h w l rp).2, h.nxt = .exit) else (rp + 1, [], false)

/-- One lane leaves handler mode (R422). -/
def State.leaveLane (s : State) (w : Nat) (t : Trap) (retry : Bool) (l : Nat) : State :=
  let rp := s.resumePc w l
  let x := s.warp w
  let s1 := s.setWarp w { x with hmode := x.hmode &&& ~~~bit32 l, leaving := x.leaving ||| (t.leaving &&& bit32 l) }
  let goTo (u : State) (pc : Word) : State := { u with regs := u.regs.setPc w l pc }
  if t.cause = .page then
    match t.op with
    | none => goTo s1 rp
    | some id => if retry then (goTo s1 rp).replayInTurn id l else (goTo s1 rp).dropLane id l false
  else if retry then goTo s1 rp
  else
    let (pc, ws, leaves) := s1.advTarget w l rp t.word
    let s2 := goTo (s1.applyWrites w ws) pc
    if leaves then (let y := s2.warp w; s2.setWarp w { y with leaving := y.leaving ||| bit32 l }) else s2

/-- Members resumed past a warp-wide instruction sign its register with a false guard and go on (R371). -/
def State.signResumed (s : State) (w : Nat) (t : Trap) (pc : Word) (ls : Mask) : State :=
  let i := decode t.word
  match wideOpOf i with
  | none => s
  | some (op, h, k) =>
    let m := ls &&& s.regs.getCv w k
    if m = 0 || !(checkOf i).ok then s else signWide op i h w k pc t.word m 0 m s

/-- The handler's activation ends with its last lane: the next trap held enters (R415, R419). -/
def State.endActivation (s : State) (w : Nat) : State :=
  if (nmapFind s.warps w).isSome && (s.warp w).hmode = 0 then s.enterHandler w else s

/-- The lanes of M leave handler mode (R371, R422). -/
def State.leaveHandler (s : State) (w : Nat) (retry : Bool) (m : Mask) : State :=
  if m = 0 then s
  else
    let t := s.latchOf w
    let pc := s.resumePc w ((leadOf m).getD 0)
    let s1 := (lanesOf m).foldl (fun (u : State) l => u.leaveLane w t retry l) s
    let s2 := if !retry && t.cause ≠ .page then s1.signResumed w t pc m else s1
    (s2.takeTurns (s2.ops.map (·.1))).endActivation w

/-- RFT (R422): it waits for the lane's earlier instructions and pending replays, then the lanes of M leave. -/
def issueRft (h : Hdr) (f : RForm) (s : State) : State :=
  let c := s.cur
  let w := c.w
  let ck := checkOf (.rft h f)
  let rd (l : Nat) : Rd := { w := w, l := l, mask := c.mask, m := 0, pc := c.pc }
  let ready := s.readyLanes h ck .m w c.mask (s.laneBusy w)
  let rs := s.issueCauses h ck (fun l => privOutside s (rd l)) (fun _ => none) w ready
  let ok := ready &&& ~~~maskOf (rs.map (·.lane))
  let m := s.guardMask h w ok
  ((s.advance s h w c.pc m (ok &&& ~~~m)).leaveHandler w (f.sub.getLsbD 0) m).raise w c.pc c.word rs noRec none

def execRft (h : Hdr) (f : RForm) (s : State) : Out := .next (issueRft h f s)

/-- Trapped lanes that were held enter their handler, once no lane of the warp is in it and their earlier instructions have completed
(R415, R416). -/
def execTrapEntry (w : Nat) (s : State) : Out := .next (s.endActivation w)

/-! ## Exit -/

/-- Whether a lane's exit is due (R41): it is leaving, its long-latency instructions have completed, and no line that a job owns stands in the
way of the release of its automatic arrivals (R250, R281). -/
def State.exitDue (s : State) (w l : Nat) : Bool :=
  let x := s.warp w
  (nmapFind s.warps w).isSome && x.leaving.getLsbD l && x.live.getLsbD l
    && !s.ops.any (fun e => e.2.w = w && e.2.lanes.getLsbD l && !e.2.accepted)
    && !x.holds.any (fun t => t.lanes.getLsbD l) && ((s.autoDue w l).isEmpty || !s.releaseHeld (warpCid w) .card)

/-- The rounds in which every member has signed or exited and one has exited raise CVEXIT (R374): a resumed signer may be the one. -/
def State.endRounds (s : State) (w : Nat) : State :=
  (List.range 8).foldl (fun (t : State) k =>
    let g := t.sign w k
    let members := t.regs.getCv w k
    let live := (t.warp w).live
    if g.signed ≠ 0 && members &&& ~~~live ≠ 0 && members &&& ~~~g.signed &&& live = 0 && (nmapFind t.warps w).isSome then
      (t.raiseSigners w g .cvexit).setSign w k Sign.none
    else t) s

/-- A lane exits (R41): its automatic arrivals (R281), its pc and bit of %exited, the rounds it was awaited in (R374), its handler mode
(R419), and what the end of its warp and workgroup brings. -/
def execLaneExit (w l : Nat) (s : State) : Out :=
  .next (if !s.exitDue w l then s
    else
      let s1 := s.autoArrive w l
      let x := s1.warp w
      let s2 := { s1 with regs := s1.regs.setPc w l Config.exitedPc }.setWarp w
        { x with exited := x.exited ||| bit32 l, leaving := x.leaving &&& ~~~bit32 l, hmode := x.hmode &&& ~~~bit32 l }
      ((s2.endRounds w).endActivation w).settle)

/-- A job ends (R290): its status word is written as a release, which the core's lanes acquire; the end of its workgroup may be
due (R259, R339). -/
def execEngineJobCompletion (id : Nat) (s : State) : Out :=
  .next (match nmapFind s.jobs id with
    | none => s
    | some j =>
      if !j.started || !j.out.isEmpty then s
      else
        let s1 := { s with jobs := nmapErase s.jobs id }
        ((s1.endAccepted id (fun o => statusWrites o j.status)).acquireAt j.cid j.scope).settle)

/-- A cut-selection job is carried out and ends (R190 to R194); the end of its workgroup may be due (R259). -/
def execCutselJobEnd (id : Nat) (s : State) : Out := .next ((s.runCut id).settle)

end Sys2Proof.Machine
end

