-- ==== Sys2Proof/Machine/Sched.lean ====
section
/-! DEFINITION. The fetch that parks or traps, and the events of issue and time: rotation slots, aging, the end of YIELD and PAUSE, the wait
watchdog, walks, and L1 eviction (R33, R239, R365 to R369, R375 to R378, R393). -/

namespace Sys2Proof.Machine

/-! ## Fetch -/

/-- The lanes of the current set parked at a fetch that met a translation fault (R378, R399), once the warp has a record for them (R379). -/
def State.parkFetch (s : State) (va kind level : Nat) (e : BitVec 64) : State :=
  let c := s.cur
  let id := s.serial + 1
  let o : Op :=
    { w := c.w, pc := c.pc, word := 0, instr := .pageWalk (s.warp c.w).ctx va .fetch, lanes := c.mask, todo := c.mask, once := false, win := [],
      recs := (lanesOf c.mask).map (fun l => { noRec l with hm := s.inHandler c.w l }), writes := [], pend := [], waits := [], count := [],
      seq := id, resv := none, mark := none, mma := none, job := none, accepted := false, ord := {}, late := false,
      undo := [], susp := false, parked := (lanesOf c.mask).map (fun l => (l, (va, kind))) }
  if 15 ≤ s.parkedCount c.w then s
  else (({ s with serial := id }).setOp id o).addFault (s.warp c.w).ctx .lane va kind level e (s.whereOf c.w) id

/-- A cause raised at a fetch by every lane of the current set that no wait holds (R33, R392, R429). -/
def State.raiseFetch (s : State) (c : Cause) (sub : Nat) (addr : BitVec 64) : State :=
  let ls := (lanesOf s.cur.mask).filter (fun l => !s.laneBlocked s.cur.w l)
  s.raise s.cur.w s.cur.pc 0 (ls.map (fun l => ⟨l, c, sub, addr⟩)) noRec none

/-- A fetch beyond the code segment (R33): PROT, with the pc as fault address. -/
def execFetchBeyondCodeSegment (s : State) : Out :=
  .next (if (s.wgOf s.cur.w).launch.codelen ≤ s.cur.pc.toNat then s.raiseFetch .prot 0 (BitVec.ofNat 64 s.cur.pc.toNat) else s)

/-! ## Slots -/

/-- A rotation slot of a warp (R365, R368): the lane set above the mark is selected first. -/
def execRotationSlot (w : Nat) (s : State) : Out :=
  .next (if (nmapFind s.warps w).isSome && rotationDue (s.warp w) && s.cur.mask = 0 then s.takeSlot State.nextWaits w true else s)

/-- A ready warp that has not been selected for 64 cc becomes aged, unless it is demoted (R367, R369). -/
def execWarpAged (w : Nat) (s : State) : Out :=
  .next (if (nmapFind s.warps w).isSome && agedDue (s.warp w) && s.ready State.nextWaits w then s.setWarp w { s.warp w with aged := true } else s)

/-- The 16 cc after a YIELD are over (R368). -/
def execYieldPeriodEnd (w : Nat) (s : State) : Out :=
  .next (if (nmapFind s.warps w).isSome && (s.warp w).yieldLeft = 1 then s.setWarp w { s.warp w with yieldLeft := 0 } else s)

/-- The 256 cc after a PAUSE are over (R369); a selection and a memory event end the demotion where they happen. -/
def execDemotionEnd (w : Nat) (s : State) : Out :=
  .next (if (nmapFind s.warps w).isSome && (s.warp w).demotedLeft = 1 then s.setWarp w { s.warp w with demotedLeft := 0 } else s)

/-! ## The wait watchdog -/

/-- A wait that has gone on too long: its lane, pc, wait code and wait object (R376, R426). -/
structure Overdue where
  lane : Nat
  pc : Word
  code : Nat
  obj : Nat
  deriving DecidableEq, Repr

/-- The counted waits of a warp's lanes whose count exceeds %wdog, in ascending lane order (R376, R377). A part of a fill held at its slice
counts for every live lane of the member (DEDUCED, log entry 83). -/
def State.overdue (s : State) (w : Nat) : List Overdue :=
  let x := s.warp w
  let late (n : Nat) : Bool := decide (x.wdog.toNat < n)
  let signs (l : Nat) : List Overdue := (List.range 8).filterMap (fun k =>
    let g := s.sign w k
    if g.signed.getLsbD l && !g.passed.getLsbD l && !s.allSigned w k && late (dmapGet 0 g.count l) then some ⟨l, g.pc, 2, k⟩ else none)
  let cvs (l : Nat) : List Overdue := match nmapFind x.cvsetWait l with
    | some (k, n) => if late n && s.cvWaiters w k then [⟨l, s.regs.getPc w l, 2, k⟩] else []
    | none => []
  let held : Option Nat := s.holds.findSome? (fun e => match nmapFind s.groups (groupKey e.2.ctx e.2.gid) with
    | none => none
    | some g => match g.memberOf x.wg (warpCid w) with
      | none => none
      | some m => if e.2.ctx = x.ctx && late (dmapGet 0 e.2.count m.rank) then
          (e.2.held.find? (fun p => p.1 = m.rank)).map (fun p => granuleName (g.base + e.2.ofs + 16 * p.2)) else none)
  let fills (l : Nat) : List Overdue := match held with
    | some a => if x.live.getLsbD l then [⟨l, s.regs.getPc w l, 1, a⟩] else []
    | none => []
  let ops (l : Nat) : List Overdue := s.ops.filterMap (fun e =>
    if e.2.w = w && (countedLanes e.2).contains l && late (dmapGet 0 e.2.count l) then
      (opWaitCode e.2 l).map (fun r => ⟨l, e.2.pc, r.1, r.2⟩)
    else none)
  if x.wdog = 0 then [] else (List.range 32).filterMap (fun l => (signs l ++ cvs l ++ ops l ++ fills l).head?)

/-- The waiting instructions of a warp look again, so that a wait whose end has come ends (R377). -/
def State.endWaits (s : State) (w : Nat) : State :=
  let s1 := (s.ops.filter (fun e => e.2.w = w && !(countedLanes e.2).isEmpty)).foldl (fun (t : State) e =>
    (t.tryAgain e.1 (match nmapFind t.ops e.1 with | some o => waitingLanes o | none => [])).completeOp e.1) s
  (s1.holds.filter (fun e => e.2.ctx = (s.warp w).ctx)).foldl (fun (t : State) e => t.landReady e.1) s1

/-- The overdue waits of some warps as the capture records them (R455): by warp × 32 + lane. -/
def State.endedWaits (s : State) (ws : List Nat) : NMap (Word × Nat × Nat) :=
  ws.foldl (fun (m : NMap (Word × Nat × Nat)) w => (s.overdue w).foldl (fun m o => nmapSet m (laneKey w o.lane) (o.pc, o.code, o.obj)) m) []

/-- The watchdog fires (R377, R424): of the warps of the context with a lane over its count, the capture names the one
of the lowest WHERE; each overdue lane is recorded in its overdue wait (R455). -/
def execWaitWatchdogFire (w : Nat) (s : State) : Out :=
  let s1 := s.endWaits w
  let c := (s1.warp w).ctx
  let due := (s1.warps.filter (fun e => e.2.ctx = c && !(s1.overdue e.1).isEmpty)).map (·.1)
  .next (if (nmapFind s1.warps w).isNone || (s1.overdue w).isEmpty then s1
    else match sortBy (fun a b => decide (s1.whereOf a < s1.whereOf b)) due with
      | [] => s1
      | v :: _ => match s1.overdue v with
        | [] => s1
        | o :: rest =>
          let mask (u : Nat) : Mask := maskOf ((s1.overdue u).map (·.lane))
          s1.fatalEnd c
            { w := v, lanes := mask v, pc := o.pc, cause := Cause.waitto.code, sub := o.code, faddr := 0,
              flags := if (o :: rest).any (fun q => s1.inHandler v q.lane) then 1 else 0,
              fmasks := due.foldl (fun (m : NMap Mask) u => nmapSet m u (mask u)) [], ended := s1.endedWaits due })

/-! ## Walks and eviction -/

/-- A walk completes and its leaf is cached (R393, R397); a fault is met again by the access that needs the page (R399). -/
def execPageWalk (c va : Nat) (acc : AccKind) (s : State) : Out :=
  .next (if s.ctxLive c && (s.ctx c).phase = .running then
      match s.translate c va acc with
      | (s1, .secv) => s1.fatalEnd c (agentFatal Cause.secv.code 0 0 0)
      | (s1, _) => s1
    else s)

/-- A line leaves a core's L1: its written bytes are merged at the home (R239), once no job owns it (R250). -/
def execL1Eviction (cid line : Nat) (s : State) : Out :=
  let lo := 128 * line
  let s1 := s.writeBackRange cid lo (lo + 128)
  .next (if s.dirtyOwned cid lo (lo + 128) then s else { s1 with mem := { s1.mem with l1 := nmapClear s1.mem.l1 (l1Key cid lo) (l1Key cid (lo + 128)) } })

end Sys2Proof.Machine
end

