-- ==== Sys2Proof/Machine/Context.lean ====
section
/-! DEFINITION. Contexts and their pre-emption, invalidation, fault records and their answers (R378 to R400, R403, R405, R423, R439). -/

namespace Sys2Proof.Machine

/-- Whether the card takes context and queue writes (R436). -/
def State.isReady (s : State) : Bool := s.card.stage = 5

/-- Whether the card's registers beside BOOTSTAT are there (R435): no image is being verified and none was refused. -/
def State.exposed (s : State) : Bool :=
  let c := s.card
  decide (2 ≤ c.stage) && !(c.stage = 15 && decide (c.fail ≤ 5))

/-! ## Fault records -/

/-- Whether a parked access lies on the page of a fault and met the same KIND (R399). -/
def FaultRec.hits (f : FaultRec) (va kind : Nat) : Bool := f.va / 4096 = va / 4096 && f.kind = kind

/-- The outstanding instructions of a context, on the cores or saved (R385). -/
def State.ctxOps (s : State) (c : Nat) : List Op :=
  ((s.ops.filter (fun e => (s.warp e.2.w).ctx = c)).map (·.2))
    ++ (match nmapFind s.saved (ctxSlot c) with | some v => v.ops.map (·.2) | none => [])

/-- The parked lanes of the first instruction that parked on a fault (R399); of a fault already answered, those at its answer. -/
def State.faultLanes (s : State) (f : FaultRec) : Mask :=
  if f.agent ≠ .lane || f.done then f.lanes
  else match (s.ctxOps f.ctx).find? (fun o => o.seq = f.op) with
    | some o => maskOf ((o.parked.filter (fun p => f.hits p.2.1 (p.2.2 % failedKind))).map (·.1))
    | none => f.lanes

/-- The bytes of a fault record (R399). -/
def faultBytes (f : FaultRec) : List Byte :=
  let agent : Nat := match f.agent with | .lane => 0 | .job => 1 | .cut => 2 | .queue => 3
  n32 f.serial.toNat ++ n32 (f.ctx + f.kind * 2 ^ 12 + f.level * 2 ^ 16 + agent * 2 ^ 19) ++ n64 f.va ++ n64 f.entry.toNat
    ++ n32 f.ptag.toNat ++ n32 f.loc ++ n32 f.lanes.toNat ++ List.replicate 28 0

/-- Whether the fault buffer takes a record (R399). -/
def State.faultRoom (s : State) : Bool :=
  s.card.fbctl.getLsbD 31 && decide ((s.card.fbhead - s.card.fbtail).toNat < 2 ^ (s.card.fbctl.extractLsb' 0 5).toNat)

/-- The first record that waits is written once the buffer has room, and the head advances (R399); one that has been answered is outstanding no
longer (R400). -/
def execFaultRecordWrite (s : State) : Out :=
  let c := s.card
  .next (match s.faults.find? (fun f => !f.written) with
    | none => s
    | some f =>
      if !s.faultRoom then s
      else
        let g := { f with serial := c.fbserial, written := true, lanes := s.faultLanes f, ptag := (s.ctx f.ctx).ptag }
        let s1 := s.writeHost (c.fbbase.toNat + 64 * (c.fbhead.toNat % 2 ^ (c.fbctl.extractLsb' 0 5).toNat)) (faultBytes g)
        let before := s.faults.takeWhile (fun q => q.written)
        { s1 with
          faults := before ++ (if f.done then [] else [g]) ++ s.faults.drop (before.length + 1)
          card := { c with fbhead := c.fbhead + 1, fbserial := c.fbserial + 1, msix := setBit16 c.msix 0 true } })

/-- An FBTAIL write (R399). -/
def execFaultBufferTail (v : Word) (s : State) : Out :=
  .next (if s.exposed then { s with card := { s.card with fbtail := v } } else s)

/-! ## Replies -/

/-- The faults that a reply answers are outstanding no longer; one whose record waits to be written still waits (R399, R400). -/
def State.endFaults (s : State) (fs : List FaultRec) : State :=
  { s with faults := s.faults.filterMap (fun f =>
      if !fs.contains f then some f else if f.written then none else some { f with lanes := s.faultLanes f, done := true }) }

/-- The faults answered are walked again, or fail (R400): parked parts, jobs, cuts, admissions, queues and graphs of the context. The access
of a rasteriser is walked again either way (log entry 85). -/
def State.answer (s : State) (c : Nat) (fail : Bool) (fs : List FaultRec) : State :=
  let hit (va kind : Nat) : Bool := fs.any (fun f => f.hits va kind)
  let on (f : Option (Nat × Nat)) : Bool := match f with | some (va, kind) => hit va kind | none => false
  let s0 := s.endFaults fs
  let mine (o : Op) : List Nat :=
    if (s.warp o.w).ctx = c then (o.parked.filter (fun p => decide (p.2.2 < failedKind) && hit p.2.1 p.2.2)).map (·.1) else []
  let s1 := s.ops.foldl (fun (t : State) e => match mine e.2 with
    | [] => t
    | ls => if fail then t.failOp e.1 ls else t.modOp e.1 (fun o => setParked o ls (fun k => 2 * failedKind + k))) s0
  let s2 := s1.takeTurns (s.ops.map (·.1))
  let s3 := s.jobs.foldl (fun (t : State) e => if e.2.ctx = c && on e.2.fault then t.replyJob fail e.1 else t) s2
  let s4 := s.cuts.foldl (fun (t : State) e => if e.2.ctx = c && on e.2.fault then t.replyCut fail e.1 else t) s3
  let s5 := s.adms.foldl (fun (t : State) e => if e.2.ctx = c && on e.2.fault then t.replyAdm fail e.1 else t) s4
  let s6 := s.queues.foldl (fun (t : State) e => if e.2.ctx = c && on e.2.fault then t.replyQueue fail e.1 else t) s5
  let gs := s.graphs.filter (fun e => e.2.ctx = c)
  let s7 := gs.foldl (fun (t : State) e =>
    { t with graphs := nmapModify t.graphs e.1 (fun (g : Graph) => { g with stall := g.stall.filter (fun x => !hit x.2.1 x.2.2) }) }) s6
  (gs.foldl (fun (t : State) e => if on e.2.tokWait then t.replyToken fail e.1 else t) s7).retake.settle

/-- A REPLAY write (R400): it answers the outstanding faults it names; for a context that is not resident it is held. -/
def State.replyTo (s : State) (v : BitVec 64) : State :=
  let c := (v.extractLsb' 32 12).toNat
  match s.faults.filter (fun f => f.ctx = c && !f.done && (v.getLsbD 45 || (f.written && f.serial = v.extractLsb' 0 32))) with
  | [] => s
  | fs =>
    let x := s.ctx c
    if x.phase = .running then s.answer c (v.getLsbD 44) fs
    else if x.phase = .saved || x.phase = .halting then s.setCtx c { x with replies := x.replies ++ [v] }
    else s

/-- REPLAY with FAIL 0 (R400). -/
def execReplayRetry (v : BitVec 64) (s : State) : Out := .next (if v.getLsbD 44 then s else s.replyTo v)

/-- REPLAY with FAIL 1 (R400). -/
def execReplayFail (v : BitVec 64) (s : State) : Out := .next (if v.getLsbD 44 then s.replyTo v else s)

/-! ## Invalidation -/

/-- Whether an invalidation covers some of the pages of a range of a context (R398). -/
def invCovers (iva inum ictx : Nat) (ctx va size : Nat) : Bool :=
  ctx = ictx && (inum = 0 || (decide (iva < va + size) && decide (va < iva + 4096 * inum)))

/-- An IGO write (R398): it starts with the registers as they stand; a promotion triggered through a page covered is abandoned (R402). -/
def execInvalidationStart (serial : Word) (s : State) : Out :=
  let c := s.card
  let hit (p : Promo) : Bool := invCovers c.iva.toNat c.inum.toNat c.ictx.toNat p.ctx p.page 4096
  let regs := (s.mem.promos.filter hit).foldl (fun (m : NMap StackRegs) p =>
    let r := (nmapFind m p.stack).getD StackRegs.reset
    nmapSet m p.stack { r with promabort := satInc r.promabort }) s.stackRegs
  .next (if !s.isReady then s
    else { s with
      stackRegs := regs
      mem := { s.mem with promos := s.mem.promos.filter (fun p => !hit p) }
      card := { c with igo := c.igo ++ [(serial, c.iva.toNat, c.inum.toNat, c.ictx.toNat)] } })

/-- The jobs and hold records of the card, those of saved contexts with them. -/
def State.allJobs (s : State) : List Job := s.jobs.map (·.2) ++ s.saved.flatMap (fun e => e.2.jobs.map (·.2))

def State.allHolds (s : State) : List HoldRec := s.holds.map (·.2) ++ s.saved.flatMap (fun e => e.2.holds.map (·.2))

/-- Whether a hold record has still to read a line in the range of an invalidation (R286, R398). -/
def HoldRec.unread (r : HoldRec) (iva inum ictx : Nat) : Bool := r.fill.isNone && invCovers iva inum ictx r.ctx r.ea 128

/-- An unread hold record's line translated again with the entries as they now stand (R398). -/
def State.rewalk (s : State) (r : HoldRec) : Option HoldRec :=
  match s.walk r.ctx r.ea .read with
  | .leaf size e =>
    some { r with pa := (if e.getLsbD 6 then 2 ^ 60 else 0) + (e.extractLsb' 12 48).toNat * 4096 + r.ea % size }
  | _ => none

/-- Hold records with the unread ones of a range translated again. -/
def State.rewalkHolds (s : State) (iva inum ictx : Nat) (m : NMap HoldRec) : NMap HoldRec :=
  m.map (fun (e : Nat × HoldRec) => (e.1, if e.2.unread iva inum ictx then (s.rewalk e.2).getD e.2 else e.2))

/-- The oldest invalidation completes once what was translated before it has been performed: the caches drop its entries, and IDONE
shows its serial (R398). A multicast line not yet read is translated again; where that fails, the invalidation waits for its read. -/
def execInvalidationComplete (s : State) : Out :=
  .next (match s.card.igo with
    | [] => s
    | (serial, iva, inum, ictx) :: rest =>
      if s.allJobs.any (fun j => j.ctx = ictx && (!j.out.isEmpty || !j.redo.isEmpty))
          || s.allHolds.any (fun r => r.unread iva inum ictx && (s.rewalk r).isNone) then s
      else State.retake { s with
        holds := s.rewalkHolds iva inum ictx s.holds
        saved := s.saved.map (fun (e : Nat × Saved) => (e.1, { e.2 with holds := s.rewalkHolds iva inum ictx e.2.holds }))
        mem := { s.mem with tlb := s.mem.tlb.filter (fun t => !invCovers iva inum ictx t.ctx t.va t.size) }
        card := { s.card with igo := rest, idone := serial } })

/-! ## Pre-emption -/

/-- A finished request of the pre-emption block (R439): result, serial and vector 3. -/
def State.finishRequest (s : State) (v : Word) (result : Nat) : State :=
  let c := s.card
  let x := (c.prstat.extractLsb' 16 16).toNat + 1
  { s with card := { c with
      prqueue := c.prqueue.tail
      prstat := BitVec.ofNat 32 ((v &&& 0x13F#32).toNat + result * 2 ^ 9 + x % 2 ^ 16 * 2 ^ 16)
      msix := setBit16 c.msix 3 true } }

/-- Whether a save area lies wholly in secure regions (R390, R391). -/
def State.saveSecure (s : State) (x : Ctx) : Bool :=
  let lo := x.savebase.toNat / 2 ^ 21
  let hi := (x.savebase.toNat + x.savelen.toNat * 2 ^ 20 + 2 ^ 21 - 1) / 2 ^ 21
  decide ((nmapRange s.worlds.gddr lo hi).length = hi - lo)

/-- The parts of a context's workgroups on the cores. -/
def partsOf (wgs : NMap Wg) : List WgCore := wgs.flatMap (fun e => e.2.cores)

/-- What a saved workgroup part held is still free where it stood (R339, R357, R405). -/
def State.partFree (s : State) (g : Wg) (k : WgCore) : Bool :=
  let ps := s.partsOn k.cid
  let runs (f : WgCore → Nat × Nat) : List (Nat × Nat) := ps.map (fun e => f e.2)
  let (vs, ss) := s.regsHeld ps
  let live := match nmapFind s.saved (ctxSlot g.ctx) with
    | some v => k.nwarp - ((nmapRange v.warps (k.cid * 64 + k.slot0) (k.cid * 64 + k.slot0 + k.nwarp)).filter (fun e => e.2.live = 0)).length
    | none => k.nwarp
  decide (vs + live * 32 * g.nv ≤ 131072) && decide (ss + live * g.ns ≤ 16384)
    && runClear (runs (fun c => (c.slot0, c.nwarp))) k.slot0 k.nwarp
    && (k.ssize = 0 || runClear (runs (fun c => (c.sbase, c.ssize))) k.sbase k.ssize)
    && (k.lsize = 0 || runClear (runs (fun c => (c.loftb, (c.lsize + 1023) / 1024))) k.loftb ((k.lsize + 1023) / 1024))
    && (k.accn = 0 || runClear (runs (fun c => (c.acc0, c.accn))) k.acc0 k.accn)
    && (k.csize = 0 || runClear (runs (fun c => (c.cbase, c.csize)) ++ s.stuckCols k.cid g.ctx) k.cbase k.csize)
    && s.coreServes k.cid g.ctx

/-- Whether a saved context can go on where it was halted (R357, R405), on cores of its world (R392), with room for its link entries (R21). -/
def State.canResume (s : State) (v : Saved) : Bool :=
  v.wgs.all (fun e => e.2.cores.all (fun k => s.partFree e.2 k))
    && v.links.all (fun e => decide (e.2.length + (s.linkQ e.1).length + (s.flightQ e.1).length ≤ 32))

/-- The entries of a register store that belong to some warps, with `k` keys for each. -/
def warpKeys {α : Type} (mine : Nat → Bool) (k : Nat) (m : NMap α) : NMap α := m.filter (fun e => mine (e.1 / k))

/-- The registers of some warps. -/
def RegFile.ofWarps (r : RegFile) (mine : Nat → Bool) : RegFile :=
  { v := warpKeys mine 8192 r.v, p := warpKeys mine 32 r.p, bt := warpKeys mine 256 r.bt, lc := warpKeys mine 128 r.lc,
    lk := warpKeys mine 32 r.lk, pc := warpKeys mine 32 r.pc, rng := warpKeys mine 32 r.rng, s := warpKeys mine 1024 r.s,
    cv := warpKeys mine 8 r.cv, hv := warpKeys mine 1024 r.hv, hs := warpKeys mine 64 r.hs }

/-- Registers put over others. -/
def RegFile.overlay (r q : RegFile) : RegFile :=
  { v := nmapMerge r.v q.v, p := nmapMerge r.p q.p, bt := nmapMerge r.bt q.bt, lc := nmapMerge r.lc q.lc, lk := nmapMerge r.lk q.lk,
    pc := nmapMerge r.pc q.pc, rng := nmapMerge r.rng q.rng, s := nmapMerge r.s q.s, cv := nmapMerge r.cv q.cv,
    hv := nmapMerge r.hv q.hv, hs := nmapMerge r.hs q.hs }

/-- The runs of a store's keys that the parts of a context cover: `f` gives the first key and the number. -/
def partRuns {α : Type} (ps : List WgCore) (f : WgCore → Nat × Nat) (m : NMap α) : NMap α :=
  ps.foldl (fun (a : NMap α) k => nmapMerge a (nmapRange m (f k).1 ((f k).1 + (f k).2))) []

/-- The same runs taken out of a store. -/
def dropRuns {α : Type} (ps : List WgCore) (f : WgCore → Nat × Nat) (m : NMap α) : NMap α :=
  ps.foldl (fun (a : NMap α) k => nmapClear a (f k).1 ((f k).1 + (f k).2)) m

def scratchRun (k : WgCore) : Nat × Nat := (k.cid * 2 ^ 20 + 256 * k.sbase, 256 * k.ssize)

def feRun (k : WgCore) : Nat × Nat := (k.cid * 2 ^ 16 + 16 * k.sbase, 16 * k.ssize)

def loftRun (k : WgCore) : Nat × Nat := (k.cid * 2 ^ 18 + 1024 * k.loftb, (k.lsize + 1023) / 1024 * 1024)

def accRun (k : WgCore) : Nat × Nat := ((k.cid * 32 + k.acc0) * 2048, 2048 * k.accn)

/-- The link entries of some workgroups (R303). -/
def linksOnly (m : NMap (List LinkEntry)) (wgs : List Nat) : NMap (List LinkEntry) :=
  (m.map (fun (e : Nat × List LinkEntry) => (e.1, e.2.filter (fun x => wgs.contains x.wg)))).filter (fun e => !e.2.isEmpty)

/-- Whether a poison mark lies on registers of some warps or in the stores of some parts (R427, R429). -/
def poisonOf (mine : Nat → Bool) (ps : List WgCore) (k : Nat) : Bool :=
  let u := k % 2 ^ 60
  let inRun (r : Nat × Nat) (base unit : Nat) : Bool := decide (base + r.1 / unit ≤ u) && decide (u < base + (r.1 + r.2) / unit)
  if k / 2 ^ 60 = 1 then
    (if u < 2 ^ 40 then mine (u / 8192) else if u < 2 ^ 41 then mine ((u - 2 ^ 40) / 1024)
     else if u < 2 ^ 42 then mine ((u - 2 ^ 41) / 1024) else mine ((u - 2 ^ 42) / 64))
  else if k / 2 ^ 60 = 2 then ps.any (fun p => inRun (scratchRun p) 0 16)
  else if k / 2 ^ 60 = 5 then ps.any (fun p => inRun (loftRun p) 0 16 || inRun (4 * (accRun p).1, 4 * (accRun p).2) (2 ^ 36) 16)
  else false

/-- The queries that the ray engine holds of an instruction answered (R228, R384). -/
def State.answerQueries (s : State) (id : Nat) : State :=
  match nmapFind s.ops id with
  | none => s
  | some o => ((List.range 32).filter (fun l => queryHeld o l && partOpen { o with accepted := false, mark := none } l)).foldl
      (fun (t : State) l => (t.tryAgain id [l]).endQuery id l) s

/-- A context's outstanding work brought to a boundary (R384): engine jobs are abandoned, matrix instructions that have executed and other
long-latency instructions complete, fills and link entries land; what waits stays recorded (R385). -/
def State.quiesce (s : State) (c : Nat) : State :=
  let mine (o : Op) : Bool := (s.warp o.w).ctx = c
  let s1 := s.jobs.foldl (fun (t : State) e => if e.2.ctx = c then t.abandonJob e.1 else t) s
  let s2 := s.cuts.foldl (fun (t : State) e => if e.2.ctx = c then t.abandonCut e.1 else t) s1
  let s3 := s.ops.foldl (fun (t : State) e =>
    if !mine e.2 then t
    else match e.2.mma with
      | some m =>
        let u := t.mmaWrite m
        let u := { u with cores := { u.cores with running := u.cores.running.filter (fun (r : Nat × Nat) => r.2 ≠ e.1),
                                                  slices := u.cores.slices.map (fun (r : Nat × List Nat) => (r.1, r.2.filter (fun x => x ≠ e.1))) } }
        (u.modOp e.1 (fun o => { o with todo := 0 })).completeOp e.1
      | none =>
        let u := (if e.2.accepted then t else t.tryAgain e.1 (waitingLanes e.2)).answerQueries e.1
        if e.2.accepted then u else u.completeOp e.1) s2
  let s4 := s.holds.foldl (fun (t : State) e =>
    if e.2.ctx ≠ c then t
    else match execMulticastHeldPartLand e.1 t with | .next u => u | _ => t) s3
  let cids := dedupNat ((s.warps.filter (fun e => e.2.ctx = c)).map (fun e => warpCid e.1))
  cids.foldl (fun (t : State) cid =>
    let u := (List.range 4).foldl (fun (t : State) d =>
      (t.flightQ (cid * 4 + d)).foldl (fun (t : State) _ => match execNeighbourEntryArrival cid d t with | .next u => u | _ => t) t) t
    u.writeBackAll cid) s4

/-- `16 * n` bytes of a save area at most, written from a physical address on; the rule does not lay them out, so they are free values
(R390, log entry 55). -/
def State.putImage (s : State) (pa n : Nat) : State :=
  { s.writeLong pa n ((Config.saveImage s.free).take (16 * n)) with free := s.free + 1 }

/-- The places of a save area written (R390): 4 MiB for each core where the context stands, and 64 MiB for its context-wide state. -/
def State.writeSave (s : State) (c : Nat) : State :=
  let base := s.cardNo * 2 ^ 50 + (s.ctx c).savebase.toNat
  let cids := dedupNat ((partsOf (s.wgs.filter (fun e => e.2.ctx = c))).map (·.cid))
  let s1 := cids.foldl (fun (t : State) k => t.putImage (base + 2 ^ 22 * k) (2 ^ 18)) s
  s1.putImage (base + 768 * 2 ^ 20) (2 ^ 22)

/-- The state of a halted context moved out of the cores, its save area written and the digest of it kept (R386, R390). Owner tags
stay (R403). -/
def State.saveCtx (s0 : State) (c : Nat) : State :=
  let s := s0.writeSave c
  let mine (w : Nat) : Bool := (nmapFind s.warps w).isSome && (s.warp w).ctx = c
  let wgs := s.wgs.filter (fun e => e.2.ctx = c)
  let ps := partsOf wgs
  let k := s.cores
  let v : Saved :=
    { warps := s.warps.filter (fun e => e.2.ctx = c)
      regs := s.regs.ofWarps mine
      signs := (s.signs.filter (fun e => mine (e.1 / 8))).map (fun (e : Nat × Sign) =>
        (e.1, { e.2 with susp := e.2.susp || decide (e.2.waiting ≠ 0) }))
      scratch := partRuns ps scratchRun k.scratch
      fe := partRuns ps feRun k.fe
      loft := partRuns ps loftRun k.loft
      acc := partRuns ps accRun k.acc
      links := linksOnly k.links (wgs.map (·.1))
      reorder := (k.reorder.map (fun e => (e.1, e.2.filter (fun r => r.ctx = c)))).filter (fun e => !e.2.isEmpty)
      ops := (s.ops.filter (fun e => mine e.2.w)).map (fun (e : Nat × Op) =>
        (e.1, { e.2 with susp := e.2.susp || (decide (e.2.todo ≠ 0) && e.2.mma.isNone) }))
      wgs := wgs
      jobs := s.jobs.filter (fun e => e.2.ctx = c)
      cuts := s.cuts.filter (fun e => e.2.ctx = c)
      holds := s.holds.filter (fun e => e.2.ctx = c)
      adms := s.adms.filter (fun e => e.2.ctx = c)
      draining := s.draining.filter (fun d => (s.graphsOf c).contains d.1)
      poison := s.mem.poison.filter (fun e => poisonOf mine ps e.1)
      digest := Config.saveDigest (s.saveCells (s.ctx c)) }
  { s with
    saved := nmapSet s.saved (ctxSlot c) v
    cur := if mine s.cur.w then Cur.none else s.cur
    warps := s.warps.filter (fun e => e.2.ctx ≠ c)
    regs := s.regs.ofWarps (fun w => !mine w)
    signs := s.signs.filter (fun e => !mine (e.1 / 8))
    ops := s.ops.filter (fun e => !mine e.2.w)
    wgs := s.wgs.filter (fun e => e.2.ctx ≠ c)
    jobs := s.jobs.filter (fun e => e.2.ctx ≠ c)
    cuts := s.cuts.filter (fun e => e.2.ctx ≠ c)
    holds := s.holds.filter (fun e => e.2.ctx ≠ c)
    adms := s.adms.filter (fun e => e.2.ctx ≠ c)
    draining := s.draining.filter (fun d => !(s.graphsOf c).contains d.1)
    cores := { k with
      links := linksWithout k.links (wgs.map (·.1))
      reorder := k.reorder.map (fun e => (e.1, e.2.filter (fun r => r.ctx ≠ c))) } }

/-- The column units of a part back in place (R405): one that another context has held since takes the bytes that were swapped out. -/
def State.restoreColumn (s : State) (c : Nat) (k : WgCore) : State :=
  (List.range k.csize).foldl (fun (t : State) u => t.giveColumn k.cid (k.cbase + u) c) s

/-- Owner tags taken again by a part (R403). -/
def State.retag (s : State) (c : Nat) (k : WgCore) : State :=
  let m := s.cores
  { s with cores := { m with
      tagScratch := tagRun m.tagScratch (k.cid * 4096 + k.sbase) k.ssize c
      tagLoft := tagRun m.tagLoft (k.cid * 256 + k.loftb) ((k.lsize + 1023) / 1024) c
      tagAcc := tagRun m.tagAcc (k.cid * 32 + k.acc0) k.accn c
      tagSlot := tagRun m.tagSlot (k.cid * 64 + k.slot0) k.nwarp c
      tagCol := tagRun m.tagCol (k.cid * 512 + k.cbase) k.csize c } }

/-- Everything saved restored bit for bit on the cores where the context was halted (R387); reorder timers start again (R230). -/
def State.restoreCtx (s : State) (c : Nat) (v : Saved) : State :=
  let ps := partsOf v.wgs
  let k := s.cores
  let put {α : Type} (f : WgCore → Nat × Nat) (m n : NMap α) : NMap α := nmapMerge (dropRuns ps f m) n
  let slots := ps.flatMap (fun p => (List.range p.nwarp).map (fun i => p.cid * 64 + p.slot0 + i))
  let s1 := { s with
    saved := nmapErase s.saved (ctxSlot c)
    warps := nmapMerge s.warps v.warps
    regs := (slots.foldl (fun (r : RegFile) w => r.clearWarp w) s.regs).overlay v.regs
    signs := nmapMerge s.signs v.signs
    ops := nmapMerge s.ops v.ops
    wgs := nmapMerge s.wgs v.wgs
    jobs := nmapMerge s.jobs v.jobs
    cuts := nmapMerge s.cuts v.cuts
    holds := nmapMerge s.holds v.holds
    adms := nmapMerge s.adms v.adms
    draining := s.draining ++ v.draining
    mem := { s.mem with poison := nmapMerge (s.mem.poison.filter (fun e => !poisonOf slots.contains ps e.1)) v.poison }
    cores := { k with
      scratch := put scratchRun k.scratch v.scratch
      fe := put feRun k.fe v.fe
      loft := put loftRun k.loft v.loft
      acc := put accRun k.acc v.acc
      links := v.links.foldl (fun (m : NMap (List LinkEntry)) e => nmapSet m e.1 (e.2 ++ dmapGet [] m e.1)) k.links
      reorder := v.reorder.foldl (fun (m : NMap (List ReEntry)) e => nmapSet m e.1 (dmapGet [] m e.1 ++ e.2)) k.reorder
      reTimer := v.reorder.foldl (fun (m : NMap Nat) e => nmapSet m e.1 (s.cyclesOf e.1)) k.reTimer } }
  let s2 := ps.foldl (fun (t : State) p => (t.restoreColumn c p).retag c p) s1
  ps.foldl (fun (t : State) p => t.acquireAt p.cid .card) s2

/-- The engines take up a resumed context's jobs and cuts again from their descriptors (R194, R253, R297). -/
def State.restartJobs (s : State) (v : Saved) : State :=
  v.cuts.foldl (fun (t : State) e => t.startCut e.1) (v.jobs.foldl (fun (t : State) e => t.startJob e.1) s)

/-- A saved context goes on (R387): a digest that does not match ends it (R390); replies that were held are applied (R400). -/
def State.resumeCtx (s : State) (c : Nat) (v : Saved) : State :=
  let x := s.ctx c
  if Config.saveDigest (s.saveCells x) ≠ v.digest then
    { s with saved := nmapErase s.saved (ctxSlot c) }.fatalEnd c (agentFatal 0 0 4 0)
  else
    let s1 := (s.restoreCtx c v).setCtx c { x with phase := .running, replies := [] }
    let s2 := x.replies.foldl (fun (t : State) r => t.replyTo r) (s1.restartJobs v)
    s2.settle.yardmaster

/-- The requests of the pre-emption block served in order, until one has to wait (R384, R390, R439). -/
def State.serve (s : State) (fuel : Nat) : State :=
  match fuel with
  | 0 => s
  | n + 1 =>
    match s.card.prqueue with
    | [] => s
    | v :: _ =>
      let slot := (v.extractLsb' 0 6).toNat
      let x := (nmapFind s.ctxs slot).getD Ctx.reset
      let c := ctxIdOf slot x
      if !v.getLsbD 8 then
        if !x.live then State.serve (s.finishRequest v 3) n
        else if x.phase = .halting then s
        else if x.phase ≠ .running then State.serve (s.finishRequest v 3) n
        else if x.savelen.toNat < 832 then State.serve (s.finishRequest v 1) n
        else if x.secure && !s.saveSecure x then State.serve (s.finishRequest v 2) n
        else { s with warps := s.warps.map (fun (e : Nat × Warp) => if e.2.ctx = c then (e.1, { e.2 with halted := true }) else e) }.setCtx c { x with phase := .halting }
      else
        match if x.live && x.phase = .saved then nmapFind s.saved slot else none with
        | none => State.serve (s.finishRequest v 3) n
        | some sv =>
          if !s.canResume sv then s
          else
            let t := s.resumeCtx c sv
            State.serve (t.finishRequest v (if (t.ctx c).phase = .running then 0 else 3)) n

/-- A PRQ write queued, or dropped and counted when 64 requests wait (R439). -/
def State.request2 (s : State) (v : Word) : State :=
  let c := s.card
  if !s.exposed then s
  else if 64 ≤ c.prqueue.length then { s with card := { c with prdrop := c.prdrop + 1 } }
  else { s with card := { c with prqueue := c.prqueue ++ [v &&& 0x13F#32] } }.serve 65

/-- A PRQ write that asks for a pre-emption (R439). -/
def execPreemptRequest (v : Word) (s : State) : Out := .next (if v.getLsbD 8 then s else s.request2 v)

/-- A PRQ write that asks for a resumption (R439). -/
def execResumeRequest (v : Word) (s : State) : Out := .next (if v.getLsbD 8 then s.request2 v else s)

/-- Whether a job of another context owns a line of which a core where a context stands holds written bytes: the halt waits for it (R250,
R384). -/
def State.haltHeld (s : State) (c : Nat) : Bool :=
  let t := { s with jobs := s.jobs.filter (fun e => e.2.ctx ≠ c), cuts := s.cuts.filter (fun e => e.2.ctx ≠ c) }
  (s.warps.filter (fun e => e.2.ctx = c)).any (fun e => t.dirtyOwned (warpCid e.1) 0 (2 ^ 52))

/-- The last lane of a context is halted and its state saved (R384, R386), and the request is finished. -/
def execPreemptHalt (c : Nat) (s : State) : Out :=
  let x := (nmapFind s.ctxs c).getD Ctx.reset
  let id := ctxIdOf c x
  .next (if 64 ≤ c || x.phase ≠ .halting || s.haltHeld id then s
    else
      let s1 := s.quiesce id
      let y := s1.ctx id
      if y.phase ≠ .halting then s1
      else
        let s2 := { s1 with warps := s1.warps.map (fun (e : Nat × Warp) => if e.2.ctx = id then (e.1, { e.2 with halted := false }) else e) }
        let s3 := (s2.saveCtx id).setCtx id { y with phase := .saved }
        match s3.card.prqueue with
        | [] => s3.settle.yardmaster
        | v :: _ => ((s3.finishRequest v 0).serve 65).settle.yardmaster)

/-! ## Contexts -/

/-- CTL written with VALID 1 (R388): from 0, and only when LIVE is 0, GEN steps and the context is live. -/
def execContextCreate (c : Nat) (v : Word) (s : State) : Out :=
  let x := (nmapFind s.ctxs c).getD Ctx.reset
  .next (if 64 ≤ c || !s.isReady || !v.getLsbD 0 || x.valid || x.live then s
    else
      let y : Ctx := { x with valid := true, live := true, gen := x.gen + 1, phase := .running, launchQ := [], replies := [], swapped := [] }
      { s with ctxs := nmapSet s.ctxs c y })

/-- CTL written with VALID 0 (R389): the context ends and its work is discarded. -/
def execContextEnd (c : Nat) (v : Word) (s : State) : Out :=
  let x := (nmapFind s.ctxs c).getD Ctx.reset
  let id := ctxIdOf c x
  .next (if 64 ≤ c || !s.isReady || v.getLsbD 0 || !x.valid then s
    else
      let t := if x.live && x.phase ≠ .ending then s.discard id else s
      let y := (nmapFind t.ctxs c).getD Ctx.reset
      let z : Ctx := { y with valid := false, phase := if x.live then .ending else y.phase, launchQ := [], replies := [] }
      { t with ctxs := nmapSet t.ctxs c z })

/-- Teardown is complete (R389): written bytes have reached their home, once no job owns their lines (R250), every owner tag of the context is off, and LIVE reads 0. The
request block and the yardmasters go on. -/
def execContextTeardownComplete (c : Nat) (s : State) : Out :=
  let x := (nmapFind s.ctxs c).getD Ctx.reset
  let id := ctxIdOf c x
  let cids := dedupNat (s.mem.l1.map (fun e => e.1 / 2 ^ 52))
  .next (if 64 ≤ c || !x.live || x.phase ≠ .ending || cids.any (fun k => s.dirtyOwned k 0 (2 ^ 52)) then s
    else
      let s1 := cids.foldl (fun (t : State) k => t.writeBackAll k) s
      let s2 := { s1 with cores := s1.cores.dropTags id, ctxs := nmapSet s1.ctxs c { x with live := false, phase := .free } }
      (s2.serve 65).settle.yardmaster)

end Sys2Proof.Machine
end

