-- ==== Sys2Proof/Machine/Errors.lean ====
section
/-! DEFINITION. Hardware errors: counts, poison, queue banks, retirement, and the error buffer (R427 to R432). -/

namespace Sys2Proof.Machine

/-- An EBTAIL write (R430). -/
def execErrorBufferTail (v : Word) (s : State) : Out :=
  .next (if s.exposed then { s with card := { s.card with ebtail := v } } else s)

/-- A report with nothing but its type, class, place and count. -/
def plainReport (type store loc count : Nat) : ErrRec :=
  { type := type, store := store, cause := 0, flags := 0, pa := 0, va := 0, ctx := 0, ptag := 0, submit := 0, loc := loc, count := count }

/-- The stack whose block counts an error (R25, R428): in GDDR-7 its address decides, 256 bytes to a stack in turn; in stacked DRAM it names
the stack (R24). -/
def siteHome (e : ErrSite) : ErrSite :=
  if e.cls = 10 then { e with stack := 32 * e.unit / 256 % 4 }
  else if e.cls = 8 || e.cls = 9 then { e with stack := (32 * e.unit % 2 ^ 50 - 2 ^ 38) / 2 ^ 35 } else e

/-- The fabric physical address of a unit of a memory class, if it has one (R427): L1, L2, columns, yard, GDDR-7. -/
def unitPa (cls unit : Nat) : Option Nat :=
  if cls = 3 then some (32 * unit % 2 ^ 52) else if cls = 4 || cls = 8 || cls = 9 || cls = 10 then some (32 * unit) else none

/-- The report of a site (R430): the physical page where the class has one. -/
def siteReport (type : Nat) (e : ErrSite) (count : Nat) : ErrRec :=
  match unitPa e.cls e.unit with
  | some a => { plainReport type e.cls e.loc count with flags := 1, pa := a / 4096 * 4096 }
  | none => plainReport type e.cls e.loc count

/-- The number of a unit whose errors count toward retirement (R432). -/
def retKey (u : RetUnit) : Option Nat :=
  match u with
  | .coreSram cid => some (4 * cid)
  | .column cid => some (4 * cid + 1)
  | .channel n => some (4 * n + 2)
  | .lane n => some (4 * n + 3)
  | .other => none

/-- An error counted for its unit; retirement is recommended at 4 uncorrectable or 65,536 correctable ones (R432). -/
def State.countUnit (s : State) (e : ErrSite) (ue : Bool) : State :=
  match retKey e.ret with
  | none => s
  | some k =>
    let n := dmapGet (0, 0) s.errCounts k
    let n1 : Nat × Nat := if ue then (n.1, n.2 + 1) else (n.1 + 1, n.2)
    let s1 := { s with errCounts := nmapSet s.errCounts k n1 }
    if ue && n1.2 = 4 then s1.report (plainReport 6 e.cls e.loc n1.2)
    else if !ue && n1.1 = 65536 then s1.report (plainReport 6 e.cls e.loc n1.1) else s1

/-- A stack's error block. -/
def State.errBlock (s : State) (stack : Nat) : StackRegs := (nmapFind s.stackRegs stack).getD StackRegs.reset

/-- A correctable error, or a refetch, counted and reported at 1 and at each multiple of 1,024 (R427, R428). -/
def State.countCe (s : State) (e : ErrSite) : State :=
  let r := s.errBlock e.stack
  let old := dmapGet 0 r.ce e.cls
  let new := satInc old
  let s1 := { s with stackRegs := nmapSet s.stackRegs e.stack { r with ce := dmapSet 0 r.ce e.cls new } }
  let s2 := if old ≠ new && (new = 1 || new.toNat % 1024 = 0) then s1.report (siteReport 1 e new.toNat) else s1
  s2.countUnit e false

/-- What is refetched (R427): an instruction word of the instruction cache, or an entry of the translation caches. -/
def State.refetch (s : State) (e : ErrSite) : State :=
  if e.cls = 11 then { s with mem := { s.mem with icache := nmapErase s.mem.icache e.unit } }
  else if e.cls = 12 then { s with mem := { s.mem with tlb := s.mem.tlb.eraseIdx (e.unit / 2) } }
  else s

/-- Whether an error struck a Rueladom lane, which is in no store class (R427, R432). -/
def isLane (e : ErrSite) : Bool := e.cls = 0 && (match e.ret with | .lane _ => true | _ => false)

/-- A corrected error, or parity that is met by a refetch (R427, R428). -/
def execCorrectableError (site : ErrSite) (s : State) : Out :=
  let e := siteHome site
  .next (if isLane e then s.countUnit e false
    else if e.cls = 0 || 12 < e.cls || 4 ≤ e.stack then s
    else ((if e.cls = 11 || (e.cls = 12 && e.unit % 2 = 0) then s.refetch e else s).countCe e))

/-- Whether an error of a queue SRAM entry concerns a graph (R431): the graph of the entry, or every one in the bank when its tag is lost. -/
def siteHits (e : ErrSite) (g : Graph) : Bool := g.stack = e.stack && (if e.tag then g.slot % 8 = e.slot % 8 else g.slot = e.slot)

/-- The SUBMIT of a context's first graph that an error concerns (R304, R430). -/
def State.lostSubmit (s : State) (e : ErrSite) (c : Nat) : Word :=
  match s.graphs.find? (fun x => x.2.ctx = c && siteHits e x.2) with
  | some x => x.2.submit
  | none => 0

/-- An uncorrectable entry (R431): its graph's context ends; when its tag itself is lost, every context with work in the bank ends, and the
bank is reset and reported. -/
def State.queueError (s : State) (e : ErrSite) : State :=
  let cs := dedupNat ((s.graphs.filter (fun x => siteHits e x.2)).map (fun x => x.2.ctx))
  let s1 := cs.foldl (fun (t : State) c =>
    t.fatalEnd c (agentFatal Cause.poison.code e.cls 0 (s.lostSubmit e c))) s
  if e.tag then s1.report (plainReport 5 e.cls (e.stack * 2 ^ 6 + s.cardNo * 2 ^ 8 + e.slot % 8 * 2 ^ 10) 0) else s1

/-- Whether a 32-byte unit of L1 holds a byte that the core has written. -/
def State.l1Dirty (s : State) (unit : Nat) : Bool := (nmapRange s.mem.l1 (32 * unit) (32 * unit + 32)).any (fun e => e.2.2)

/-- A unit marked poisoned (R427, R429); of class 12 the entry (unit / 2) % 32 of receive queue unit / 64. -/
def State.markUnit (s : State) (e : ErrSite) : State :=
  if e.cls = 12 then
    { s with cores := { s.cores with links := nmapModify s.cores.links (e.unit / 64) (fun q => q.modify (e.unit / 2 % 32) (fun (x : LinkEntry) => { x with bad := true })) } }
  else { s with mem := { s.mem with poison := nmapSet s.mem.poison (poisonKey e.cls e.unit) () } }

/-- Whether an uncorrectable error is met by discarding and fetching again (R427): clean L1 and L2, the instruction cache, translation caches. -/
def State.refetches (s : State) (e : ErrSite) : Bool :=
  (e.cls = 3 && !s.l1Dirty e.unit) || (e.cls = 4 && !e.dirty) || e.cls = 11 || (e.cls = 12 && e.unit % 2 = 0)

/-- An uncorrectable error (R427 to R432): what can be fetched again is; the rest is counted, reported and poisoned. -/
def execUncorrectableError (site : ErrSite) (s : State) : Out :=
  let e := siteHome site
  .next (if isLane e then s.countUnit e true
    else if e.cls = 0 || 12 < e.cls || 4 ≤ e.stack then s
    else if s.refetches e then
      ((if e.cls = 3 then s.invalidate (32 * e.unit / 2 ^ 52) (nmapClear s.mem.l1 (32 * e.unit) (32 * e.unit + 32)) else s.refetch e)).countCe e
    else
      let r := s.errBlock e.stack
      let s1 := { s with stackRegs := nmapSet s.stackRegs e.stack { r with ue := satInc r.ue } }
      let s2 := s1.report (siteReport 2 e 0)
      let s3 := if e.cls = 6 || e.cls = 7 then s2.queueError e
        else s2.markUnit e
      s3.countUnit e true)

end Sys2Proof.Machine
end

