-- ==== Sys2Proof/Machine/Boot.lean ====
section
/-! DEFINITION. Reset, boot, attestation, the host mailbox and the card modes (R28, R409 to R411, R432 to R441, R446). -/

namespace Sys2Proof.Machine

/-! ## Reset -/

/-- Every piece of device state discarded (R433, R446): what lies outside the part stays, host memory and the firmware images, and so do
the model's own fields. -/
def State.discardAll (s : State) : State :=
  { State.reset with
    agenda := s.agenda, free := s.free, serial := s.serial
    mem := { Memory.reset with host := s.mem.host }
    card := { CardRegs.reset with images := s.card.images } }

/-! ## Firmware images -/

/-- Bytes of an image; beyond its end it reads 0. -/
def imgBytes (x : List Byte) (o n : Nat) : List Byte := (List.range n).map (fun k => (x[o + k]?).getD 0)

def imgNat (x : List Byte) (o n : Nat) : Nat := ofBytes (imgBytes x o n)

/-- SHAKE256 to 64 bytes (R409). -/
def digest64 (bs : List Byte) : List Byte := imgBytes (Config.shake256 bs) 0 64

/-- The length of an image's body (R409). -/
def imgLen (x : List Byte) : Nat := imgNat x 0xC 4

/-- What an image's signature covers (R409): bytes 0x000 to 0x71F and the body. -/
def imgSigned (x : List Byte) : List Byte := imgBytes x 0 0x720 ++ imgBytes x 0x1000 (imgLen x)

/-- Why an image is refused, as FAIL names it, in the order of the checks (R409, R435); 0 when it is accepted. -/
def imgFail (kind : Nat) (x : List Byte) : Nat :=
  let slot := imgNat x 6 1
  let key := imgBytes x 0x10 1793
  if imgNat x 0 4 ≠ 0x57464753 then 1
  else if 3 < slot || Config.fusedRevoked slot then 2
  else if digest64 key ≠ Config.fusedKeyDigest slot then 3
  else if imgNat x 8 4 < Config.fusedMinSvn kind then 4
  else if !Config.falconVerify key (digest64 (imgSigned x)) (imgBytes x 0x720 1280) then 5
  else 0

/-- The image of a kind among those found; none reads as an empty one. -/
def imageOf (xs : List (List Byte)) (kind : Nat) : List Byte := (xs.find? (fun x => imgNat x 4 2 = kind)).getD []

/-- The first image refused, in ascending KIND: its kind and why (R409). -/
def firstRefused (xs : List (List Byte)) : Option (Nat × Nat) :=
  [1, 2, 3, 4, 5].findSome? (fun k => if imgFail k (imageOf xs k) = 0 then none else some (k, imgFail k (imageOf xs k)))

/-- The measurement of an accepted image (R409): kind, security version, digest. -/
def measureOf (xs : List (List Byte)) (kind : Nat) : Nat × Nat × List Byte :=
  (kind, imgNat (imageOf xs kind) 8 4, digest64 (imgSigned (imageOf xs kind)))

/-- The bytes of "SG-H940 identity" (R410). -/
def identityLabel : List Byte :=
  [0x53#8, 0x47#8, 0x2D#8, 0x48#8, 0x39#8, 0x34#8, 0x30#8, 0x20#8, 0x69#8, 0x64#8, 0x65#8, 0x6E#8, 0x74#8, 0x69#8, 0x74#8, 0x79#8]

/-- The identity key pair (R410): public key and private key. -/
def identityKeys (svn : Nat) : List Byte × List Byte :=
  Config.falconKeygen (Config.shake256Stream (Config.fusedSeed ++ identityLabel ++ bytesOf 4 svn))

/-- The boot ROM, verification and key derivation (R409, R410, R436): boot stops at the first image refused, or awaits configuration. -/
def State.bootRom (s : State) : State :=
  let c := s.card
  match firstRefused c.images with
  | some (kind, why) => { s with card := { c with stage := 15, fail := why, fkind := kind } }
  | none =>
    let keys := identityKeys (imgNat (imageOf c.images 1) 8 4)
    { s with card := { c with stage := 2, meas := [1, 2, 3, 4, 5].map (measureOf c.images), idPub := imgBytes keys.1 0 1793, idKey := keys.2 } }

/-- Power-on (R436): the state is discarded and boot starts with the images found. -/
def execPowerOn (images : List (List Byte)) (s : State) : Out :=
  let t := s.discardAll
  .next { t with card := { t.card with images := images } }.bootRom

/-- A fundamental reset (R433): the card boots anew. -/
def execFundamentalReset (s : State) : Out := .next s.discardAll.bootRom

/-- A function-level reset (R433): the card boots anew. -/
def execFunctionLevelReset (s : State) : Out := .next s.discardAll.bootRom

/-- Removal of power (R446): the device's state is lost until power returns. -/
def execPowerLoss (s : State) : Out := .next s.discardAll

/-! ## Configuration and training -/

/-- Whether the values of MODEBOOT form a valid configuration (R438). -/
def modeOk (m : Word) : Bool :=
  decide ((m.extractLsb' 0 4).toNat ≤ 8) && (!m.getLsbD 11 || m.extractLsb' 9 2 ≠ m.extractLsb' 5 2)

/-- Whether a port trains with the peer found on it (R440): a card of the system, with the number that the port leads to. -/
def portTrains (m : Word) (p : PeerCard) : Bool :=
  let card := (m.extractLsb' 5 2).toNat
  let ncard := (m.extractLsb' 7 2).toNat
  p.ncard = ncard && ncard ≠ 0 && decide (p.card ≤ ncard) &&
    (if p.port = 0 then (m.getLsbD 11 && p.card = (m.extractLsb' 9 2).toNat) || (ncard = 1 && p.card = card ^^^ 1)
     else p.card = card ^^^ p.port || (ncard = 1 && p.card = card ^^^ 1))

/-- Whether a port may be used under a retirement list (R432, R437): one that it names runs with 4 lanes, or is off where fewer work (log entry
59). -/
def portUsable (retired : List (Nat × Nat × Nat)) (p : PeerCard) : Bool :=
  !retired.any (fun r => r.1 = 4 && r.2.2 = p.port) || decide (4 ≤ p.lanes)

/-- The ports that train (R432, R440). -/
def portsOf (retired : List (Nat × Nat × Nat)) (m : Word) (ps : List PeerCard) : BitVec 4 :=
  (ps.filter (fun p => decide (p.port < 4) && portTrains m p && portUsable retired p)).foldl (fun (x : BitVec 4) p => x ||| (1#4 <<< p.port)) 0

/-- The links between other cards, in both directions (R441). -/
def farLinks (ls : List (Nat × Nat)) : NMap Bool :=
  ls.foldl (fun (m : NMap Bool) e => nmapSet (nmapSet m (e.1 * 4 + e.2) true) (e.2 * 4 + e.1) true) []

/-- A link between other cards goes down or comes up, in both directions. Numbers from 4 on name such links: 4 + card × 4 + card (log entry 59). -/
def CardRegs.setFar (c : CardRegs) (n : Nat) (up : Bool) : CardRegs :=
  let a := (n - 4) / 4
  let b := (n - 4) % 4
  let put (m : NMap Bool) (k : Nat) : NMap Bool := nmapModify m k (fun _ => up)
  { c with far := put (put c.far (a * 4 + b)) (b * 4 + a) }

/-- The end of STAGE 2 (R436, R438, R440): the configuration is checked, memory trains, then the links. -/
def State.proceed (s : State) (env : BootEnv) : State :=
  let c := s.card
  if !modeOk c.modeboot then { s with card := { c with stage := 15, fail := 7 } }
  else if !env.memoryOk then { s with card := { c with stage := 15, fail := 6 } }
  else { s with card := { c with stage := 5, ports := portsOf c.retired c.modeboot env.peers, dropped := 0, far := farLinks env.far } }

/-- 2 s in STAGE 2 without request 4 (R436). -/
def execConfigurationTimeout (env : BootEnv) (s : State) : Out := .next (if s.card.stage = 2 then s.proceed env else s)

/-- A MODEBOOT write (R438): taken in STAGE 2 only. -/
def execModebootWrite (v : Word) (s : State) : Out :=
  .next (if s.card.stage = 2 then { s with card := { s.card with modeboot := v &&& 0xFFF#32 } } else s)

/-- The value that a MODERUN write stores (R438): PMODE 3 as 0; FCOH stays while a context is live. -/
def moderunStore (live : Bool) (old v : Word) : Word :=
  let p := if v &&& 3#32 = 3 then 0 else v &&& 3#32
  p ||| ((if live then old else v) &&& 4#32)

/-- A MODERUN write (R438). -/
def execModerunWrite (v : Word) (s : State) : Out :=
  .next (if s.exposed then
      { s with card := { s.card with moderun := moderunStore (s.ctxs.any (fun e => e.2.live)) s.card.moderun v } }
    else s)

/-- A link drops at run time (R441). -/
def execLinkDrop (port : Nat) (s : State) : Out :=
  let c := s.card
  .next (if decide (port < 4) && c.ports.getLsbD port then
      { s with card := { c with ports := c.ports &&& ~~~(1#4 <<< port), dropped := c.dropped ||| (1#4 <<< port) } }
    else if 4 ≤ port then { s with card := c.setFar port false } else s)

/-- A dropped link has trained again (R441). -/
def execLinkRetrain (port : Nat) (s : State) : Out :=
  let c := s.card
  .next (if decide (port < 4) && c.dropped.getLsbD port then
      { s with card := { c with ports := c.ports ||| (1#4 <<< port), dropped := c.dropped &&& ~~~(1#4 <<< port) } }
    else if 4 ≤ port then { s with card := c.setFar port true } else s)

/-! ## The host mailbox -/

/-- Whether the mailbox takes up a request (R437): the one in progress, or, with none in progress, one written now. -/
def State.mailTakes (s : State) (n : Nat) : Bool := s.exposed && decide (s.card.mbcmd = 0 ∨ s.card.mbcmd = n)

/-- A request answered (R437): 0 done, 1 invalid, 2 too short, 3 not allowed; BUSY is cleared and vector 2 signalled. -/
def State.mailDone (s : State) (status : Nat) : State :=
  { s with card := { s.card with mbstat := status, mbcmd := 0, msix := setBit16 s.card.msix 2 true } }

/-- The number of a block in the map of blocks, plus one; 0 for a region or a context slot. -/
def blockCode (b : BlockId) : Nat :=
  match b with
  | .core c => 2 ^ 16 + c
  | .engine st k => 2 * 2 ^ 16 + st * 16 + k
  | .plane n => 3 * 2 ^ 16 + n
  | .cutEngine st => 4 * 2 ^ 16 + st
  | .rasteriser q => 5 * 2 ^ 16 + q
  | .gddr _ | .column _ | .yard _ | .context _ => 0

/-- The bytes of the world maps that an attestation report covers, the secure blocks by rising number (R391, R411; log entry 6). -/
def worldBytes (w : Worlds) : List Byte :=
  let codes := w.blocks.foldl (fun (a : List Nat) b => insertNat (blockCode b) a) []
  let map (m : NMap Unit) : List Byte := n32 m.length ++ m.flatMap (fun e => n64 e.1)
  n32 codes.length ++ codes.flatMap n32 ++ map w.gddr ++ map w.columns ++ map w.yard

/-- An attestation report without its signature (R411). -/
def State.reportBody (s : State) (nonce : List Byte) : List Byte :=
  n32 1 ++ n32 s.card.meas.length ++ nonce ++ digest64 s.card.idPub ++ digest64 (worldBytes s.worlds)
    ++ s.card.meas.flatMap (fun m => bytesOf 2 m.1 ++ bytesOf 2 0 ++ n32 m.2.1 ++ m.2.2)

/-- The length of an attestation report (R411). -/
def State.reportLen (s : State) : Nat := 0xA8 + 72 * s.card.meas.length + 1280

/-- Request 1 (R411, R437): a report over the nonce in the buffer. -/
def execMailboxReport (s : State) : Out :=
  let c := s.card
  .next (if !s.mailTakes 1 then s
    else if c.mblen.toNat < s.reportLen then s.mailDone 2
    else
      let body := s.reportBody (s.readHost c.mbaddr.toNat 32)
      let sig := imgBytes (Config.falconSign c.idKey (digest64 body)) 0 1280
      (s.writeHost c.mbaddr.toNat (body ++ sig)).mailDone 0)

/-- Request 2 (R437): the identity public key. -/
def execMailboxIdentityKey (s : State) : Out :=
  let c := s.card
  .next (if !s.mailTakes 2 then s
    else if c.mblen.toNat < 1793 then s.mailDone 2
    else (s.writeHost c.mbaddr.toNat c.idPub).mailDone 0)

/-- An entry of a retirement list (R437): kind, stack, index; none when it is not valid. -/
def retEntry (x : Nat) : Option (Nat × Nat × Nat) :=
  let kind := x % 16
  if decide (1 ≤ kind ∧ kind ≤ 4) && x / 2 ^ 12 = 0 then some (kind, x / 16 % 4, x / 64 % 64) else none

/-- Request 3 (R432, R437): a retirement list, in STAGE 2 only; one bad entry makes the whole list invalid. -/
def execMailboxRetirementList (s : State) : Out :=
  let c := s.card
  .next (if !s.mailTakes 3 then s
    else if c.stage ≠ 2 then s.mailDone 3
    else if c.mblen.toNat % 4 ≠ 0 then s.mailDone 1
    else
      match ((List.range (c.mblen.toNat / 4)).map (fun k => ofBytes (s.readHost (c.mbaddr.toNat + 4 * k) 4))).mapM retEntry with
      | none => s.mailDone 1
      | some es => { s with card := { c with retired := es } }.mailDone 0)

/-- Request 4 (R436, R437): boot proceeds, in STAGE 2 only. -/
def execMailboxProceed (env : BootEnv) (s : State) : Out :=
  .next (if !s.mailTakes 4 then s else if s.card.stage ≠ 2 then s.mailDone 3 else (s.proceed env).mailDone 0)

end Sys2Proof.Machine
end

