-- ==== Sys2Proof/Machine/Heat.lean ====
section
/-! DEFINITION. Heat and power (R443 to R446). -/

namespace Sys2Proof.Machine

/-- The tier in whose range a temperature lies (R443). -/
def rangeTier (t : Int) : Nat := if t ≤ 85 then 0 else if t ≤ 95 then 1 else 2

/-- The lowest temperature of a tier's range; tier 0 has none. -/
def tierLow (k : Nat) : Int := if k = 1 then 86 else 96

/-- A bank's tier after a reading (R443). -/
def nextTier (k : Nat) (t : Int) : Nat :=
  if k < rangeTier t then rangeTier t
  else if 0 < k && decide (t + 2 ≤ tierLow k) then rangeTier (t + 1)
  else k

/-- The key of a bank of a column. -/
def bankKey (cid bank : Nat) : Nat := cid * 65536 + bank

/-- The hottest bank reading of a column, if one has been read (R443, R444). -/
def State.hottestBank (s : State) (cid : Nat) : Option Int :=
  (nmapRange s.thermal.bankTemp (bankKey cid 0) (bankKey (cid + 1) 0)).foldl (fun (b : Option Int) e =>
    match b with | none => some e.2 | some t => some (max t e.2)) none

/-- The highest tier of a column's banks (R443). -/
def State.columnTier (s : State) (cid : Nat) : Nat :=
  (nmapRange s.thermal.bankTier (bankKey cid 0) (bankKey (cid + 1) 0)).foldl (fun b e => max b e.2) 0

/-- %talw of a core as R444 computes it; a place not yet read does not limit it. -/
def State.talwNow (s : State) (cid : Nat) : Nat :=
  let cap (limit : Int) (t : Option Int) : Int := match t with | some x => 16 * (limit - x) | none => 255
  (max 0 (min (min 255 (s.thermal.b : Int)) (min (cap 95 (s.hottestBank cid)) (cap 105 (nmapFind s.thermal.hot cid))))).toNat

/-- One bank reading taken (R443, R446). -/
def State.takeReading (s : State) (stack : Nat) (r : BankReading) : State :=
  let k := bankKey (stack * 48 + r.core) r.bank
  { s with
    thermal := { s.thermal with
      bankTemp := nmapSet s.thermal.bankTemp k r.temp
      bankTier := dmapSet 0 s.thermal.bankTier k (nextTier (dmapGet 0 s.thermal.bankTier k) r.temp) }
    card := { s.card with trip := s.card.trip || decide (105 ≤ r.temp) } }

/-- The bank sensors of a stack are read: tiers, then %talw of its cores (R443, R444); cores whose asks received nothing
ask again (R353, R354). -/
def execBankSensorRead (stack : Nat) (reads : List BankReading) (s : State) : Out :=
  .next (if 4 ≤ stack then s
    else
      let s1 := (reads.filter (fun r => decide (r.core < 48) && decide (r.bank < 65536))).foldl (fun (t : State) r => t.takeReading stack r) s
      { s1 with thermal := { s1.thermal with
          talw := (List.range 48).foldl (fun (m : NMap Nat) c => dmapSet 255 m (stack * 48 + c) (s1.talwNow (stack * 48 + c))) s1.thermal.talw } }.yardmaster)

/-- The hotspot sensors of a stack are read (R443, R446): the hottest reading of each core is kept. -/
def execHotspotSensorRead (stack : Nat) (reads : List (Nat × Int)) (s : State) : Out :=
  .next (if 4 ≤ stack then s
    else
      let rs := reads.filter (fun r => decide (r.1 < 48))
      let hottest (c : Nat) : Option Int := (rs.filter (fun r => r.1 = c)).foldl (fun (b : Option Int) r =>
        match b with | none => some r.2 | some t => some (max t r.2)) none
      let hot := (List.range 48).foldl (fun (m : NMap Int) c => match hottest c with
        | some t => nmapSet m (stack * 48 + c) t
        | none => m) s.thermal.hot
      { s with thermal := { s.thermal with hot := hot }, card := { s.card with trip := s.card.trip || rs.any (fun r => decide (110 ≤ r.2)) } })

/-- A bank's refresh begins (R443). -/
def execBankRefresh (cid bank : Nat) (s : State) : Out :=
  .next (if cid < 192 then { s with thermal := { s.thermal with refreshing := nmapSet s.thermal.refreshing (bankKey cid bank) () } } else s)

/-- A bank's refresh ends after 128 cc (R443). -/
def execRefreshEnd (cid bank : Nat) (s : State) : Out :=
  .next { s with thermal := { s.thermal with refreshing := nmapErase s.thermal.refreshing (bankKey cid bank) } }

/-- The power limit of PMODE, in W (R438, R444). -/
def powerLimit (moderun : Word) : Nat :=
  match (moderun.extractLsb' 0 2).toNat with | 1 => 550 | 2 => 400 | _ => 700

/-- The board allowance after a sample (R444). -/
def nextAllowance (b watts limit : Nat) : Nat :=
  if limit < watts then b - 16 else if 10 * watts < 9 * limit then min 255 (b + 8) else b

/-- The governor's step (R444). -/
def execGovernorStep (watts : Nat) (s : State) : Out :=
  .next { s with
    card := { s.card with power := watts }
    thermal := { s.thermal with b := nextAllowance s.thermal.b watts (powerLimit s.card.moderun) } }

end Sys2Proof.Machine
end

