-- ==== Sys2Proof/Machine/Card.lean ====
section
/-! DEFINITION. Promotion of frames into the yard, changes of world, and the host's accesses through BAR0 and BAR2 (R391, R392, R401, R402,
R434 to R439, R447). -/

namespace Sys2Proof.Machine

/-! ## Promotion -/

/-- The yard units of 64 KiB of a stack that promoted frames hold or are being copied into (R401). -/
def State.promoUnits (s : State) (stack : Nat) : List Nat :=
  (s.mem.moved.filter (fun e => e.2 / 2 ^ 32 = stack)).map (fun e => e.2 % 2 ^ 32)
    ++ (s.mem.promos.filter (fun p => p.stack = stack)).map (·.yard)

/-- A free yard unit of a world in a stack: no ring and no promoted frame lies in it (R401). -/
def State.freeUnit (s : State) (stack : Nat) (secure : Bool) : Option Nat :=
  let us := s.promoUnits stack
  (s.yardFree stack).findSome? (fun r =>
    let lo := (r.1 + 65535) / 65536
    let hi := (r.1 + r.2) / 65536
    (List.range (min (hi - lo) (us.length + 1 + 1024 * s.worlds.yard.length))).findSome? (fun k =>
      let u := lo + k
      if !us.contains u && (nmapFind s.worlds.yard (stack * 2 ^ 12 + u / 1024)).isSome = secure then some u else none))

/-- The context and virtual page through which a frame is reached (R402). -/
def State.trigger (s : State) (frame : Nat) : Option (Nat × Nat) :=
  (s.mem.tlb.find? (fun t => t.level = 6 && !t.host && decide (t.frame < 65536 * (frame + 1)) && decide (65536 * frame < t.frame + t.size))).map (fun t =>
    (t.ctx, t.va + (65536 * frame - t.frame)))

/-- The slice cycles of a promotion epoch (R401). -/
def epochLen : Nat := 2 ^ 20

/-- Whether a stack's promotion epoch is over (R401). -/
def State.epochOver (s : State) (stack : Nat) : Bool := decide (stack < 4) && decide (epochLen ≤ (s.errBlock stack).sc)

/-- A promotion epoch of a stack ends and its miss counts start again (R401). -/
def execPromotionEpochEnd (stack : Nat) (s : State) : Out :=
  let r := s.errBlock stack
  .next (if s.epochOver stack then { s with stackRegs := nmapSet s.stackRegs stack { r with epoch := r.epoch + 1, sc := r.sc - epochLen } } else s)

/-- Whether a frame is hot for a stack: ENABLE, and its misses in the epoch reach 64 × PROMTH (R401). -/
def State.hotFrame (s : State) (stack frame : Nat) : Bool :=
  let r := s.errBlock stack
  r.promctl.getLsbD 0 && decide (64 * (r.promctl.extractLsb' 8 8).toNat ≤ Config.l2Misses stack frame r.epoch)

/-- Whether a stack's slices sent the most misses of a frame (R401); of several the lowest-numbered stack is taken (DESIGN CHOICE, log entry
91). -/
def State.mostMisses (s : State) (stack frame : Nat) : Bool :=
  let n (st : Nat) : Nat := Config.l2Misses st frame (s.errBlock st).epoch
  (List.range 4).all (fun st => decide (n st < n stack) || (n st = n stack && decide (stack ≤ st)))

/-- A hot frame of GDDR-7 starts being copied into a free yard unit of its world, in the stack whose slices missed it most (R401, R402). -/
def execPagePromotion (stack frame : Nat) (s : State) : Out :=
  let a := 65536 * frame
  .next (if 4 ≤ stack || a / 2 ^ 50 ≠ s.cardNo || s.paKind a ≠ .gddr || (nmapFind s.mem.moved frame).isSome
      || s.mem.promos.any (fun p => p.frame = frame) || !s.hotFrame stack frame || !s.mostMisses stack frame then s
    else match s.freeUnit stack (s.paSecure a), s.trigger frame with
      | some u, some (c, page) =>
        let s1 := s.copyFrame stack frame u true
        { s1 with mem := { s1.mem with promos := s1.mem.promos ++ [⟨stack, frame, u, [], c, page⟩] } }
      | _, _ => s)

/-- The lines stored to during the copy are copied again, and the frame's home switches (R401). -/
def execPromotionSwitch (stack frame : Nat) (s : State) : Out :=
  .next (match s.mem.promos.find? (fun p => p.stack = stack && p.frame = frame) with
    | none => s
    | some p =>
      let s1 := (dedupNat (p.marked.map (fun l => l % 512 / 32))).foldl (fun (t : State) k =>
        t.copy4K (frame * 65536 + 4096 * k) (t.yardPa stack (p.yard * 65536 + 4096 * k)) 10 9) s
      { s1 with mem := { s1.mem with
          promos := s1.mem.promos.filter (fun q => q.frame ≠ frame), moved := nmapSet s1.mem.moved frame (stack * 2 ^ 32 + p.yard) } })

/-- A promoted frame is demoted: rings need its space (R401). -/
def execPageDemotion (stack frame : Nat) (s : State) : Out :=
  .next (match nmapFind s.mem.moved frame with
    | some y => if y / 2 ^ 32 = stack then s.demote frame else s
    | none => s)

/-! ## Worlds -/

/-- Whether a rasteriser holds work (R391): entries, bins, or raster tiles of its own whose pixels are there or whose fragment warps wait. -/
def State.rasterBusy (s : State) (q : Nat) : Bool :=
  !(dmapGet [] s.entries q).isEmpty || !(s.binsAt q).isEmpty
    || s.graphs.any (fun e => e.2.raster.any (fun r =>
        (!r.2.pend.isEmpty || !r.2.pixels.isEmpty) && (match (e.2.passAt (r.1 / 2 ^ 24)).bind e.2.targetSize with
          | some (wt, _) => tileOwner wt (r.1 % 2 ^ 24) = q
          | none => false)))

/-- Whether an engine of a stack holds a job (R391): those of each world occupy the engines of their world from the lowest number on (DESIGN
CHOICE, log entry 90). -/
def State.engineBusy (s : State) (st k : Nat) : Bool :=
  let world (n : Nat) : Bool := s.worlds.blocks.contains (.engine st n)
  decide (((List.range k).filter (fun n => world n = world k)).length
    < (s.jobs.filter (fun e => e.2.stack = st && s.blockServes (.engine st k) e.2.ctx)).length)

/-- Whether a block holds no work (R391), or a context slot is not VALID (R388); a region may change its world at any time (DEDUCED, log
entry 56). -/
def State.blockIdle (s : State) (b : BlockId) : Bool :=
  match b with
  | .core cid => (s.partsOn cid).isEmpty && (s.entriesAt cid).isEmpty
  | .engine st k => !s.engineBusy st k
  | .plane n => !((nmapFind s.planes n).getD Plane.reset).pctl.getLsbD 0
  | .cutEngine st => !s.cuts.any (fun e => e.2.stack = st)
  | .rasteriser q => !s.rasterBusy q
  | .gddr _ | .column _ | .yard _ => true
  | .context c => decide (c < 64) && !((nmapFind s.ctxs c).getD Ctx.reset).valid

/-- A store without the keys of a core. -/
def dropKeys {α : Type} (cid k : Nat) (m : NMap α) : NMap α := nmapClear m (cid * k) (cid * k + k)

/-- Every register, scratch byte, loft byte and tile of a core cleared (R391). -/
def State.clearCore (s : State) (cid : Nat) : State :=
  let k := s.cores
  { s with
    regs := s.regs.ofWarps (fun w => w / 64 ≠ cid)
    cores := { k with
      scratch := dropKeys cid (2 ^ 20) k.scratch, fe := dropKeys cid (2 ^ 16) k.fe, loft := dropKeys cid (2 ^ 18) k.loft,
      acc := dropKeys cid 65536 k.acc, links := dropKeys cid 4 k.links, flight := dropKeys cid 4 k.flight }
    mem := { s.mem with poison := s.mem.poison.filter (fun e =>
      !poisonOf (fun w => w / 64 = cid) [{ WgCore.empty with cid := cid, ssize := 4096, lsize := 2 ^ 18, accn := 32 }] e.1) } }

/-- A block cleared when its world changes (R391). -/
def State.clearBlock (s : State) (b : BlockId) : State :=
  match b with
  | .core cid => s.clearCore cid
  | .plane n => { s with planes := nmapErase s.planes n }
  | .engine _ _ | .cutEngine _ | .rasteriser _ | .gddr _ | .column _ | .yard _ | .context _ => s

/-- The world of a block, region or context slot: whether it is the secure one (R388, R391). -/
def State.isSecure (s : State) (b : BlockId) : Bool :=
  match b with
  | .gddr k => (nmapFind s.worlds.gddr k).isSome
  | .column cid => (nmapFind s.worlds.columns cid).isSome
  | .yard k => (nmapFind s.worlds.yard k).isSome
  | .context c => ((nmapFind s.ctxs c).getD Ctx.reset).secure
  | .core _ | .engine _ _ | .plane _ | .cutEngine _ | .rasteriser _ => s.worlds.blocks.contains b

/-- A key listed or not. -/
def worldKey (m : NMap Unit) (k : Nat) (on : Bool) : NMap Unit := if on then nmapSet m k () else nmapErase m k

/-- A block, region or context slot put into a world (R388, R391); a plane's PCTL.SECURE shows its own (R447). -/
def State.setSecure (s : State) (b : BlockId) (secure : Bool) : State :=
  let m := s.worlds
  let listed : State := { s with worlds := { m with blocks := if secure then m.blocks ++ [b] else m.blocks.filter (fun x => x ≠ b) } }
  match b with
  | .gddr k => { s with worlds := { m with gddr := worldKey m.gddr k secure } }
  | .column cid => { s with worlds := { m with columns := worldKey m.columns cid secure } }
  | .yard k => { s with worlds := { m with yard := worldKey m.yard k secure } }
  | .context c => { s with ctxs := nmapSet s.ctxs c { (nmapFind s.ctxs c).getD Ctx.reset with secure := secure } }
  | .plane n =>
    let x := (nmapFind s.planes n).getD Plane.reset
    { listed with planes := nmapSet s.planes n { x with pctl := (x.pctl &&& ~~~8#32) ||| (if secure then 8#32 else 0#32) } }
  | .core _ | .engine _ _ | .cutEngine _ | .rasteriser _ => listed

/-- The change of world that waits for a block replaced, or given up (R391). -/
def State.setPending (s : State) (b : BlockId) (p : Option Bool) : State :=
  let rest := s.worlds.pending.filter (fun e => e.1 ≠ b)
  { s with worlds := { s.worlds with pending := match p with | some x => rest ++ [(b, x)] | none => rest } }

/-- The secure firmware moves a block, region or context slot to the other world (R388, R391): a block is cleared, and a change of one that
holds work waits until it is idle; SECURE of a context slot is dropped while VALID is 1. -/
def execBlockWorldChange (b : BlockId) (secure : Bool) (s : State) : Out :=
  .next (if s.isSecure b = secure then s.setPending b none
    else if s.blockIdle b then (((s.setPending b none).clearBlock b).setSecure b secure).yardmaster
    else match b with
      | .context _ => s
      | _ => s.setPending b (some secure))

/-! ## BAR2 -/

/-- A host access through BAR2 (R242, R392, R429, R434): at the home of a GDDR-7 address; elsewhere, and in secure regions, it reads zero and
drops writes. A write may map a page, so that the jobs take their lines anew (R193, R249). -/
def execHostBar2Access (write : Bool) (addr n : Nat) (data : List Byte) (s : State) : Out :=
  let pa := s.cardNo * 2 ^ 50 + addr
  let len := if write then data.length else n
  let ok : Bool := s.isReady && decide (addr + len ≤ 2 ^ 38) && s.paKind pa = .gddr && decide ((addr + len) ≤ s.gddrEnd)
  let open1 (a : Nat) : Bool := !s.paSecure a
  .next (if write then
      (if ok && (List.range (len / 2 ^ 21 + 2)).all (fun k => open1 (min (pa + k * 2 ^ 21) (pa + len - 1))) then
        (s.writeLong pa (len / 32 + 2) data).retake
      else s)
    else if ok then
      let cell (k : Nat) : Byte := if open1 (pa + k) then s.homeByte (pa + k) else 0
      { s with hostRead := (List.range len).map cell
               hostEp := (List.range len).any (fun k => open1 (pa + k) && (s.homePoison (pa + k) 1).isSome) }
    else { s with hostRead := List.replicate len 0, hostEp := false })

/-! ## BAR0 -/

/-- The low and the high half of a 64-bit register replaced. -/
def setLow (x : BitVec 64) (v : Word) : BitVec 64 := x.extractLsb' 32 32 ++ v

def setHigh (x : BitVec 64) (v : Word) : BitVec 64 := v ++ x.extractLsb' 0 32

/-- The half of a 64-bit register written at an offset: 0 the low, 4 the high. -/
def setHalf (o : Nat) (x : BitVec 64) (v : Word) : BitVec 64 := if o = 0 then setLow x v else setHigh x v

/-- A write to the mailbox, invalidation, fault-buffer and error-buffer blocks (R398, R399, R430, R434, R437). A write to MBCMD
makes the mailbox BUSY, and is dropped while it is; requests 1 to 4 are answered by events of their own; another request code is an invalid
request (DEDUCED, log entry 59). -/
def CardRegs.write (c : CardRegs) (block o : Nat) (v : Word) : CardRegs :=
  match block, o with
  | 2, 0 | 2, 4 => { c with mbaddr := setHalf o c.mbaddr v &&& ~~~63#64 }
  | 2, 8 => { c with mblen := v }
  | 2, 0xC => if c.mbcmd ≠ 0 then c
    else if 1 ≤ v.toNat % 256 ∧ v.toNat % 256 ≤ 4 then { c with mbcmd := v.toNat % 256 }
    else { c with mbstat := 1, msix := setBit16 c.msix 2 true }
  | 4, 0 | 4, 4 => { c with iva := setHalf o c.iva v &&& ~~~0xFFF#64 }
  | 4, 8 => { c with inum := v }
  | 4, 0xC => { c with ictx := v &&& 0xFFF#32 }
  | 5, 0 | 5, 4 => { c with fbbase := setHalf o c.fbbase v &&& ~~~0xFFF#64 }
  | 5, 8 => { c with fbctl := v &&& 0x8000001F#32 }
  | 6, 0 | 6, 4 => { c with ebbase := setHalf o c.ebbase v &&& ~~~0xFFF#64 }
  | 6, 8 => { c with ebctl := v &&& 0x8000001F#32 }
  | _, _ => c

/-- A write to a context slot's block (R388, R434): while VALID is 1, ROOT, SAVEBASE and SAVELEN keep their values. -/
def Ctx.write (x : Ctx) (o : Nat) (v : Word) : Ctx :=
  match o with
  | 0 | 4 => if x.valid then x else { x with root := setHalf o x.root v &&& 0xFFFFFFFFFF800#64 }
  | 0xC => { x with ptag := v }
  | 0x10 | 0x14 => if x.valid then x else { x with savebase := setHalf (o - 0x10) x.savebase v &&& ~~~0xFFFF#64 }
  | 0x18 => if x.valid then x else { x with savelen := v }
  | _ => x

/-- A write to a display plane's block (R434, R447); SECURE is the firmware's. -/
def Plane.write (x : Plane) (o : Nat) (v : Word) : Plane :=
  match o with
  | 0 => { x with pctl := (v &&& 0xF7#32) ||| (x.pctl &&& 8#32), pvbl := if v.getLsbD 0 && !x.pctl.getLsbD 0 then 0 else x.pvbl }
  | 4 => { x with ppos := v }
  | 8 | 0xC => { x with pbase := setHalf (o - 8) x.pbase v &&& ~~~63#64 }
  | _ => x

/-- A 32-bit write to a register without behaviour of its own (R434); context and queue blocks take writes only in STAGE 5 (R436). -/
def State.regWrite (s : State) (off : Nat) (v : Word) : State :=
  if off < 0x10000 then { s with card := s.card.write (off / 0x1000) (off % 0x1000) v }
  else if off < 0x11000 then
    (if s.isReady then { s with ctxs := nmapSet s.ctxs (off % 0x10000 / 64) (((nmapFind s.ctxs (off % 0x10000 / 64)).getD Ctx.reset).write (off % 64) v) }
     else s)
  else if 0x20000 ≤ off && off < 0x24000 then
    (if s.isReady && off % 64 < 8 then
      let x := s.queue (off % 0x10000 / 64)
      s.setQueue (off % 0x10000 / 64) { x with qbase := setHalf (off % 64) x.qbase v &&& ~~~63#64 }
     else s)
  else if 0x30000 ≤ off && off < 0x34000 then
    (if off % 0x1000 = 0x100 then
      let r := s.errBlock (off % 0x10000 / 0x1000)
      { s with stackRegs := nmapSet s.stackRegs (off % 0x10000 / 0x1000) { r with promctl := v &&& 0xFF01#32 } }
     else s)
  else if 0x40000 ≤ off && off < 0x40400 then
    { s with planes := nmapSet s.planes (off % 0x10000 / 64) (((nmapFind s.planes (off % 0x10000 / 64)).getD Plane.reset).write (off % 64) v) }
  else s

/-- A write to a register without behaviour of its own (R434): an aligned access of 32 bits, or of 64 bits as its two halves. -/
def execRegisterWrite (off : Nat) (v : BitVec 64) (wide : Bool) (s : State) : Out :=
  .next (if !s.exposed then s
    else if wide then (if off % 8 = 0 then (s.regWrite off (v.extractLsb' 0 32)).regWrite (off + 4) (v.extractLsb' 32 32) else s)
    else if off % 4 = 0 then s.regWrite off (v.extractLsb' 0 32) else s)

/-- BOOTSTAT (R435). -/
def CardRegs.bootstat (c : CardRegs) : Word :=
  BitVec.ofNat 32 (c.stage % 16 + c.fkind % 256 * 2 ^ 8 + c.fail % 256 * 2 ^ 16 + c.ports.toNat * 2 ^ 24)

/-- A column's word of the thermal block (R443). -/
def State.thermalWord (s : State) (cid : Nat) : Word :=
  let byte (t : Option Int) : Nat := match t with | some x => (x % 256).toNat | none => 0
  BitVec.ofNat 32 (byte (s.hottestBank cid) + byte (nmapFind s.thermal.hot cid) * 2 ^ 8 + s.columnTier cid * 2 ^ 16)

/-- The half of a 64-bit register at an offset. -/
def halfAt (o : Nat) (x : BitVec 64) : Word := if o = 0 then x.extractLsb' 0 32 else x.extractLsb' 32 32

/-- What the host reads of the card's own blocks (R398, R399, R430, R435, R437 to R439). -/
def CardRegs.read (c : CardRegs) (block o : Nat) : Word :=
  match block, o with
  | 0, 4 | 0, 8 => halfAt (o - 4) Config.fusedUid
  | 1, 0 => c.modeboot
  | 1, 4 => c.moderun
  | 1, 8 => BitVec.ofNat 32 (c.power % 65536 * 65536)
  | 2, 0 | 2, 4 => halfAt o c.mbaddr
  | 2, 8 => c.mblen
  | 2, 0x10 => BitVec.ofNat 32 (c.mbstat * 16 + (if c.mbcmd = 0 then 0 else 1))
  | 3, 4 => c.prstat
  | 3, 8 => c.prdrop
  | 4, 0x14 => c.idone
  | 5, 0 | 5, 4 => halfAt o c.fbbase
  | 5, 8 => c.fbctl
  | 5, 0xC => c.fbhead
  | 6, 0 | 6, 4 => halfAt o c.ebbase
  | 6, 8 => c.ebctl
  | 6, 0xC => c.ebhead
  | 6, 0x14 => c.ebdrop
  | _, _ => 0

/-- What the host reads of a context slot's block (R388). -/
def Ctx.read (x : Ctx) (o : Nat) : Word :=
  let bit (b : Bool) (k : Nat) : Nat := if b then k else 0
  match o with
  | 0 | 4 => halfAt o x.root
  | 8 => BitVec.ofNat 32 (bit x.valid 1 + bit x.secure 2 + x.gen.toNat * 4 + bit x.live 256)
  | 0xC => x.ptag
  | 0x10 | 0x14 => halfAt (o - 0x10) x.savebase
  | 0x18 => x.savelen
  | _ => 0

/-- What the host reads of a submission queue's block (R326). -/
def Queue.read (x : Queue) (o : Nat) : Word :=
  match o with
  | 0 | 4 => halfAt o x.qbase
  | 8 => x.qctl
  | 0xC => BitVec.ofNat 32 (x.stat + x.cause * 16)
  | 0x10 => x.qhead
  | _ => 0

/-- What the host reads of a display plane's block (R447). -/
def Plane.read (x : Plane) (o : Nat) : Word :=
  match o with
  | 0 => x.pctl
  | 4 => x.ppos
  | 8 | 0xC => halfAt (o - 8) x.pbase
  | 0x10 => x.pvbl
  | _ => 0

/-- What the host reads of a stack's block (R401, R428, R443). -/
def State.stackRead (s : State) (stack o : Nat) : Word :=
  let r := s.errBlock stack
  if o < 0x30 then dmapGet 0 r.ce (o / 4 + 1)
  else if o = 0x30 then r.ue
  else if o = 0x34 then r.mcstale
  else if o = 0x38 then r.tagdrop
  else if o = 0x100 then r.promctl
  else if 0x200 ≤ o && o < 0x2C0 then s.thermalWord (stack * 48 + (o - 0x200) / 4)
  else 0

/-- A 32-bit read of BAR0 at an aligned offset (R434, R435): every reserved offset reads zero, and of a card that refused an image only
BOOTSTAT is there. -/
def State.regRead (s : State) (off : Nat) : Word :=
  if off % 4 ≠ 0 then 0
  else if off = 0 then s.card.bootstat
  else if !s.exposed then 0
  else if off < 0x10000 then s.card.read (off / 0x1000) (off % 0x1000)
  else if off < 0x11000 then ((nmapFind s.ctxs (off % 0x10000 / 64)).getD Ctx.reset).read (off % 64)
  else if 0x20000 ≤ off && off < 0x24000 then (s.queue (off % 0x10000 / 64)).read (off % 64)
  else if 0x30000 ≤ off && off < 0x34000 then s.stackRead (off % 0x10000 / 0x1000) (off % 0x1000)
  else if 0x40000 ≤ off && off < 0x40400 then ((nmapFind s.planes (off % 0x10000 / 64)).getD Plane.reset).read (off % 64)
  else 0

/-- A host read of BAR0 (R434): an aligned access of 4 bytes, or of 8 as its two halves; every other access reads zero. -/
def State.barRead (s : State) (off bytes : Nat) : BitVec 64 :=
  if bytes = 4 then (s.regRead off).zeroExtend 64
  else if bytes = 8 && off % 8 = 0 then s.regRead (off + 4) ++ s.regRead off
  else 0

end Sys2Proof.Machine
end

