-- ==== Sys2Proof/Machine/Dispatch.lean ====
section
/-! DEFINITION. One arm for each constructor of Instr: its meaning. -/

namespace Sys2Proof.Machine

def exec (i : Instr) (s : State) : Host.Outcome State Fault Refusal :=
  match i with
  | .nop h f => Sys2Proof.Machine.execNop h f s
  | .mov h f => Sys2Proof.Machine.execMov h f s
  | .movi h f => Sys2Proof.Machine.execMovi h f s
  | .sel h f => Sys2Proof.Machine.execSel h f s
  | .add h f => Sys2Proof.Machine.execAdd h f s
  | .addi h f => Sys2Proof.Machine.execAddi h f s
  | .subOp h f => Sys2Proof.Machine.execSub h f s
  | .mul h f => Sys2Proof.Machine.execMul h f s
  | .muli h f => Sys2Proof.Machine.execMuli h f s
  | .mulhi h f => Sys2Proof.Machine.execMulhi h f s
  | .mad h f => Sys2Proof.Machine.execMad h f s
  | .madw h f => Sys2Proof.Machine.execMadw h f s
  | .absOp h f => Sys2Proof.Machine.execAbs h f s
  | .minOp h f => Sys2Proof.Machine.execMin h f s
  | .maxOp h f => Sys2Proof.Machine.execMax h f s
  | .andOp h f => Sys2Proof.Machine.execAnd h f s
  | .andi h f => Sys2Proof.Machine.execAndi h f s
  | .orOp h f => Sys2Proof.Machine.execOr h f s
  | .ori h f => Sys2Proof.Machine.execOri h f s
  | .xorOp h f => Sys2Proof.Machine.execXor h f s
  | .xori h f => Sys2Proof.Machine.execXori h f s
  | .tern h f => Sys2Proof.Machine.execTern h f s
  | .shl h f => Sys2Proof.Machine.execShl h f s
  | .shr h f => Sys2Proof.Machine.execShr h f s
  | .sar h f => Sys2Proof.Machine.execSar h f s
  | .rot h f => Sys2Proof.Machine.execRot h f s
  | .fsh h f => Sys2Proof.Machine.execFsh h f s
  | .bfx h f => Sys2Proof.Machine.execBfx h f s
  | .bfi h f => Sys2Proof.Machine.execBfi h f s
  | .popc h f => Sys2Proof.Machine.execPopc h f s
  | .clz h f => Sys2Proof.Machine.execClz h f s
  | .ctz h f => Sys2Proof.Machine.execCtz h f s
  | .brev h f => Sys2Proof.Machine.execBrev h f s
  | .bsel h f => Sys2Proof.Machine.execBsel h f s
  | .lea h f => Sys2Proof.Machine.execLea h f s
  | .cmp h f => Sys2Proof.Machine.execCmp h f s
  | .cmpi h f => Sys2Proof.Machine.execCmpi h f s
  | .plop h f => Sys2Proof.Machine.execPlop h f s
  | .p2v h f => Sys2Proof.Machine.execP2v h f s
  | .v2p h f => Sys2Proof.Machine.execV2p h f s
  | .cvti h f => Sys2Proof.Machine.execCvti h f s
  | .dp4 h f => Sys2Proof.Machine.execDp4 h f s
  | .tgt h f => Sys2Proof.Machine.execTgt h f s
  | .movbt h f => Sys2Proof.Machine.execMovbt h f s
  | .setlc h f => Sys2Proof.Machine.execSetlc h f s
  | .brk h f => Sys2Proof.Machine.execBrk h f s
  | .fadd h f => Sys2Proof.Machine.execFadd h f s
  | .faddi h f => Sys2Proof.Machine.execFaddi h f s
  | .fmul h f => Sys2Proof.Machine.execFmul h f s
  | .fmuli h f => Sys2Proof.Machine.execFmuli h f s
  | .fma h f => Sys2Proof.Machine.execFma h f s
  | .fmin h f => Sys2Proof.Machine.execFmin h f s
  | .fmax h f => Sys2Proof.Machine.execFmax h f s
  | .fcmp h f => Sys2Proof.Machine.execFcmp h f s
  | .fclass h f => Sys2Proof.Machine.execFclass h f s
  | .frnd h f => Sys2Proof.Machine.execFrnd h f s
  | .fcvt h f => Sys2Proof.Machine.execFcvt h f s
  | .f2i h f => Sys2Proof.Machine.execF2i h f s
  | .i2f h f => Sys2Proof.Machine.execI2f h f s
  | .fscale h f => Sys2Proof.Machine.execFscale h f s
  | .fdiv h f => Sys2Proof.Machine.execFdiv h f s
  | .fsqrt h f => Sys2Proof.Machine.execFsqrt h f s
  | .rcp h f => Sys2Proof.Machine.execRcp h f s
  | .rsq h f => Sys2Proof.Machine.execRsq h f s
  | .exp2 h f => Sys2Proof.Machine.execExp2 h f s
  | .log2 h f => Sys2Proof.Machine.execLog2 h f s
  | .sin h f => Sys2Proof.Machine.execSin h f s
  | .cos h f => Sys2Proof.Machine.execCos h f s
  | .tanh h f => Sys2Proof.Machine.execTanh h f s
  | .fma2 h f => Sys2Proof.Machine.execFma2 h f s
  | .fadd2 h f => Sys2Proof.Machine.execFadd2 h f s
  | .fmul2 h f => Sys2Proof.Machine.execFmul2 h f s
  | .fdot2 h f => Sys2Proof.Machine.execFdot2 h f s
  | .qnt h f => Sys2Proof.Machine.execQnt h f s
  | .dqnt h f => Sys2Proof.Machine.execDqnt h f s
  | .pack h f => Sys2Proof.Machine.execPack h f s
  | .unpk h f => Sys2Proof.Machine.execUnpk h f s
  | .spx h f => Sys2Proof.Machine.execSpx h f s
  | .spexp h f => Sys2Proof.Machine.execSpexp h f s
  | .cvset h f => Sys2Proof.Machine.execCvset h f s
  | .cvget h f => Sys2Proof.Machine.execCvget h f s
  | .shfl h f => Sys2Proof.Machine.execShfl h f s
  | .vote h f => Sys2Proof.Machine.execVote h f s
  | .ballot h f => Sys2Proof.Machine.execBallot h f s
  | .matchOp h f => Sys2Proof.Machine.execMatch h f s
  | .redux h f => Sys2Proof.Machine.execRedux h f s
  | .fredux h f => Sys2Proof.Machine.execFredux h f s
  | .prefixOp h f => Sys2Proof.Machine.execPrefix h f s
  | .actmask h f => Sys2Proof.Machine.execActmask h f s
  | .yield h f => Sys2Proof.Machine.execYield h f s
  | .pause h f => Sys2Proof.Machine.execPause h f s
  | .nnsend h f => Sys2Proof.Machine.execNnsend h f s
  | .nnrecv h f => Sys2Proof.Machine.execNnrecv h f s
  | .lres h f => Sys2Proof.Machine.execLres h f s
  | .lrel h f => Sys2Proof.Machine.execLrel h f s
  | .lld h f => Sys2Proof.Machine.execLld h f s
  | .ldt4 h f => Sys2Proof.Machine.execLdt4 h f s
  | .mma h f => Sys2Proof.Machine.execMma h f s
  | .mmaq h f => Sys2Proof.Machine.execMmaq h f s
  | .accz h f => Sys2Proof.Machine.execAccz h f s
  | .accrd h f => Sys2Proof.Machine.execAccrd h f s
  | .accwr h f => Sys2Proof.Machine.execAccwr h f s
  | .accout h f => Sys2Proof.Machine.execAccout h f s
  | .accin h f => Sys2Proof.Machine.execAccin h f s
  | .lstat h f => Sys2Proof.Machine.execLstat h f s
  | .ld h f => Sys2Proof.Machine.execLd h f s
  | .st h f => Sys2Proof.Machine.execSt h f s
  | .ldmc h f => Sys2Proof.Machine.execLdmc h f s
  | .atom h f => Sys2Proof.Machine.execAtom h f s
  | .red h f => Sys2Proof.Machine.execRed h f s
  | .cas h f => Sys2Proof.Machine.execCas h f s
  | .fence h f => Sys2Proof.Machine.execFence h f s
  | .prfm h f => Sys2Proof.Machine.execPrfm h f s
  | .cctl h f => Sys2Proof.Machine.execCctl h f s
  | .feset h f => Sys2Proof.Machine.execFeset h f s
  | .feqry h f => Sys2Proof.Machine.execFeqry h f s
  | .mcjoin h f => Sys2Proof.Machine.execMcjoin h f s
  | .mcleave h f => Sys2Proof.Machine.execMcleave h f s
  | .acinit h f => Sys2Proof.Machine.execAcinit h f s
  | .arrive h f => Sys2Proof.Machine.execArrive h f s
  | .acfree h f => Sys2Proof.Machine.execAcfree h f s
  | .cpy h f => Sys2Proof.Machine.execCpy h f s
  | .xform h f => Sys2Proof.Machine.execXform h f s
  | .tld h f => Sys2Proof.Machine.execTld h f s
  | .tst h f => Sys2Proof.Machine.execTst h f s
  | .pkld h f => Sys2Proof.Machine.execPkld h f s
  | .pkst h f => Sys2Proof.Machine.execPkst h f s
  | .glaunch h f => Sys2Proof.Machine.execGlaunch h f s
  | .tdone h f => Sys2Proof.Machine.execTdone h f s
  | .racq h f => Sys2Proof.Machine.execRacq h f s
  | .rfill h f => Sys2Proof.Machine.execRfill h f s
  | .rtake h f => Sys2Proof.Machine.execRtake h f s
  | .rfree h f => Sys2Proof.Machine.execRfree h f s
  | .reord h f => Sys2Proof.Machine.execReord h f s
  | .rtnext h f => Sys2Proof.Machine.execRtnext h f s
  | .cutsel h f => Sys2Proof.Machine.execCutsel h f s
  | .shdec h f => Sys2Proof.Machine.execShdec h f s
  | .tex h f => Sys2Proof.Machine.execTex h f s
  | .texg h f => Sys2Proof.Machine.execTexg h f s
  | .texq h f => Sys2Proof.Machine.execTexq h f s
  | .texld h f => Sys2Proof.Machine.execTexld h f s
  | .iattr h f => Sys2Proof.Machine.execIattr h f s
  | .fout h f => Sys2Proof.Machine.execFout h f s
  | .rayq h f => Sys2Proof.Machine.execRayq h f s
  | .primemit h f => Sys2Proof.Machine.execPrimemit h f s
  | .rdsr h f => Sys2Proof.Machine.execRdsr h f s
  | .wrsr h f => Sys2Proof.Machine.execWrsr h f s
  | .trap h f => Sys2Proof.Machine.execTrap h f s
  | .rft h f => Sys2Proof.Machine.execRft h f s
  | .wrir h f => Sys2Proof.Machine.execWrir h f s
  | .rdir h f => Sys2Proof.Machine.execRdir h f s
  | .idiv w => Sys2Proof.Machine.execIdiv w s
  | .irem w => Sys2Proof.Machine.execIrem w s
  | .unassignedOpcode w => Sys2Proof.Machine.execUnassignedOpcode w s
  | .rotationSlot w => Sys2Proof.Machine.execRotationSlot w s
  | .warpAged w => Sys2Proof.Machine.execWarpAged w s
  | .yieldPeriodEnd w => Sys2Proof.Machine.execYieldPeriodEnd w s
  | .demotionEnd w => Sys2Proof.Machine.execDemotionEnd w s
  | .laneExit w l => Sys2Proof.Machine.execLaneExit w l s
  | .loadCompletion op => Sys2Proof.Machine.execLoadCompletion op s
  | .fullEmptyWaitEnd op l => Sys2Proof.Machine.execFullEmptyWaitEnd op l s
  | .lldCompletion op => Sys2Proof.Machine.execLldCompletion op s
  | .matrixSliceStart cid q => Sys2Proof.Machine.execMatrixSliceStart cid q s
  | .mmaCompletion cid q => Sys2Proof.Machine.execMmaCompletion cid q s
  | .ringWaitEnd op => Sys2Proof.Machine.execRingWaitEnd op s
  | .tileIndexTake op => Sys2Proof.Machine.execTileIndexTake op s
  | .engineJobAccept op => Sys2Proof.Machine.execEngineJobAccept op s
  | .engineLineWrite job => Sys2Proof.Machine.execEngineLineWrite job s
  | .engineJobCompletion job => Sys2Proof.Machine.execEngineJobCompletion job s
  | .collectiveReduction ctx gid => Sys2Proof.Machine.execCollectiveReduction ctx gid s
  | .cutselJobAccept op => Sys2Proof.Machine.execCutselJobAccept op s
  | .cutselJobEnd job => Sys2Proof.Machine.execCutselJobEnd job s
  | .rayQueryCompletion op l => Sys2Proof.Machine.execRayQueryCompletion op l s
  | .multicastAsk op l => Sys2Proof.Machine.execMulticastAsk op l s
  | .holdTimerExpiry rec => Sys2Proof.Machine.execHoldTimerExpiry rec s
  | .multicastHeldPartLand rec => Sys2Proof.Machine.execMulticastHeldPartLand rec s
  | .mcjoinDrainEnd op => Sys2Proof.Machine.execMcjoinDrainEnd op s
  | .neighbourEntryArrival cid dir => Sys2Proof.Machine.execNeighbourEntryArrival cid dir s
  | .reorderDrain cid => Sys2Proof.Machine.execReorderDrain cid s
  | .reorderTimerExpiry cid => Sys2Proof.Machine.execReorderTimerExpiry cid s
  | .triangleSetup stack => Sys2Proof.Machine.execTriangleSetup stack s
  | .tileListEntry q => Sys2Proof.Machine.execTileListEntry q s
  | .rasterTileProcess graph pass tile => Sys2Proof.Machine.execRasterTileProcess graph pass tile s
  | .colourTileWriteback graph pass tile => Sys2Proof.Machine.execColourTileWriteback graph pass tile s
  | .displayDeadline plane => Sys2Proof.Machine.execDisplayDeadline plane s
  | .queueNop q => Sys2Proof.Machine.execQueueNop q s
  | .queueSubmit q => Sys2Proof.Machine.execQueueSubmit q s
  | .queueWait q => Sys2Proof.Machine.execQueueWait q s
  | .queueSignal q => Sys2Proof.Machine.execQueueSignal q s
  | .graphAdmission adm => Sys2Proof.Machine.execGraphAdmission adm s
  | .launchQueueAccept op => Sys2Proof.Machine.execLaunchQueueAccept op s
  | .queueDoorbell q v => Sys2Proof.Machine.execQueueDoorbell q v s
  | .queueEnable q v => Sys2Proof.Machine.execQueueEnable q v s
  | .queueDisable q v => Sys2Proof.Machine.execQueueDisable q v s
  | .contextCreate c v => Sys2Proof.Machine.execContextCreate c v s
  | .contextEnd c v => Sys2Proof.Machine.execContextEnd c v s
  | .contextTeardownComplete c => Sys2Proof.Machine.execContextTeardownComplete c s
  | .invalidationStart serial => Sys2Proof.Machine.execInvalidationStart serial s
  | .invalidationComplete => Sys2Proof.Machine.execInvalidationComplete s
  | .pageWalk ctx va acc => Sys2Proof.Machine.execPageWalk ctx va acc s
  | .faultRecordWrite => Sys2Proof.Machine.execFaultRecordWrite s
  | .faultBufferTail v => Sys2Proof.Machine.execFaultBufferTail v s
  | .replayRetry v => Sys2Proof.Machine.execReplayRetry v s
  | .replayFail v => Sys2Proof.Machine.execReplayFail v s
  | .errorBufferTail v => Sys2Proof.Machine.execErrorBufferTail v s
  | .correctableError e => Sys2Proof.Machine.execCorrectableError e s
  | .uncorrectableError e => Sys2Proof.Machine.execUncorrectableError e s
  | .trapEntry w => Sys2Proof.Machine.execTrapEntry w s
  | .waitWatchdogFire w => Sys2Proof.Machine.execWaitWatchdogFire w s
  | .preemptRequest v => Sys2Proof.Machine.execPreemptRequest v s
  | .resumeRequest v => Sys2Proof.Machine.execResumeRequest v s
  | .preemptHalt c => Sys2Proof.Machine.execPreemptHalt c s
  | .mailboxReport => Sys2Proof.Machine.execMailboxReport s
  | .mailboxIdentityKey => Sys2Proof.Machine.execMailboxIdentityKey s
  | .mailboxRetirementList => Sys2Proof.Machine.execMailboxRetirementList s
  | .mailboxProceed env => Sys2Proof.Machine.execMailboxProceed env s
  | .powerOn images => Sys2Proof.Machine.execPowerOn images s
  | .configurationTimeout env => Sys2Proof.Machine.execConfigurationTimeout env s
  | .fundamentalReset => Sys2Proof.Machine.execFundamentalReset s
  | .functionLevelReset => Sys2Proof.Machine.execFunctionLevelReset s
  | .modebootWrite v => Sys2Proof.Machine.execModebootWrite v s
  | .moderunWrite v => Sys2Proof.Machine.execModerunWrite v s
  | .linkDrop port => Sys2Proof.Machine.execLinkDrop port s
  | .linkRetrain port => Sys2Proof.Machine.execLinkRetrain port s
  | .bankSensorRead stack reads => Sys2Proof.Machine.execBankSensorRead stack reads s
  | .hotspotSensorRead stack reads => Sys2Proof.Machine.execHotspotSensorRead stack reads s
  | .powerLoss => Sys2Proof.Machine.execPowerLoss s
  | .bankRefresh cid bank => Sys2Proof.Machine.execBankRefresh cid bank s
  | .refreshEnd cid bank => Sys2Proof.Machine.execRefreshEnd cid bank s
  | .governorStep watts => Sys2Proof.Machine.execGovernorStep watts s
  | .promotionEpochEnd stack => Sys2Proof.Machine.execPromotionEpochEnd stack s
  | .pagePromotion stack frame => Sys2Proof.Machine.execPagePromotion stack frame s
  | .promotionSwitch stack frame => Sys2Proof.Machine.execPromotionSwitch stack frame s
  | .pageDemotion stack frame => Sys2Proof.Machine.execPageDemotion stack frame s
  | .blockWorldChange b secure => Sys2Proof.Machine.execBlockWorldChange b secure s
  | .hostBar2Access write addr n data => Sys2Proof.Machine.execHostBar2Access write addr n data s
  | .l1Eviction cid line => Sys2Proof.Machine.execL1Eviction cid line s
  | .registerWrite off v wide => Sys2Proof.Machine.execRegisterWrite off v wide s
  | .fetchBeyondCodeSegment => Sys2Proof.Machine.execFetchBeyondCodeSegment s

end Sys2Proof.Machine
end

