-- ==== Sys2Proof/Machine/Events.lean ====
section
/-! DEFINITION. The events of the machine's own that may come next (95_what_each_step_holds.md; log entry 2). An event listed here whose
turn has not come after all changes nothing. -/

namespace Sys2Proof.Machine

/-! ## Of a warp -/

/-- The exits that are due (R41). -/
def State.exits (s : State) (w : Nat) : List Instr :=
  (lanesOf (s.warp w).leaving).filterMap (fun l => if s.exitDue w l then some (.laneExit w l) else none)

/-- The events of a warp: its watchdog (R377), a trap that may enter its handler (R415, R416), exits (R41), and the ends of its periods
(R367 to R369). -/
def State.warpEvents (s : State) (e : Nat × Warp) : List Instr :=
  let w := e.1
  let x := e.2
  (if (s.overdue w).isEmpty then [] else [.waitWatchdogFire w])
    ++ (match x.holds with | t :: _ => if s.mayEnter w t then [.trapEntry w] else [] | [] => [])
    ++ s.exits w
    ++ (if x.yieldLeft = 1 then [.yieldPeriodEnd w] else [])
    ++ (if x.demotedLeft = 1 then [.demotionEnd w] else [])
    ++ (if agedDue x && s.ready State.nextWaits w then [.warpAged w] else [])

/-! ## Of an outstanding instruction -/

/-- The event by which a lane of an outstanding instruction that waits looks again, by what it waits for. -/
def retryEvent (id l : Nat) (k : OpWait) : Instr :=
  match k with
  | .fullEmpty => .fullEmptyWaitEnd id l
  | .ring => .ringWaitEnd id
  | .tile | .slotFree | .lag => .tileIndexTake id
  | .engineQueue => .engineJobAccept id
  | .cutQueue => .cutselJobAccept id
  | .launchQueue => .launchQueueAccept id
  | .drain => .mcjoinDrainEnd id
  | .holdRecord => .multicastAsk id l
  | _ => .loadCompletion id

/-- The events by which the lanes of an outstanding instruction that wait look again, each once, in ascending order of lane. -/
def retryEvents (id : Nat) (o : Op) : List Instr :=
  (waitingLanes o).foldl (fun (es : List Instr) l =>
    let e := retryEvent id l (o.waitOf l).1
    if es.contains e then es else es ++ [e]) []

/-- Whether a lane of an outstanding instruction can go no further before it completes: completion is put off no longer than that, so that
the windows of R43 are seen. -/
def State.opNeeded (s : State) (o : Op) : Bool :=
  (s.warp o.w).hmode ≠ 0 || (lanesOf o.lanes).any (s.laneBlocked o.w)

/-- The completion of an outstanding instruction. -/
def completionOf (id : Nat) (o : Op) : Instr :=
  match o.instr with
  | .lld _ _ => .lldCompletion id
  | _ => .loadCompletion id

/-- The events of an outstanding instruction (R43, R165, R228, R268): a matrix instruction's are its slice's. -/
def State.opEvents (s : State) (e : Nat × Op) : List Instr :=
  let o := e.2
  let waiting := waitingLanes o
  if o.mma.isSome then []
  else match o.instr with
    | .rayq _ _ => (if waiting.isEmpty then [] else [.loadCompletion e.1])
        ++ (lanesOf (rayAccepted o &&& o.todo &&& ~~~parkedMask o)).map (fun l => .rayQueryCompletion e.1 l)
    | _ =>
      if o.accepted then []
      else if !waiting.isEmpty then retryEvents e.1 o
      else if opComplete o && s.opNeeded o then [completionOf e.1 o]
      else []

/-- The outstanding instructions that could complete though no lane needs it yet. -/
def State.idleCompletions (s : State) : List Instr :=
  s.ops.filterMap (fun e => if opComplete e.2 && e.2.mma.isNone then some (completionOf e.1 e.2) else none)

/-! ## Of the other units -/

/-- The slices of the matrix engines (R146, R173). -/
def State.sliceEvents (s : State) : List Instr :=
  (s.cores.slices.filterMap (fun e =>
      if e.2.isEmpty || (nmapFind s.cores.running e.1).isSome then none else some (.matrixSliceStart (e.1 / 4) (e.1 % 4))))
    ++ (s.signs.map (fun e => sliceOf (e.1 / 8))).filterMap (fun q =>
      if s.queueFull q || (s.signedFor q).isNone then none else some (.matrixSliceStart (q / 4) (q % 4)))
    ++ s.cores.running.filterMap (fun e =>
      let busy : Bool := !(dmapGet [] s.cores.slices e.1).isEmpty || s.ops.any (fun o => o.2.waits.any (fun x => x.2.1 = .sliceQueue))
      let due : Bool := match nmapFind s.ops e.2 with | some o => s.opNeeded o | none => true
      if busy || due then some (.mmaCompletion (e.1 / 4) (e.1 % 4)) else none)

/-- The slices that could complete though no lane needs it yet. -/
def State.idleSlices (s : State) : List Instr := s.cores.running.map (fun e => .mmaCompletion (e.1 / 4) (e.1 % 4))

/-- Links, engines, multicast, reorder units, set-up and rasterisers. -/
def State.unitEvents (s : State) : List Instr :=
  (s.cores.flight.filterMap (fun e => if e.2.isEmpty then none else some (.neighbourEntryArrival (e.1 / 4) (e.1 % 4))))
    ++ s.jobs.map (fun e => if e.2.out.isEmpty then .engineJobCompletion e.1 else .engineLineWrite e.1)
    ++ s.groups.filterMap (fun e => if s.redReady (e.1 / 256) (e.1 % 256) then some (.collectiveReduction (e.1 / 256) (e.1 % 256)) else none)
    ++ s.cuts.map (fun e => .cutselJobEnd e.1)
    ++ s.holds.flatMap (fun e => (if e.2.timer = some 0 then [.holdTimerExpiry e.1] else [])
        ++ (if e.2.held.any (s.partReady e.2) || (e.2.waiting && s.recordFree e.2.slice) then [.multicastHeldPartLand e.1] else []))
    ++ s.cores.reorder.flatMap (fun e => if e.2.isEmpty then [] else [.reorderDrain e.1, .reorderTimerExpiry e.1])
    ++ s.setup.filterMap (fun e => if e.2.isEmpty then none else some (.triangleSetup e.1))
    ++ s.entries.filterMap (fun e => if e.2.isEmpty then none else some (.tileListEntry e.1))

/-- The raster tiles of one pass that are to be processed or written back (R204, R450). -/
def State.passTiles (s : State) (gid : Nat) (g : Graph) (pi : Nat) (p : PassRec) : List Instr :=
  if !g.isRaster p || !s.geometryDone gid pi then []
  else (g.rasterTiles p).flatMap (fun t =>
    let x := g.rasterTile pi t
    if x.written || (nmapFind g.stall (tileKey pi t)).isSome then [] else if x.processed then [.rasterTileProcess gid pi t, .colourTileWriteback gid pi t] else [.rasterTileProcess gid pi t])

/-- Graphs, admissions and queues. -/
def State.graphEvents (s : State) : List Instr :=
  s.graphs.flatMap (fun e => e.2.enumPasses.flatMap (fun p => s.passTiles e.1 e.2 p.1 p.2))
    ++ s.adms.map (fun e => .graphAdmission e.1)
    ++ s.queues.flatMap (fun e =>
      if e.2.on && e.2.qhead ≠ e.2.qtail then [.queueNop e.1, .queueSubmit e.1, .queueWait e.1, .queueSignal e.1] else [])

/-- Fault records, invalidations, context ends, pre-emptions, promotions and their epochs, and changes of world that waited. -/
def State.cardEvents (s : State) : List Instr :=
  (if s.faults.any (fun f => !f.written) then [.faultRecordWrite] else [])
    ++ (if s.card.igo.isEmpty then [] else [.invalidationComplete])
    ++ s.ctxs.filterMap (fun e => match e.2.phase with
        | .ending => if e.2.live then some (.contextTeardownComplete e.1) else none
        | .halting => some (.preemptHalt e.1)
        | _ => none)
    ++ s.mem.promos.map (fun p => .promotionSwitch p.stack p.frame)
    ++ (match s.card.mbcmd with | 1 => [.mailboxReport] | 2 => [.mailboxIdentityKey] | 3 => [.mailboxRetirementList] | _ => [])
    ++ (List.range 4).filterMap (fun k => if s.epochOver k then some (.promotionEpochEnd k) else none)
    ++ s.worlds.pending.filterMap (fun e => if s.blockIdle e.1 then some (.blockWorldChange e.1 e.2) else none)

/-- The machine's own events that may come next; those of outstanding instructions by rising WHERE (R424), and of one warp in issue order. -/
def State.events (s : State) : List Instr :=
  s.warps.flatMap s.warpEvents ++ s.sliceEvents ++ s.unitEvents ++ s.graphEvents ++ s.cardEvents
    ++ (sortBy (fun (a b : Nat × Op) => decide (s.whereOf a.2.w ≤ s.whereOf b.2.w)) s.ops).flatMap s.opEvents

/-- What may still complete when no warp can issue. -/
def State.idleEvents (s : State) : List Instr := s.idleCompletions ++ s.idleSlices

end Sys2Proof.Machine
end

