-- ==== Sys2Proof/Machine/Run.lean ====
section
/-! DEFINITION. The order of the machine's steps: what comes next, and the issue of the selected lane set (log entry 2). -/

namespace Sys2Proof.Machine

/-- An outcome's state changed. -/
def andThen (o : Out) (f : State → State) : Out :=
  match o with
  | .next s => .next (f s)
  | .fault r => .fault r
  | .refused r => .refused r

/-- The current lane set fetches and issues its instruction; the set beside it comes next. -/
def State.issueCur (s : State) : Out :=
  match s.fetch s.cur.w s.cur.pc with
  | (s1, .word x) => andThen (exec (decode x) { s1 with cur := { s1.cur with word := x } }) State.takeSecond
  | (s1, .beyond) => andThen (exec .fetchBeyondCodeSegment s1) State.takeSecond
  | (s1, .park va kind level e) => .next (s1.parkFetch va kind level e).takeSecond
  | (s1, .cause c sub a) => .next (s1.raiseFetch c sub a).takeSecond
  | (s1, .wait) => .next s1.takeSecond

/-- The warp selected takes its issue slot (R364): in a rotation slot (R365) the selection is a step of its own. -/
def State.issueWarp (s : State) (w : Nat) : Out :=
  if rotationDue (s.warp w) then exec (.rotationSlot w) s else (s.takeSlot State.nextWaits w false).issueCur

/-- A slot of the machine (R362, R367, R375): a ready warp of a quarter that has had none in this cycle issues; when there is none, the cycle
ends. In a cycle in which no warp was ready something outstanding completes. -/
def State.runSlot (s : State) : Out :=
  match s.nextWarp State.nextWaits with
  | some w => State.issueWarp { s with served := w / 16 :: s.served } w
  | none => match (if s.served.isEmpty then s.idleEvents else []) with
    | e :: _ => exec e s.passCycle
    | [] => .next s.passCycle

/-- A sweep over the machine's own events: all that may come next are named to come. -/
def State.sweep (s : State) : Out :=
  match s.events with
  | e :: rest => exec e { s with agenda := rest, poll := 1 }
  | [] => State.runSlot { s with poll := 0 }

/-- One step (log entry 2): the step named to come; else the issue of the lane set selected; else a sweep over the machine's own events, and
after it a slot. -/
def stepOnce (s : State) : Out :=
  match s.agenda with
  | e :: rest => exec e { s with agenda := rest }
  | [] =>
    if s.cur.mask ≠ 0 then s.issueCur
    else if s.poll = 0 then s.sweep
    else State.runSlot { s with poll := 0 }

/-- The launch record of a program of one instruction placed at address 0 of its context. -/
def placedLaunch : LaunchRec := { LaunchRec.empty with codelen := 1 }

/-- A warp of 32 lanes at pc 0 of a context 0 that is live, in slot 0 of core 0, whose first instruction is `bytes`, selected to
issue (log entry 2). -/
def State.placeProgram (s : State) (bytes : List Byte) : State :=
  let base := s.cardNo * 2 ^ 50
  let wg : Wg :=
    { Wg.empty with warps := 1, wgx := 32, nv := 256, ns := 1024, launch := placedLaunch,
                    cores := [{ WgCore.empty with nwarp := 1, ssize := 1024, csize := 128, lsize := 2 ^ 18, accn := 32 }] }
  let x : Warp := { Warp.empty with launched := 0xFFFFFFFF#32, exited := 0, nv := 256, ns := 1024 }
  let t : TlbEntry :=
    { ctx := 0, va := 0, size := 2 ^ 20, frame := base, host := false, w := true, x := true, unit := 192, level := 6 }
  { s with
    agenda := []
    cur := { w := 0, mask := 0xFFFFFFFF#32, pc := 0, word := 0, second := none }
    card := { s.card with stage := 5 }
    ctxs := nmapSet s.ctxs 0 { Ctx.reset with valid := true, live := true, phase := .running }
    wgs := nmapSet s.wgs 0 wg
    warps := nmapSet s.warps 0 x
    ops := s.ops.filter (fun (e : Nat × Op) => e.2.w ≠ 0)
    signs := s.signs.filter (fun (e : Nat × Sign) => decide (8 ≤ e.1))
    regs := { s.regs with pc := (List.range 32).foldl (fun m l => nmapSet m l 0#32) s.regs.pc }
    mem := { s.mem with home := putBytes s.mem.home base bytes, tlb := t :: s.mem.tlb, icache := [] } }

end Sys2Proof.Machine
end

