-- ==== Sys2Proof/Machine/Step.lean ====
section
/-! DEFINITION. The step of the machine, and the placing of one instruction where the step fetches next. -/

namespace Sys2Proof.Machine

/-- One step of the machine. -/
def step (s : State) : Host.Outcome State Fault Refusal := stepOnce s

/-- `s` with an instruction's words stored where `step` fetches its next instruction (log entry 2). -/
def State.withFetchWord (s : State) (_nbits w : Nat) : State := s.placeProgram (bytesOfWord (BitVec.ofNat 96 w))

end Sys2Proof.Machine
end

