-- ==== Sys2Proof/Safety.lean ====
section
/-! DEFINITION. What counts as a safe run, and the words in which the statements speak of an instruction that issues: when a selected
lane set can issue it, and the state in which its own effect leaves the machine. -/

namespace Sys2Proof.Machine

/-- An outcome in which the machine goes on: no instruction and no event stops it, for a cause goes to a handler or ends a context (R413). -/
def GoesOn (o : Out) : Prop := ∃ t, o = .next t

/-- The invariant of the machine's memory: both stores are in canonical form (log entry 3). -/
def State.Inv (s : State) : Prop := s.mem.wf = true

/-! ## Issue -/

/-- The lanes of M of an instruction that the selected set issues: those with a true guard (R36). -/
def State.activeSet (s : State) (h : Hdr) : Mask := s.guardMask h s.cur.w s.cur.mask

/-- The selected lanes whose guard is false (R36). -/
def State.offSet (s : State) (h : Hdr) : Mask := s.cur.mask &&& ~~~s.activeSet h

/-- Where a lane of the selected set reads the operands of its instruction, which acts for the lanes `m`. -/
def State.rdFor (s : State) (m : Mask) (l : Nat) : Rd := { w := s.cur.w, l := l, mask := s.cur.mask, m := m, pc := s.cur.pc }

/-- The same for the lanes of M. -/
def State.rdAt (s : State) (h : Hdr) (l : Nat) : Rd := s.rdFor (s.activeSet h) l

/-- When every lane of the selected set issues an instruction without a wait and without a cause that comes before the operation itself
(R43 to R46, R56, R63, R64, R362, R429): the word is an instruction, no lane is blocked, no register it names is pending, beyond the
allocation or, where a lane of M reads it, poisoned. -/
structure State.CanIssue (s : State) (h : Hdr) (ck : Check) : Prop where
  ok : ck.ok = true
  free : ∀ l ∈ lanesOf s.cur.mask, s.laneBlocked s.cur.w l = false
  ready : ∀ l ∈ lanesOf s.cur.mask, ∀ u ∈ (if s.guardTrue h s.cur.w l then ck.uses else guardUses h), s.waitUse s.cur.w l u = false
  alloc : ∀ l ∈ lanesOf s.cur.mask, ∀ u ∈ ck.uses, regaUse (s.warp s.cur.w) (s.inHandler s.cur.w l) u = false
  settled : ∀ l ∈ lanesOf s.cur.mask, ∀ u ∈ (if s.guardTrue h s.cur.w l then ck.uses else guardUses h), s.lavUse s.cur.w l u = false
  clean : ∀ l ∈ lanesOf (s.activeSet h), ∀ u ∈ ck.uses, poisonUse s.mem.poison s.cur.w l (s.inHandler s.cur.w l) u = false

/-- The state after a fixed-latency instruction (R36 to R39, R57, R60): the registers that the lanes of M write, each value read from
the state before, the flags ORed into %fpflags, and the lanes' next pc. -/
def State.landed (s : State) (h : Hdr) (out : State → Rd → LaneOut) : State :=
  let outs := (lanesOf (s.activeSet h)).map (fun l => (l, out s (s.rdAt h l)))
  let s1 := (s.applyWrites s.cur.w (laneWrites outs)).orFlags s.cur.w (outs.foldl (fun f e => f ||| e.2.fl) 0)
  s1.advance s h s.cur.w s.cur.pc (s.activeSet h) (s.offSet h)

/-- A fixed-latency instruction completes: in every state in which the selected set can issue it, the machine goes on to the state
in which the lanes of M have taken `out`. -/
def Completes (i : Instr) (h : Hdr) (out : State → Rd → LaneOut) : Prop :=
  ∀ s : State, s.CanIssue h (checkOf i) → exec i s = .next (s.landed h out)

/-! ## Long-latency instructions -/

/-- When the selected set issues a long-latency instruction (R378, R379 beside R64): the records of parked instructions hold no lane back,
and for the lanes of M the operation itself has nothing to wait for and no cause of its own; and some lane's guard is true. -/
structure State.CanIssueLong (s : State) (i : Instr) (h : Hdr) (op : LongOp) : Prop extends s.CanIssue h (checkOf i) where
  records : ∀ l ∈ lanesOf s.cur.mask, s.recordWaits op.pipe s.cur.w l = false
  still : ∀ l ∈ lanesOf (s.activeSet h), op.wait s (s.rdFor 0 l) = false
  free0 : ∀ l ∈ lanesOf s.cur.mask, op.pre s (s.rdFor 0 l) = none
  sound : ∀ l ∈ lanesOf (s.activeSet h), op.cause s (s.rdAt h l) = none
  acts : s.activeSet h ≠ 0

/-- The state in which a long-latency instruction is outstanding and none of its parts has been tried (R43, R44). -/
def State.issued (s : State) (i : Instr) (h : Hdr) (op : LongOp) : State :=
  { s with serial := s.serial + 1 }.setOp (s.serial + 1)
    (newOp i h op s s.cur.w s.cur.pc s.cur.word s.cur.mask (s.activeSet h) (s.serial + 1))

/-- What one lane's part does: from a state, the instruction's record and the lane, to a state and how the part goes. -/
abbrev PartSpec := State → Op → Nat → State → Perf → Prop

/-- The record after one part: `o` is the record before it. A part performed or accepted is no longer to be done; the registers
of one performed are kept for completion, a shared one from the lowest lane (R43, R46, R57). -/
def partDone (once : Bool) (o : Op) (l : Nat) (p : Perf) (x : Op) : Op :=
  let ls := if once then lanesOf o.lanes else [l]
  let y := { x with todo := x.todo &&& ~~~bit32 l, waits := nmapErase x.waits l, parked := ls.foldl nmapErase x.parked,
                    count := ls.foldl nmapErase x.count }
  match p with
  | .done ws => { y with writes := x.writes ++ ws.filter (fun r => !r.shared || l = opLead o) }
  | .accept => { y with accepted := true }
  | .wait k obj => x.setWait l ls k obj
  | .park _ _ _ _ | .trap _ _ _ => x

/-- The state after one part. The acceptance of an instruction by its engine ends a PAUSE of the warp (R46, R369). -/
def partLeft (once : Bool) (id : Nat) (o : Op) (l : Nat) (p : Perf) (s : State) : State :=
  let t := s.modOp id (partDone once o l p)
  match p with
  | .accept => t.endDemotion o.w
  | .wait _ _ => t.acceptWake id o.w
  | _ => t

/-- The parts of an instruction taken in ascending order of lane (R238), each as `part` says; none comes after an earlier access of its lane
that is still open (R238, R244). -/
def Performs (once : Bool) (part : PartSpec) (id : Nat) (ls : List Nat) (s t : State) : Prop :=
  match ls with
  | [] => t = s
  | l :: rest =>
    ∃ o s1 p, nmapFind s.ops id = some o ∧ o.todo.getLsbD l = true ∧ s.partHeld o l = false ∧ part s o l s1 p
      ∧ Performs once part id rest (partLeft once id o l p s1) t

/-- A long-latency instruction issues and is performed: whenever each part goes as `part` says, the machine goes on to the state they
leave, in which the lanes have moved on by NXT. Its registers are written at its completion. -/
def CompletesLong (i : Instr) (h : Hdr) (op : LongOp) (part : PartSpec) : Prop :=
  ∀ s t : State, s.CanIssueLong i h op →
    Performs op.once part (s.serial + 1) (lanesOf (if op.once then bit32 ((leadOf (s.activeSet h)).getD 0) else s.activeSet h))
      (s.issued i h op) t →
    exec i s = .next (t.advance s h s.cur.w s.cur.pc (s.activeSet h) (s.offSet h))

/-- A value written to a register of every lane of an instruction that acts once for its warp. -/
def everyLane (o : Op) (hm : Bool) (dst : Opnd) (ws : Nat → List Word) : Perf :=
  .done ((lanesOf o.lanes).flatMap (fun j => dstWords hm dst j (ws j)))

/-! ## Warp-wide instructions -/

/-- The members of a convergence register among the selected lanes. -/
def State.newSigners (s : State) (k : Nat) : Mask := s.cur.mask &&& s.regs.getCv s.cur.w k

/-- The selected lanes that are no members take their transfer and no part (R371). -/
def State.outsidersGone (s : State) (h : Hdr) (k : Nat) : State :=
  let out := s.cur.mask &&& ~~~s.regs.getCv s.cur.w k
  s.advance s h s.cur.w s.cur.pc (out &&& s.activeSet h) (out &&& ~~~s.activeSet h)

/-- The signatures with those of the selected lanes added (R371), without the operand values that a trap of the round would record. -/
def State.round (s : State) (i : Instr) (h : Hdr) (k : Nat) : Sign :=
  let g := s.sign s.cur.w k
  let new := s.newSigners k
  { signed := g.signed ||| new, guard := (g.guard &&& ~~~new) ||| (new &&& s.activeSet h), pc := s.cur.pc, word := s.cur.word,
    instr := some i, count := g.count, passed := g.passed &&& ~~~new, recs := [], susp := g.susp }

/-- The reader of a warp-wide operation for the lanes C. -/
def State.rdWide (s : State) (g : Sign) : Rd :=
  { w := s.cur.w, l := (leadOf g.acting).getD 0, mask := g.signed, m := g.acting, pc := s.cur.pc }

/-- The state in which the round is over and the operation executes. -/
def State.roundOver (s : State) (h : Hdr) (k : Nat) : State := (s.outsidersGone h k).setSign s.cur.w k Sign.none

/-- When the selected set signs a warp-wide instruction without a wait or a cause, at the pc that the earlier signers recorded (R371,
R373). -/
structure State.CanSign (s : State) (i : Instr) (h : Hdr) (k : Nat) (op : WideOp) : Prop extends s.CanIssue h (checkOf i) where
  records : ∀ l ∈ lanesOf s.cur.mask, s.recordWaits (if op.long then .x else .c) s.cur.w l = false
  still : ∀ l ∈ lanesOf (s.activeSet h), op.wait s (s.rdFor 0 l) = false
  free0 : ∀ l ∈ lanesOf s.cur.mask, op.pre s (s.rdFor 0 l) = none
  sound : ∀ l ∈ lanesOf (s.activeSet h), op.cause s (s.rdFor s.cur.mask l) = none
  signs : s.newSigners k ≠ 0
  samePc : (s.sign s.cur.w k).signed ≠ 0 → (s.sign s.cur.w k).pc = s.cur.pc

/-- When that completes the round, and the operation has room and no cause of its execution (R146, R372). -/
structure State.CanExecute (s : State) (i : Instr) (h : Hdr) (k : Nat) (op : WideOp) : Prop extends s.CanSign i h k op where
  complete : s.regs.getCv s.cur.w k &&& ~~~((s.round i h k).signed &&& ((s.outsidersGone h k).warp s.cur.w).live) = 0
  roomy : op.full (s.outsidersGone h k) s.cur.w = false
  causeless : (s.round i h k).acting ≠ 0 → op.late (s.roundOver h k) (s.rdWide (s.round i h k)) = none

/-- The state after a warp-wide instruction of fixed latency: each lane of C takes `out`, read from the state of its execution, and every
signer that waited moves on (R137, R372). -/
def State.landedWide (s : State) (i : Instr) (h : Hdr) (k : Nat) (out : State → Rd → Nat → LaneOut) : State :=
  let g := s.round i h k
  let s1 := s.roundOver h k
  let outs := (lanesOf g.acting).map (fun l => (l, out s1 (s.rdWide g) l))
  let s2 := if g.acting = 0 then s1
    else (s1.applyWrites s.cur.w (laneWrites outs)).orFlags s.cur.w (outs.foldl (fun f e => f ||| e.2.fl) 0)
  s2.advance s1 h s.cur.w s.cur.pc (g.waiting &&& g.guard) (g.waiting &&& ~~~g.guard)

/-- A warp-wide instruction of fixed latency completes. -/
def CompletesWide (i : Instr) (h : Hdr) (k : Nat) (op : WideOp) (out : State → Rd → Nat → LaneOut) : Prop :=
  ∀ s : State, s.CanExecute i h k op → exec i s = .next (s.landedWide i h k out)

/-- The state in which a warp-wide long-latency instruction executes: the signers have moved on. -/
def State.signersGone (s : State) (i : Instr) (h : Hdr) (k : Nat) : State :=
  let g := s.round i h k
  (s.roundOver h k).advance (s.roundOver h k) h s.cur.w s.cur.pc (g.waiting &&& g.guard) (g.waiting &&& ~~~g.guard)

/-- The state in which it is outstanding, its part not yet tried. -/
def State.issuedWide (s : State) (i : Instr) (h : Hdr) (k : Nat) (op : LongOp) : State :=
  let t := s.signersGone i h k
  let g := s.round i h k
  { t with serial := t.serial + 1 }.setOp (t.serial + 1)
    { newOp i h op t s.cur.w s.cur.pc ((encode i).getD 0) g.signed g.acting (t.serial + 1) with
      win := (lanesOf g.acting).map (fun l => (l, h.la.toNat))
      undo := (s.roundOver h k).undoNxt h s.cur.w (lanesOf (g.waiting &&& g.guard)) }

/-- A warp-wide long-latency instruction executes and is performed (R52, R372). -/
def CompletesWideLong (i : Instr) (h : Hdr) (k : Nat) (wop : WideOp) (op : LongOp) (part : PartSpec) : Prop :=
  ∀ s t : State, s.CanExecute i h k wop → (s.round i h k).acting ≠ 0 →
    Performs true part ((s.signersGone i h k).serial + 1) [(leadOf (s.round i h k).acting).getD 0] (s.issuedWide i h k op) t →
    exec i s = .next t

/-! ## Traps -/

/-- The state of the selected set's warp once the lanes of M hold a trap: the lanes with a false guard have moved on (R64, R415). -/
def State.holding (s : State) (h : Hdr) (t : Trap) : State :=
  let s1 := s.advance s h s.cur.w s.cur.pc 0 (s.offSet h)
  s1.setWarp s.cur.w { s1.warp s.cur.w with holds := [t] }

/-- When a cause that the lanes of M raise is taken to the warp's handler at once (R413, R415, R416): it is not fatal, the warp has a
handler, no lane of it is in handler mode or holds a trap, nothing the lanes issued is outstanding, and the frame can be written. -/
structure State.CanTrap (s : State) (h : Hdr) (t : Trap) (s1 : State) : Prop where
  cause : t.cause.fatal = false
  acts : s.activeSet h ≠ 0
  handler : (s.warp s.cur.w).traphandler ≠ 0xFFFFFFFF#32
  normal : (s.warp s.cur.w).hmode = 0
  none : (s.warp s.cur.w).holds = []
  settled : ∀ e ∈ s.ops, e.2.w ≠ s.cur.w
  frame : (s.holding h t).writeFrame s.cur.w t = .ok s1

/-- The trap that the lanes of M of the selected set raise (R415, R417, R418). -/
def State.trapOf (s : State) (h : Hdr) (c : Cause) (sub : Nat) (slots : State → Rd → LaneRec) : Trap :=
  { cause := c, sub := sub, lanes := s.activeSet h, word := s.cur.word, fav := causeFav c, repl := false,
    recs := (lanesOf (s.activeSet h)).map (fun l => { slots s (s.rdFor 0 l) with lane := l, addr := 0 }), op := none }

/-- The state of the selected set's warp once every lane of the set holds a trap (R64, R415). -/
def State.holdingAll (s : State) (h : Hdr) (t : Trap) : State :=
  let s1 := s.advance s h s.cur.w s.cur.pc 0 0
  s1.setWarp s.cur.w { s1.warp s.cur.w with holds := [t] }

/-- When a cause that every lane of the selected set raises, whatever its guard, is taken to the warp's handler at once (R64, R413, R415,
R416). -/
structure State.CanTrapAll (s : State) (h : Hdr) (t : Trap) (s1 : State) : Prop where
  cause : t.cause.fatal = false
  acts : s.cur.mask ≠ 0
  free : ∀ l ∈ lanesOf s.cur.mask, s.laneBlocked s.cur.w l = false
  handler : (s.warp s.cur.w).traphandler ≠ 0xFFFFFFFF#32
  normal : (s.warp s.cur.w).hmode = 0
  none : (s.warp s.cur.w).holds = []
  settled : ∀ e ∈ s.ops, e.2.w ≠ s.cur.w
  frame : (s.holdingAll h t).writeFrame s.cur.w t = .ok s1

/-- The trap that every lane of the selected set raises (R415, R417, R418). -/
def State.trapAll (s : State) (c : Cause) (slots : State → Rd → LaneRec) : Trap :=
  { cause := c, sub := 0, lanes := s.cur.mask, word := s.cur.word, fav := causeFav c, repl := false,
    recs := (lanesOf s.cur.mask).map (fun l => { slots s (s.rdFor 0 l) with lane := l, addr := 0 }), op := none }

/-! ## Frames -/

/-- Whether a destination names a vector register, of one or of two. -/
def namesV (o : Opnd) (wide : Bool) (n : Nat) : Bool :=
  match o with | .v k => n = k.toNat || (wide && n = k.toNat + 1) | _ => false

/-- Whether a destination names a scalar register, of one or of two. -/
def namesS (o : Opnd) (wide : Bool) (n : Nat) : Bool :=
  match o with | .s k => n = k.toNat || (wide && n = k.toNat + 1) | _ => false

/-- What a register-only instruction leaves as it was (R36 to R38, R57): everything but the registers, the poison marks that a write
takes away, the warps' records and the lookahead windows of outstanding instructions; of the registers, all but the destination in the lanes of M, and lk and lc where
NXT writes them; of the warp's record, all but the lanes marked as leaving, the waits of CVSET that end, and what is left of completed
instructions' windows. -/
structure RegFrame (s t : State) (h : Hdr) (dst : Opnd) (wide : Bool) : Prop where
  rest : t = { s with regs := t.regs, warps := t.warps, ops := t.ops, mem := { s.mem with poison := t.mem.poison } }
  warps : ∀ v, v ≠ s.cur.w → t.warp v = s.warp v
  record : t.warp s.cur.w =
    { s.warp s.cur.w with leaving := (t.warp s.cur.w).leaving, cvsetWait := (t.warp s.cur.w).cvsetWait, wins := (t.warp s.cur.w).wins }
  ops : t.ops.map (fun e => (e.1, { e.2 with win := [] })) = s.ops.map (fun e => (e.1, { e.2 with win := [] }))
  vectors : ∀ w l n, l < 32 → n < 256 → (w ≠ s.cur.w ∨ (s.activeSet h).getLsbD l = false ∨ namesV dst wide n = false) →
    t.regs.getV w l n = s.regs.getV w l n
  scalars : ∀ w n, n < 1024 → (w ≠ s.cur.w ∨ namesS dst wide n = false) → t.regs.getS w n = s.regs.getS w n
  preds : ∀ w l n, l < 32 → n < 16 → (w ≠ s.cur.w ∨ (s.activeSet h).getLsbD l = false ∨ dst ≠ .p (BitVec.ofNat 4 n)) →
    t.regs.getP w l n = s.regs.getP w l n
  targets : ∀ w l n, l < 32 → n < 8 → (w ≠ s.cur.w ∨ (s.activeSet h).getLsbD l = false ∨ dst ≠ .bt (BitVec.ofNat 3 n)) →
    t.regs.getBt w l n = s.regs.getBt w l n
  counters : ∀ w l n, l < 32 → n < 4 → (w ≠ s.cur.w ∨ (s.activeSet h).getLsbD l = false ∨ (dst ≠ .lc (BitVec.ofNat 2 n) ∧ h.nxt ≠ .loop)) →
    t.regs.getLc w l n = s.regs.getLc w l n
  links : ∀ w l, l < 32 → (w ≠ s.cur.w ∨ (s.activeSet h).getLsbD l = false ∨ (dst ≠ .lk ∧ h.nxt ≠ .call)) → t.regs.getLk w l = s.regs.getLk w l
  sets : ∀ w n, n < 8 → (w ≠ s.cur.w ∨ dst ≠ .cv (BitVec.ofNat 3 n)) → t.regs.getCv w n = s.regs.getCv w n
  gens : t.regs.rng = s.regs.rng
  pcs : ∀ w l, l < 32 → (w ≠ s.cur.w ∨ s.cur.mask.getLsbD l = false) → t.regs.getPc w l = s.regs.getPc w l
  banks : (∀ l ∈ lanesOf s.cur.mask, s.inHandler s.cur.w l = false) → t.regs.hv = s.regs.hv ∧ t.regs.hs = s.regs.hs

/-- A pair has an even number; no other is a register pair (R56). -/
def evenPair (o : Opnd) : Bool :=
  match o with | .v k => k.toNat % 2 = 0 | .s k => k.toNat % 2 = 0 | _ => true

/-- An instruction that only writes its destination, a register or a pair of an even number, completes and leaves the rest as it was. -/
def KeepsRest (i : Instr) (h : Hdr) (dst : Opnd) (wide : Bool) : Prop :=
  ∀ s : State, s.CanIssue h (checkOf i) → (wide = true → evenPair dst = true) → ∃ t, exec i s = .next t ∧ RegFrame s t h dst wide

/-- The same for a floating instruction (R36 to R38, R57, R60, R108): besides its destination it only ORs flags into %fpflags of its warp, and
steps the generators of lanes of M. -/
def FloatKeepsRest (i : Instr) (h : Hdr) (dst : Opnd) (wide : Bool) : Prop :=
  ∀ s : State, s.CanIssue h (checkOf i) → (wide = true → evenPair dst = true) → ∃ t, exec i s = .next t ∧
    RegFrame s { t with regs := { t.regs with rng := s.regs.rng },
                        warps := nmapModify t.warps s.cur.w (fun (x : Warp) => { x with fpflags := (s.warp s.cur.w).fpflags }) } h dst wide ∧
    (s.warp s.cur.w).fpflags &&& ~~~(t.warp s.cur.w).fpflags = 0 ∧
    ∀ w l, l < 32 → (w ≠ s.cur.w ∨ (s.activeSet h).getLsbD l = false) → t.regs.getRng w l = s.regs.getRng w l

/-- What an instruction in its lanes' transfers may write of the registers before its completion: pc, lk and lc (R36 to R38); the rest is kept. -/
def RegsKept (a b : RegFile) : Prop := { b with pc := a.pc, lk := a.lk, lc := a.lc } = a

/-- Every byte of device memory but the `n` bytes from an address on reads as before, for every core (R239). A byte whose home lies among
theirs, by another address of one promoted frame, is not meant. -/
def DeviceKeeps (s t : State) (pa n : Nat) : Prop :=
  pa + n ≤ 2 ^ 52 → ∀ cid b nol1, b < 2 ^ 52 → (b < pa ∨ pa + n ≤ b) → (s.homePa b < s.homePa pa ∨ s.homePa pa + n ≤ s.homePa b) →
    t.coreByte cid b nol1 = s.coreByte cid b nol1

/-- The same where a release writes back and an acquire or a read drops copies (R239, R244): such a byte, when it has its home to itself, reads
as before, or as its home or the acting core read it before; no other value comes up. -/
def DeviceOld (s t : State) (cid pa n : Nat) : Prop :=
  pa + n ≤ 2 ^ 52 → ∀ c b nol1, b < 2 ^ 52 → (∀ a, s.homePa a = s.homePa b → a = b) → (b < pa ∨ pa + n ≤ b) →
    (s.homePa b < s.homePa pa ∨ s.homePa pa + n ≤ s.homePa b) →
    t.coreByte c b nol1 = s.coreByte c b nol1 ∨ t.coreByte c b nol1 = s.homeByte b ∨ t.coreByte c b nol1 = s.coreByte cid b false

/-- A run of bytes of a core's block of the window (R233). -/
structure BlockRun where
  cid : Nat
  ofs : Nat
  n : Nat
  deriving DecidableEq, Repr

/-- Whether runs hold a byte of a block. -/
def runsHold (rs : List BlockRun) (cid o : Nat) : Prop := ∃ r ∈ rs, r.cid = cid ∧ r.ofs ≤ o ∧ o < r.ofs + r.n

/-- Every byte of a register, of the loft or of an accumulator that does not lie in one of the runs, by its place in the views of R233, is kept. -/
def ViewsKeep (s t : State) (rs : List BlockRun) : Prop :=
  (∀ w l k j, l < 32 → k < 256 → j < 4 → ¬ runsHold rs (w / 64) (0x100000 + 0x8000 * (w % 64) + 0x80 * k + 4 * l + j) →
    (t.regs.getV w l k).extractLsb' (8 * j) 8 = (s.regs.getV w l k).extractLsb' (8 * j) 8) ∧
  (∀ w k j, k < 1024 → j < 4 → ¬ runsHold rs (w / 64) (0x300000 + 0x1000 * (w % 64) + 4 * k + j) →
    (t.regs.getS w k).extractLsb' (8 * j) 8 = (s.regs.getS w k).extractLsb' (8 * j) 8) ∧
  (∀ a, ¬ runsHold rs (a / 2 ^ 18) (0x340000 + a % 2 ^ 18) → dmapGet 0 t.cores.loft a = dmapGet 0 s.cores.loft a) ∧
  (∀ k j, j < 4 → ¬ runsHold rs (k / 2 ^ 16) (0x380000 + 4 * (k % 2 ^ 16) + j) →
    (dmapGet 0 t.cores.acc k).extractLsb' (8 * j) 8 = (dmapGet 0 s.cores.acc k).extractLsb' (8 * j) 8) ∧
  RegsKept s.regs { t.regs with v := s.regs.v, s := s.regs.s }

/-- Whether a run lies in the views of a block, and in the loft's alone where it starts before the accumulators (R233). -/
def BlockRun.inViews (r : BlockRun) : Prop := 0x100000 ≤ r.ofs ∧ r.ofs + r.n ≤ 0x3C0000 ∧ (0x380000 ≤ r.ofs ∨ r.ofs + r.n ≤ 0x380000)

/-- What a store of `n` bytes to a target leaves as it was, in each kind of storage: `dev` says it of device memory outside a run of addresses, `q`
says who stores, `m` is the state in which its address is translated, and `fe` whether it sets its granule full (R239, R266). -/
def StoreFrame (dev : Nat → Nat → Prop) (m s t : State) (q : Who) (tgt : Target) (n : Nat) (fe : Bool) : Prop :=
  let sram : Prop := t.cores.scratch = s.cores.scratch ∧ t.cores.fe = s.cores.fe
  let views : Prop := t.cores.loft = s.cores.loft ∧ t.cores.acc = s.cores.acc ∧ RegsKept s.regs t.regs
  let host : Prop := t.mem.host = s.mem.host
  t = { s with regs := t.regs, warps := t.warps, ops := t.ops, mem := t.mem, stackRegs := t.stackRegs,
               cores := { s.cores with scratch := t.cores.scratch, fe := t.cores.fe, loft := t.cores.loft, acc := t.cores.acc } } ∧
  match tgt with
  | .sram cid o _ =>
    (∀ a, a < cid * 2 ^ 20 + o ∨ cid * 2 ^ 20 + o + n ≤ a → dmapGet 0 t.cores.scratch a = dmapGet 0 s.cores.scratch a) ∧
      (∀ k, (fe = false ∨ k ≠ cid * 2 ^ 16 + o / 16) → dmapGet false t.cores.fe k = dmapGet false s.cores.fe k) ∧ views ∧ host ∧ dev 0 0
  | .column cid o => dev (s.columnPa cid o) n ∧ sram ∧ views ∧ host
  | .phys pa => dev pa n ∧ sram ∧ views ∧ host
  | .virt va => match m.translateAt q.cid q.ctx va .write with
    | (_, .to true a) => (∀ b, b < a ∨ a + n ≤ b → dmapGet 0 t.mem.host b = dmapGet 0 s.mem.host b) ∧ sram ∧ views ∧ dev 0 0
    | (_, .to false pa) => dev pa n ∧ sram ∧ views ∧ host
    | _ => dev 0 0 ∧ sram ∧ views ∧ host
  | .view cid o => sram ∧ host ∧ dev 0 0 ∧ ((⟨cid, o, n⟩ : BlockRun).inViews → ViewsKeep s t [⟨cid, o, n⟩])
  | .zero | .remote _ => sram ∧ views ∧ host ∧ dev 0 0

/-- What a load of `n` bytes at a target leaves as it was: every byte of every storage, and every register, which is written at completion only
(R43). The line that is read may replace the core's older copy of it (R237 to R239): then a byte of it reads as its home does. Every other
byte reads as before, for every core. -/
def LoadKeeps (s t : State) (q : Who) (tgt : Target) (n : Nat) : Prop :=
  let device (pa : Nat) : Prop := pa + n ≤ 2 ^ 52 → ∀ cid b nol1, b < 2 ^ 52 →
    t.coreByte cid b nol1 = s.coreByte cid b nol1 ∨
      (cid = q.cid ∧ pa / 128 ≤ b / 128 ∧ b / 128 ≤ (pa + n - 1) / 128 ∧ t.coreByte cid b nol1 = s.homeByte b)
  t.mem.home = s.mem.home ∧ t.mem.host = s.mem.host ∧ t.mem.moved = s.mem.moved ∧ t.cores.scratch = s.cores.scratch ∧
  t.cores.fe = s.cores.fe ∧ t.cores.loft = s.cores.loft ∧ t.cores.acc = s.cores.acc ∧ RegsKept s.regs t.regs ∧
  match tgt with
  | .phys pa => device pa
  | .column cid o => device (s.columnPa cid o)
  | .virt va => (match s.translateAt q.cid q.ctx va .read with
    | (_, .to false pa) => device pa
    | _ => t.mem.l1 = s.mem.l1)
  | _ => t.mem.l1 = s.mem.l1

/-! ## Parts of the long-latency instructions -/

/-- A core's reader of a warp. -/
def whoAt (s : State) (o : Op) (nol1 : Bool) : Who := ⟨(s.warp o.w).ctx, warpCid o.w, nol1⟩

/-- LD (R244, R265, R266): the bytes are read, at the home after the core's own written bytes of them for an acquire wider than the core; a
granule with .feclear becomes empty, and an acquire follows. -/
def partLd (f : MForm) : PartSpec := fun s o l t p =>
  ∃ tgt s0 s1 bs, s.place o.w (opRec o l) f.space (opRec o l).addr.toNat false = .here tgt ∧
    (f.fe = .ignore ∨ s.feHolds (s.warp o.w).ctx tgt true = false) ∧
    (if f.ord = .acq && scopeWide f.scope then s.flushPlace (s.warp o.w).ctx (warpCid o.w) tgt (widthBytes f.width) else (s, false))
      = (s0, false) ∧
    s0.access (whoAt s o (f.cache = .nol1 || (f.ord = .acq && scopeWide f.scope))) tgt (opRec o l).addr.toNat (widthBytes f.width) none
      = (s1, .ok bs) ∧
    t = (let s2 := if f.fe = .clear then s1.feThrough (s.warp o.w).ctx tgt false else s1
         if f.ord = .acq then s2.acquireAt (warpCid o.w) f.scope else s2) ∧
    p = .done (dstWords (opRec o l).hm f.dst l (loadWords f.width bs))

/-- ST (R244, R265, R266): a release first, then the bytes are written, and a granule with .feset becomes full. -/
def partSt (f : MForm) : PartSpec := fun s o l t p =>
  ∃ tgt s1 bs, s.place o.w (opRec o l) f.space (opRec o l).addr.toNat true = .here tgt ∧
    (f.fe = .ignore ∨ s.feHolds (s.warp o.w).ctx tgt false = false) ∧
    (f.ord = .rel → s.releaseHeld (warpCid o.w) f.scope = false) ∧
    (if f.ord = .rel then s.releaseAt (warpCid o.w) f.scope else s).access
      (whoAt s o (f.cache = .nol1 || (f.ord = .rel && scopeWide f.scope))) tgt (opRec o l).addr.toNat (widthBytes f.width)
      (some (bytesOf (widthBytes f.width) (opRec o l).c.toNat)) = (s1, .ok bs) ∧
    t = (if f.fe = .set then s1.feThrough (s.warp o.w).ctx tgt true else s1) ∧ p = .done []

/-- PRFM (R269): a line that a translation reaches may be brought into L1; nothing else happens, and no cause is raised. -/
def partPrfm (f : MForm) : PartSpec := fun s o l t p =>
  p = .done [] ∧
  let priv : Prop := f.space = .priv ∨ (f.space = .generic ∧ genericPriv (opRec o l).addr.toNat = true)
  ((t = s ∧ (priv ∨ ∀ tgt, s.place o.w (opRec o l) f.space (opRec o l).addr.toNat false ≠ .here tgt)) ∨
   (¬ priv ∧ ∃ pa, s.place o.w (opRec o l) f.space (opRec o l).addr.toNat false = .here (.phys pa) ∧
      t = (if f.cache = .nol1 then s else s.prefetchLine (s.warp o.w).ctx (warpCid o.w) pa)) ∨
   (¬ priv ∧ ∃ va s1 pa, s.place o.w (opRec o l) f.space (opRec o l).addr.toNat false = .here (.virt va) ∧
      s.translateAt (warpCid o.w) (s.warp o.w).ctx va .read = (s1, .to false pa) ∧
      t = (if f.cache = .nol1 then s1 else s1.prefetchLine (s.warp o.w).ctx (warpCid o.w) pa)))

/-- CCTL of the whole cache, or of a range that starts in global memory (R270): written back, and dropped with .inv, while no written byte of it
lies in a line that a job owns (R250). -/
def partCctl (f : RForm) : PartSpec := fun s o l t p =>
  p = .done [] ∧
  ((f.sub.getLsbD 1 = true ∧ s.dirtyOwned (warpCid o.w) 0 (2 ^ 52) = false ∧
      t = (let s2 := s.writeBackAll (warpCid o.w)
           if f.sub.getLsbD 0 then s2.invalidate (warpCid o.w) (nmapClear s2.mem.l1 (l1Key (warpCid o.w) 0) (l1Key (warpCid o.w + 1) 0))
           else s2)) ∨
   (f.sub.getLsbD 1 = false ∧ ∃ va rs, s.genericAddr o.w l (opRec o l).hm (opRec o l).a.toNat = .here (.virt va) ∧
      rs = s.cctlRuns (s.warp o.w).ctx (warpCid o.w) (((opRec o l).b.truncate 32 : Word).toNat / 4096 + 2) va
        ((opRec o l).b.truncate 32 : Word).toNat ∧
      rs.any (fun r => s.dirtyOwned (warpCid o.w) (r.1 / 128 * 128) ((r.1 + r.2 + 127) / 128 * 128)) = false ∧
      t = rs.foldl (fun (u : State) r => u.cctlPhys (warpCid o.w) r.1 r.2 (f.sub.getLsbD 0)) s))

/-- FENCE (R244, R275): release, then acquire, at its scope. -/
def partFence (f : RForm) : PartSpec := fun s o _ t p =>
  p = .done [] ∧ (f.sub.getLsbD 1 = true → s.releaseHeld (warpCid o.w) (scopeOfCode (subBits f 4 2)) = false) ∧
  t = (let s1 := if f.sub.getLsbD 1 then s.releaseAt (warpCid o.w) (scopeOfCode (subBits f 4 2)) else s
       if f.sub.getLsbD 0 then s1.acquireAt (warpCid o.w) (scopeOfCode (subBits f 4 2)) else s1)

/-- An atomic (R272, R273): `g` says what is written over an old value; the old value is returned when `ret` holds. -/
def partAtomic (f : RForm) (host : Bool) (g : LaneRec → Nat → Option Nat) (ret : Bool) : PartSpec := fun s o l t p =>
  ∃ tgt s1 old, s.genericAddr o.w l (opRec o l).hm (opRec o l).a.toNat = .here tgt ∧
    (subBits f 4 3 = 2 ∨ subBits f 4 3 = 3 → s.releaseHeld (warpCid o.w) (scopeOfCode (subBits f 7 5)) = false) ∧
    (if subBits f 4 3 = 2 ∨ subBits f 4 3 = 3 then s.releaseAt (warpCid o.w) (scopeOfCode (subBits f 7 5)) else s).rmw (whoAt s o false) tgt
      (opRec o l).a.toNat (atomBytes f.ty) (scopeOfCode (subBits f 7 5)) host (g (opRec o l)) = (s1, .ok old) ∧
    t = (if subBits f 4 3 = 1 ∨ subBits f 4 3 = 3 then s1.acquireAt (warpCid o.w) (scopeOfCode (subBits f 7 5)) else s1) ∧
    p = .done (if ret then dstWords (opRec o l).hm f.dst l (wordsOf (tyRegs f.ty) old) else [])

/-- What ATOM and RED write: F(old, b) (R272). -/
def atomWrites (f : RForm) (r : LaneRec) (old : Nat) : Option Nat :=
  some (atomF f.ty (subBits f 2 0) old (r.b.toNat % 2 ^ (8 * atomBytes f.ty)))

/-- What CAS writes: c where the old value equals b, nothing otherwise (R273). -/
def casWrites (f : RForm) (r : LaneRec) (old : Nat) : Option Nat :=
  if old = r.b.toNat % 2 ^ (8 * atomBytes f.ty) then some (r.c.toNat % 2 ^ (8 * atomBytes f.ty)) else none

/-- FESET (R276). -/
def partFeset (f : RForm) : PartSpec := fun s o l t p =>
  p = .done [] ∧
  t = s.setFeRun (warpCid o.w) (256 * (s.wgCoreOf o.w).sbase + ((opRec o l).a.truncate 32 : Word).toNat) (f.sub.getLsbD 0)
    ((opRec o l).b.truncate 32 : Word).toNat

/-- FEQRY (R276). -/
def partFeqry (f : RForm) : PartSpec := fun s o l t p =>
  t = s ∧ p = .done (dstWords (opRec o l).hm f.dst l [s.feMask (s.wgCoreOf o.w) (warpCid o.w) ((opRec o l).a.truncate 32 : Word).toNat])

/-- LDMC by a member whose slot holds the part (R246, R285, R286): what the core has written of the line goes home, and the member asks the
hold record of the line there. -/
def partLdmc (f : MForm) : PartSpec := fun s o l t p =>
  ∃ g m va s1 pa full, p = .done [] ∧
    nmapFind s.groups (groupKey (s.warp o.w).ctx ((opRec o l).data % 2 ^ 32 % 256)) = some g ∧
    full = (List.range 8).all (fun k =>
      s.feFull (warpCid o.w) (16 * memberGranule (s.wgCoreOf o.w) g ((opRec o l).data % 2 ^ 32 / 256) k)) ∧
    g.memberOf (s.warp o.w).wg (warpCid o.w) = some m ∧
    (opRec o l).data % 2 ^ 32 / 256 < g.slot * 128 ∧ (opRec o l).data % 2 ^ 32 / 256 % 128 = 0 ∧
    s.place o.w (opRec o l) f.space (opRec o l).addr.toNat false = .here (.virt va) ∧
    (∀ k q, s.holdOf (s.warp o.w).ctx ((opRec o l).data % 2 ^ 32 % 256) g.gen va = some (k, q) → q.ofs = (opRec o l).data % 2 ^ 32 / 256) ∧
    ((∃ a, s.translateAt (warpCid o.w) (s.warp o.w).ctx va .read = (s1, .to true a) ∧ pa = 2 ^ 60 + a) ∨
     (s.translateAt (warpCid o.w) (s.warp o.w).ctx va .read = (s1, .to false pa) ∧ s1.reachable (pa / 2 ^ 50) = true ∧ s1.paKind pa ≠ .reserved ∧
       s1.secBreach (s.warp o.w).ctx pa = false)) ∧
    (pa < 2 ^ 60 → full = false → s1.dirtyOwned (warpCid o.w) pa (pa + 128) = false) ∧
    (if pa < 2 ^ 60 ∧ full = false then s1.writeBackRange (warpCid o.w) pa (pa + 128) else s1).ask (s.warp o.w).ctx
      ((opRec o l).data % 2 ^ 32 % 256) g m.rank va ((opRec o l).data % 2 ^ 32 / 256) pa full = some t

/-- The arguments of an MCJOIN are lawful (R284): group, size, rank, base, slot, hold. -/
def mcArgsOk (s : State) (o : Op) (r : LaneRec) : Prop :=
  let a := (r.a.truncate 32 : Word).toNat
  let b := (r.b.truncate 32 : Word).toNat
  let c := (r.c.truncate 32 : Word).toNat
  b % 2 ^ 20 % 128 = 0 ∧ b % 2 ^ 20 < 256 * (s.wgCoreOf o.w).ssize ∧ b % 2 ^ 20 + 128 * (b / 2 ^ 20) ≤ 256 * (s.wgCoreOf o.w).ssize ∧
    a < 2 ^ 24 ∧ c < 2 ^ 16 ∧ b / 2 ^ 20 ≠ 0 ∧ a / 2 ^ 16 % 256 ≤ a / 2 ^ 8 % 256

/-- MCJOIN (R283, R284): the first member of a generation makes it, with the next generation number; a further member with the same
arguments and a free rank joins it. -/
def partMcjoin (f : RForm) : PartSpec := fun s o l t p =>
  let r := opRec o l
  let a := (r.a.truncate 32 : Word).toNat
  let b := (r.b.truncate 32 : Word).toNat
  let key := groupKey (s.warp o.w).ctx (a % 256)
  let me : McMember := { rank := a / 2 ^ 16 % 256, wg := (s.warp o.w).wg, cid := warpCid o.w, live := true }
  mcArgsOk s o r ∧
  ((nmapFind s.groups key = none ∧ ∃ gen, gen = (match nmapFind s.gens key with | some k => (k + 1) % 16 | none => 0) ∧
      t = (let g : McGroup :=
             { gen := gen, n := a / 2 ^ 8 % 256 + 1, base := b % 2 ^ 20, slot := b / 2 ^ 20, hold := (r.c.truncate 32 : Word).toNat,
               anchor := cidStack (warpCid o.w), members := [me], spent := [] }
           { s with gens := nmapSet s.gens key gen, groups := nmapSet s.groups key g }) ∧
      p = everyLane o r.hm f.dst (fun _ => [BitVec.ofNat 32 gen])) ∨
   (∃ g, nmapFind s.groups key = some g ∧ g.live.isEmpty = false ∧ g.memberOf (s.warp o.w).wg (warpCid o.w) = none ∧ g.complete = false ∧
      g.n = a / 2 ^ 8 % 256 + 1 ∧ g.base = b % 2 ^ 20 ∧ g.slot = b / 2 ^ 20 ∧ g.hold = (r.c.truncate 32 : Word).toNat ∧
      g.rank (a / 2 ^ 16 % 256) = none ∧
      t = { s with groups := nmapSet s.groups key { g with members := g.members ++ [me] } } ∧
      p = everyLane o r.hm f.dst (fun _ => [BitVec.ofNat 32 g.gen])))

/-- MCLEAVE by a member (R287). -/
def partMcleave : PartSpec := fun s o l t p =>
  let gid := ((opRec o l).a.truncate 32 : Word).toNat % 256
  ∃ g, nmapFind s.groups (groupKey (s.warp o.w).ctx gid) = some g ∧ (g.memberOf (s.warp o.w).wg (warpCid o.w)).isSome = true ∧
    t = s.leaveGroup (s.warp o.w).ctx gid (s.warp o.w).wg (warpCid o.w) ∧ p = .done []

/-- ACINIT with a lawful target and a free counter (R279): the counter takes a serial number other than its last, and the handle is
returned. -/
def partAcinit (f : RForm) : PartSpec := fun s o l t p =>
  let r := opRec o l
  let n := (r.a.truncate 32 : Word).toNat
  ∃ cid g k, s.granuleOf o.w l r.hm r.b.toNat = .ok (cid, g) ∧ n ≠ 0 ∧ n ≤ 2 ^ 24 ∧ s.freeCounter (cidStack (warpCid o.w)) = some k ∧
    t = { s with
      free := s.free + 1
      counters := nmapSet s.counters k
        { ctx := (s.warp o.w).ctx, serial := s.freshSerial k, count := 0, target := n, round := 0, cid := cid, granule := g,
          addr := r.b, wg := (s.warp o.w).wg, exit := f.sub.getLsbD 0, auto := f.sub.getLsbD 1, complete := false,
          enrolled := if f.sub.getLsbD 0 then s.wgLanes (s.warp o.w).wg else [], arrived := [] }
      ctrSerials := dmapSet 0 s.ctrSerials k (s.freshSerial k) } ∧
    p = everyLane o r.hm f.dst (fun _ => [s.handleOf k (s.freshSerial k)])

/-- ARRIVE at a counter that is not complete, or completes by rounds (R256, R280): a release, then the arrival, whose round is returned. -/
def partArrive (f : RForm) : PartSpec := fun s o l t p =>
  ∃ k c n, s.counterOf (s.warp o.w).ctx ((opRec o l).a.truncate 32) = some (k, c) ∧ (c.complete = false ∨ c.auto = true) ∧
    s.releaseHeld (warpCid o.w) (scopeOfCode (subBits f 7 5)) = false ∧
    (s.releaseAt (warpCid o.w) (scopeOfCode (subBits f 7 5))).arriveAt k c (laneKey o.w l) = (t, n) ∧
    p = .done (dstWords (opRec o l).hm f.dst l [BitVec.ofNat 32 n])

/-- ACFREE of a counter (R282). -/
def partAcfree : PartSpec := fun s o l t p =>
  ∃ k c, s.counterOf (s.warp o.w).ctx ((opRec o l).a.truncate 32) = some (k, c) ∧ t = { s with counters := nmapErase s.counters k } ∧ p = .done []

/-- NNSEND while the link's queue has room and no earlier one waits for it (R302, R303; that entries still on the link count, and those of every
gang, is the model's choice, log entry 92): the entry of 32 words, 0 for a lane outside M, is on its way. -/
def partNnsend (f : RForm) : PartSpec := fun s o _ t p =>
  ∃ n k, neighbour (warpCid o.w) (subBits f 1 0) = some n ∧ k = n * 4 + oppositeDir (subBits f 1 0) ∧
    s.linkAhead o = false ∧ (s.linkQ k ++ s.flightQ k).length < 32 ∧ p = .done [] ∧
    t = { s with cores := { s.cores with flight := dmapSet [] s.cores.flight k (s.flightQ k ++
      [{ wg := (s.warp o.w).wg, bad := false,
         words := (List.range 32).map (fun j => if o.lanes.getLsbD j then ((opRec o j).a.truncate 32 : Word) else 0) }]) } }

/-- NNRECV of the oldest entry of its gang that has arrived, while no earlier one waits for it (R302, R303). -/
def partNnrecv (f : RForm) : PartSpec := fun s o l t p =>
  ∃ k n e, k = warpCid o.w * 4 + subBits f 1 0 ∧ s.linkAhead o = false ∧
    n = ((s.linkQ k).takeWhile (fun e => e.wg ≠ (s.warp o.w).wg)).length ∧ (s.linkQ k)[n]? = some e ∧ e.bad = false ∧
    t = { s with cores := { s.cores with links := dmapSet [] s.cores.links k ((s.linkQ k).eraseIdx n) } } ∧
    p = everyLane o (opRec o l).hm f.dst (fun j => [(e.words[j]?).getD 0])

/-- LRES of a lawful record with a number free (R157, R158, R162): the lowest free number is taken. -/
def partLres (f : RForm) : PartSpec := fun s o l t p =>
  let a := ((opRec o l).a.truncate 32 : Word).toNat
  ∃ s1 bs q k, a % 16 = 0 ∧ s.padRead (s.whoOf o) (s.wgCoreOf o.w) a 16 = (s1, .ok bs) ∧
    loftRecord (ofBytes bs) (s.wgCoreOf o.w).lsize = .ok q ∧
    (List.range 16).find? (fun k => (nmapFind (s.wgCoreOf o.w).resv k).isNone) = some k ∧
    t = s1.modWgCore o.w (fun c => { c with resv := nmapSet c.resv k q }) ∧
    p = everyLane o (opRec o l).hm f.dst (fun _ => [BitVec.ofNat 32 k])

/-- LREL of a reservation that no instruction uses (R163). -/
def partLrel : PartSpec := fun s o l t p =>
  let k := ((opRec o l).a.truncate 32 : Word).toNat
  ∃ q, (s.wgCoreOf o.w).held k = some q ∧ s.resvBusy (s.warp o.w).wg (warpCid o.w) k none = false ∧
    t = s.modWgCore o.w (fun c => { c with resv := nmapErase c.resv k }) ∧ p = .done []

/-- LSTAT (R164). -/
def partLstat (f : RForm) : PartSpec := fun s o l t p =>
  t = s ∧ p = everyLane o (opRec o l).hm f.dst (fun _ => [BitVec.ofNat 32 (s.lstat o.w ((opRec o l).a.truncate 32 : Word).toNat)])

/-- LLD into a reservation that holds the range (R165): its 16-byte units land in the loft in ascending order. -/
def partLld (f : RForm) : PartSpec := fun s o l t p =>
  let r := opRec o l
  let c := s.wgCoreOf o.w
  let ctl := (r.c.truncate 32 : Word).toNat
  let k := (r.b.truncate 32 : Word).toNat
  ∃ q s1 i, r.a.toNat % 16 = 0 ∧ ctl % 2 ^ 18 % 16 = 0 ∧ c.held k = some q ∧ ctl % 2 ^ 18 + 16 * (ctl / 2 ^ 18 + 1) ≤ q.size * 256 ∧
    s.lldCause o r (subBits f 6 5) r.a.toNat (ctl / 2 ^ 18 + 1) = none ∧
    firstEnd ((List.range (ctl / 2 ^ 18 + 1 - r.data)).filterMap (fun j =>
      s.lldUnitEnd o r (subBits f 6 5) (r.a.toNat + 16 * (r.data + j)))) = none ∧
    s.lldRun o r (subBits f 6 5) r.a.toNat (1024 * c.loftb + q.offset + ctl % 2 ^ 18) r.data
      (ctl / 2 ^ 18 + 1 - r.data) = (s1, i, .done []) ∧
    t = s1.modOp o.seq (fun o => { o with recs := o.recs.map (fun x => if x.lane = l then { x with data := i } else x) }) ∧ p = .done []

/-- ACCZ of tiles within the allocation (R174). -/
def partAccz (f : RForm) : PartSpec := fun s o l t p =>
  let n := ((opRec o l).a.truncate 32 : Word).toNat
  let wc := s.wgCoreOf o.w
  n ≠ 0 ∧ accNum f.dst + n ≤ 32 ∧ accNum f.dst + n ≤ wc.accn ∧ p = .done [] ∧
    t = (List.range n).foldl (fun (u : State) j => u.zeroTile (warpCid o.w) (wc.acc0 + accNum f.dst + j)) s

/-- The job that a CPY or an XFORM describes (R289). -/
def engineJob (xform : Bool) (f : RForm) (s : State) (o : Op) (l : Nat) : Job :=
  { ctx := (s.warp o.w).ctx, stack := cidStack (warpCid o.w), cid := warpCid o.w, w := o.w, src := opRec o l, xform := xform, sub := f.sub,
    out := [], err := 0, done := 0, red := none, scope := scopeOfCode (subBits f 7 5), started := false, fault := none,
    wg := (s.warp o.w).wg, home := s.wgOf o.w, owns := [], order := 0, redo := [], recs := none }

/-- A CPY or an XFORM is accepted (R251, R252, R289): no scratch range of it leaves the allocation and the engine's queue has
room; acceptance is a release at fabric scope, the job takes the next place in acceptance order, and it starts. -/
def partEngine (xform : Bool) (f : RForm) : PartSpec := fun s o l t p =>
  let j := engineJob xform f s o l
  (xform = true → (opRec o l).a.toNat % 64 = 0 ∧ (opRec o l).b.toNat % 64 = 0) ∧
  (s.jobEnv j true).spadOf = none ∧ s.jobsQueued (cidStack (warpCid o.w)) < 64 ∧ s.releaseHeld (warpCid o.w) .fabric = false ∧
  t = State.startJob { (s.releaseAt (warpCid o.w) .fabric).setJob o.seq { j with order := s.serial + 1 } with serial := s.serial + 1 } o.seq ∧
  p = .accept

/-- TLD (R298): the record is read, then the elements, each from its place or from the fill. -/
def partTld (f : RForm) : PartSpec := fun s o l t p =>
  let cs := (List.range (tldN f)).map (tldCoord (opRec o l))
  ∃ s1 y bs, s.readLayout o (opRec o l) = (s1, .ok y) ∧
    s1.tryParts (s1.whoOf o) o.w (opRec o l) y.sp (cs.flatMap (fun c => match y.readAt c with | some d => elemParts y d none | none => []))
      = (t, .ok bs) ∧
    p = .done (dstWords (opRec o l).hm f.dst l ((tldElems y cs bs).map (tldWord y.ty)))

/-- TST (R298): the elements in bounds are written, in a space that may be written. -/
def partTst (f : RForm) : PartSpec := fun s o l t p =>
  let es := (List.range (tldN f)).map (fun k => (tldCoord (opRec o l) k, bitsAt (opRec o l).data (128 + 32 * k) 32))
  ∃ s1 y, s.readLayout o (opRec o l) = (s1, .ok y) ∧ y.sp ≠ .constant ∧
    (es.flatMap (fun e => if y.inBounds e.1 then elemParts y e.1 (some 0) else [])).findSome? (s1.partCause o.w (opRec o l) y.sp) = none ∧
    s1.storeElems (s1.whoOf o) o.w (opRec o l) y es = (t, .ok ()) ∧ p = .done []

/-- PKST (R299, R300): the packed tile is appended to the store, and d says where or why not. -/
def partPkst (f : RForm) : PartSpec := fun s o l t p =>
  let r := opRec o l
  let c := s.wgCoreOf o.w
  let tile := (r.b.truncate 32 : Word).toNat
  let ws := (List.range 32).map (fun j => if o.lanes.getLsbD j then ((opRec o j).c.truncate 32 : Word) else 0)
  ∃ s1 q, s.readPk (s.whoOf o) c (r.a.truncate 32 : Word).toNat = (s1, .ok q) ∧
    ((q.ok = true ∧ tile < q.ntile) → pkCause c q = none) ∧
    s1.padWrites (s.whoOf o) c (pkAppend q (r.a.truncate 32 : Word).toNat tile ws).2 = (t, .ok ()) ∧
    p = everyLane o r.hm f.dst (fun _ => [BitVec.ofNat 32 (pkAppend q (r.a.truncate 32 : Word).toNat tile ws).1])

/-- PKLD (R301). -/
def partPkld (f : RForm) : PartSpec := fun s o l t p =>
  let r := opRec o l
  ∃ s1 q ws, s.readPk (s.whoOf o) (s.wgCoreOf o.w) (r.a.truncate 32 : Word).toNat = (s1, .ok q) ∧
    s1.pkLoad (s.whoOf o) (s.wgCoreOf o.w) q (r.b.truncate 32 : Word).toNat = (t, .ok ws) ∧
    p = everyLane o r.hm f.dst (fun j => [(ws[j]?).getD 0])

/-- RACQ and RTAKE when their slot is in the state they wait for (R359): the sequence number is taken once, and the slot's handle is returned. -/
def partRacq (take : Bool) (f : RForm) : PartSpec := fun s o l t p =>
  let r := opRec o l
  ∃ g a q, s.ringAt o.w (r.a.truncate 32 : Word).toNat = .ok (g, a) ∧
    ((o.mark = some q ∧ t = s) ∨
     (o.mark = none ∧ q = (if take then g.cseq else g.pseq) ∧
      t = (s.putRing o.w a (if take then { g with cseq := (q + 1) % ringWrap g.ns } else { g with pseq := (q + 1) % ringWrap g.ns })).modOp o.seq
        (fun (x : Op) => { x with mark := some q }))) ∧
    bitOf g.phase (q % g.ns) = q / g.ns % 2 ∧ bitOf g.full (q % g.ns) = (if take then 1 else 0) ∧
    p = everyLane o r.hm f.dst
      (fun _ => [BitVec.ofNat 32 (g.base + q % g.ns * g.ssize + q % g.ns * 2 ^ 20 + q / g.ns % 2 * 2 ^ 25)])

/-- RFILL of an empty slot and RFREE of a full one, each with its phase (R359): the slot becomes full; or empty, in the other phase. -/
def partRfill (free : Bool) : PartSpec := fun s o l t p =>
  let r := opRec o l
  let hd := (r.b.truncate 32 : Word).toNat
  let k := hd / 2 ^ 20 % 32
  ∃ g a, s.ringAt o.w (r.a.truncate 32 : Word).toNat = .ok (g, a) ∧ k < g.ns ∧ bitOf g.full k = (if free then 1 else 0) ∧
    bitOf g.phase k = hd / 2 ^ 25 % 2 ∧ p = .done [] ∧
    t = s.putRing o.w a
      (if free then { g with full := g.full - 2 ^ k, phase := if bitOf g.phase k = 1 then g.phase - 2 ^ k else g.phase + 2 ^ k }
       else { g with full := g.full + 2 ^ k })

/-- GLAUNCH while its context's launch queue has room (R329): a release at system scope, and the request waits for admission. -/
def partGlaunch : PartSpec := fun s o l t p =>
  let r := opRec o l
  let c := (s.warp o.w).ctx
  r.a.toNat % 64 = 0 ∧ s.genericAddr o.w l r.hm r.a.toNat = .here (.virt r.a.toNat) ∧ s.releaseHeld (warpCid o.w) .system = false ∧
  (s.ctx c).launchQ.length < 16 ∧ p = .accept ∧
    t = (let s1 := s.releaseAt (warpCid o.w) .system
         let q : AdmReq :=
           { ctx := c, addr := r.a.toNat, queue := none, op := some o.seq, graph := none, since := 0, entry := 0, host := false, status := 0,
             fault := none }
         { s1 with serial := s.serial + 1, adms := nmapSet s1.adms (s.serial + 1) q }.setCtx c { s.ctx c with launchQ := (s.ctx c).launchQ ++ [s.serial + 1] })

/-- TDONE (R259, R325): a tile that has retired stays so; another retires, after a release at card scope at each core of the workgroup. -/
def partTdone (f : RForm) : PartSpec := fun s o l t p =>
  let g := s.wgOf o.w
  let i := if f.sub.getLsbD 0 then (opRec o l).aux - 1 else ((opRec o l).a.truncate 32 : Word).toNat
  ∃ k h, g.graph = some k ∧ nmapFind s.graphs k = some h ∧ p = .done [] ∧
    ((nmapFind h.retired (tileKey g.pass i)).isSome = false → s.wgHeld g = false) ∧
    t = (if (nmapFind h.retired (tileKey g.pass i)).isSome then s
         else (((s.wgRelease g).setGraph k (h.retireTile g.pass i)).finishGraph k).yardmaster)

/-- RTNEXT (R351): entry k of its workgroup's list is returned where it is decided and taken; an index owed is taken when its tile is released
and slots are ready; and with none left 0xFFFFFFFF is returned. -/
def partRtnext (f : RForm) : PartSpec := fun s o _ t p =>
  let u := (s.rtCount o).1
  let k := (s.rtCount o).2
  let id := (u.warp o.w).wg
  (∃ r, (u.wgOf o.w).list[k]? = some r ∧ (t, p) = u.rtReturn f o r) ∨
  ((u.wgOf o.w).list[k]? = none ∧ (u.wgOf o.w).list.length = k ∧
    (∀ e ∈ u.warps, ¬ (e.2.wg = id ∧ e.2.live ≠ 0 ∧ e.2.k + 15 < k)) ∧
    ∃ v, v = (if (u.wgOf o.w).owed.isSome then u else u.decideIndex o.w k) ∧
      ((∃ j i gid h, (v.wgOf o.w).owed = some (j, i) ∧ (v.wgOf o.w).graph = some gid ∧ nmapFind v.graphs gid = some h ∧
          h.isReleased (v.wgOf o.w).pass i = true ∧ h.slotsReady (v.wgOf o.w).pass i = true ∧
          (t, p) = ((v.wgOf o.w).cores.foldl (fun (x : State) c => x.acquireAt c.cid .card)
            { v.setGraph gid (h.take (v.wgOf o.w).pass i) with
              wgs := nmapModify (v.setGraph gid (h.take (v.wgOf o.w).pass i)).wgs id
                (fun x => { x with owed := none, taken := x.taken ++ [i], list := x.list ++ [some i] }) }).rtReturn f o (some i)) ∨
       ((v.wgOf o.w).owed = none ∧ (t, p) = v.rtReturn f o none)))

/-- REORD while the core's unit has room (R229): the lane's entry is deposited, and the unit's timer starts again. -/
def partReord (f : RForm) : PartSpec := fun s o l t p =>
  let r := opRec o l
  let cid := warpCid o.w
  (s.entriesAt cid).length < 4096 ∧ p = .done [] ∧
    t = (let s1 := s.setEntries cid (s.entriesAt cid ++
           [{ key := r.a.truncate 16, target := r.c.truncate 32, payload := wordsOf (reordN f) r.data, ctx := (s.warp o.w).ctx,
              wg := (s.warp o.w).wg, drain := 0 }])
         { s1 with cores := { s1.cores with reTimer := nmapSet s1.cores.reTimer cid (s.cyclesOf cid) } })

/-- CUTSEL is accepted (R189, R193): aligned records and room in its engine's queue; acceptance is a release at system scope. -/
def partCutsel (f : RForm) : PartSpec := fun s o l t p =>
  let r := opRec o l
  r.a.toNat % 64 = 0 ∧ r.b.toNat % 64 = 0 ∧ (s.cuts.filter (fun e => e.2.stack = cidStack (warpCid o.w))).length < 8 ∧ s.releaseHeld (warpCid o.w) .system = false ∧
    p = .accept ∧
    t = State.startCut { (s.releaseAt (warpCid o.w) .system).setCut o.seq
      { ctx := (s.warp o.w).ctx, stack := cidStack (warpCid o.w), cid := warpCid o.w, w := o.w, atlas := r.a.toNat, view := r.b.toNat,
        range := (match f.sc with | .zr => none | _ => some (r.c.toNat % 2 ^ 32, r.c.toNat / 2 ^ 32 % 2 ^ 32)), words := none, owns := [],
        fault := none, home := s.wgOf o.w, lane := if r.hm then 0 else l, order := s.serial + 1 } with serial := s.serial + 1 } o.seq

/-- SHDEC (R195, R196): the sheet's header is read, then what the operation decodes. -/
def partShdec (f : RForm) : PartSpec := fun s o l t p =>
  let r := opRec o l
  ∃ s1 hs ws, s.laneRead o r r.a.toNat 64 1 = (s1, .ok hs) ∧
    s1.shdecWords o r (subBits f 2 0) r.a.toNat (r.b.toNat % 2 ^ 32) (ofBytes hs) = (t, .ok ws) ∧ p = .done (dstWords r.hm f.dst l ws)

/-- A texture instruction whose record is lawful (R218 to R223): its taps are read and mixed. -/
def partTaps (taps : TexRec → LaneRec → List Tap) (f : RForm) : PartSpec := fun s o l t p =>
  let r := opRec o l
  ∃ s1 x xs, s.readTex o r = (s1, .ok x) ∧ s1.readTaps o r x (taps x r) = (t, .ok xs) ∧ p = .done (dstWords r.hm f.dst r.lane (mixTaps xs))

/-- The taps of TEX (R221): none for a coordinate that is no number. -/
def texTaps (t : TexRec) (r : LaneRec) : List Tap :=
  match recF32 r.data 0, recF32 r.data 1 with
  | some u, some v => t.sampleTaps (t.quantLod ((ffmt .f32).decode (r.c.toNat % 2 ^ 32))) u v (qInt 1)
  | _, _ => []

/-- The taps of TEXG (R222): none where a coordinate or a gradient is no number. -/
def texgTaps (t : TexRec) (r : LaneRec) : List Tap :=
  match recF32 r.data 0, recF32 r.data 1 with
  | some u, some v =>
    let g := (List.range 4).filterMap (fun k => recF32 r.data (2 + k))
    if g.length = 4 then t.gradTaps u v g else []
  | _, _ => []

/-- TEXLD (R220, R223): the texel's channels, or zeros outside the image. -/
def partTexld (f : RForm) : PartSpec := fun s o l t p =>
  let r := opRec o l
  let x := bitsAt r.data 0 32
  let y := bitsAt r.data 32 32
  let m := r.c.toNat % 2 ^ 32
  ∃ s1 q, s.readTex o r = (s1, .ok q) ∧
    (((q.lvm1 < m ∨ q.levW m ≤ x ∨ q.levH m ≤ y) ∧ t = s1 ∧ p = .done (dstWords r.hm f.dst l (List.replicate 4 0))) ∨
     (m ≤ q.lvm1 ∧ x < q.levW m ∧ y < q.levH m ∧ ∃ b, s1.texelBits o r q m x y = (t, .ok b) ∧
        p = .done (dstWords r.hm f.dst l (mixTaps [(qInt 1, texelChans q.fmt b)]))))

/-- TEXQ (R223): width and height of the level, the count of levels and the format; zeros for a level that is not there. -/
def partTexq (f : RForm) : PartSpec := fun s o l t p =>
  let r := opRec o l
  let m := r.b.toNat % 2 ^ 32
  ∃ q, s.readTex o r = (t, .ok q) ∧
    p = .done (dstWords r.hm f.dst l
      ((if q.lvm1 < m then [0, 0, 0, 0] else [q.levW m, q.levH m, q.lvm1 + 1, q.fmt]).map (BitVec.ofNat 32)))

/-- PRIMEMIT while the set-up unit of the stack accepts (R197, R200): the triangle with its key, corners and attributes. -/
def partPrimemit (f : RForm) : PartSpec := fun s o l t p =>
  let r := opRec o l
  let stack := cidStack (warpCid o.w)
  (s.setupAt stack = [] ∨ (s.setupAt stack).length < Config.setupQueueLen) ∧ p = .done [] ∧
    t = s.setSetup stack (s.setupAt stack ++
      [{ ctx := (s.warp o.w).ctx, graph := (s.wgOf o.w).graph, pass := (s.wgOf o.w).pass, stack := stack, key := r.b.truncate 32, na := primNa f,
         pos := wordsOf 12 r.data, attr := wordsOf (12 * primNa f) (r.data / 2 ^ 384) }])

/-- IATTR (R210). -/
def partIattr (f : RForm) : PartSpec := fun s o l t p => t = s ∧ p = .done (dstWords (opRec o l).hm f.dst l (s.iattrWords f o.w l))

/-- FOUT (R206, R211): a covered lane of a fragment warp tests its fragment against the pixel and writes it; another lane does nothing. -/
def partFout (f : RForm) : PartSpec := fun s o l t p =>
  p = .done [] ∧
  ((t = s ∧ ∀ fr, (s.warp o.w).frag = some fr → fr.covered.getLsbD l = false) ∨
   (∃ fr gid g geo q, (s.warp o.w).frag = some fr ∧ fr.covered.getLsbD l = true ∧ fr.tri.graph = some gid ∧ nmapFind s.graphs gid = some g ∧
      s.geoOf fr.tri = some geo ∧ g.passAt fr.tri.pass = some q ∧
      t = (let xy := lanePixel fr.x0 fr.y0 l
           let z := depthBits (g.depthRes q) (triDepth geo xy.1 xy.2)
           let x := g.rasterTile fr.tri.pass fr.tile
           s.setGraph gid (g.setRasterTile fr.tri.pass fr.tile
             { x with pixels := nmapModify x.pixels (xy.2 % 64 * 64 + xy.1 % 64) (foutApply f g q z fr.tri.key (opRec o l).data) }))))

/-- RAYQ is accepted by the ray engine while it has room (R228): once every lane is, the instruction is over for the windows. -/
def partRayq : PartSpec := fun s o l t p =>
  (rayAccepted o).getLsbD l = false ∧ s.rayCount (warpCid o.w) < 256 ∧ p = .wait .none 0 ∧
    t = s.modOp o.seq (fun (q : Op) =>
      { q with mark := some (rayAccepted o ||| bit32 l).toNat, accepted := decide (q.lanes &&& ~~~(rayAccepted o ||| bit32 l) = 0) })

/-! ## Parts of the warp-wide long-latency instructions -/

/-- LDT4 (R167, R168): every granule is full where a qualifier asks for it; the quads are read, and .feclear empties the granules. -/
def partLdt4 (f : RForm) : PartSpec := fun s o l t p =>
  let r := opRec o l
  let base := (r.a.truncate 32 : Word).toNat
  let w := (r.b.truncate 32 : Word).toNat
  let c := s.wgCoreOf o.w
  let os := ldt4Span (subBits f 4 3) base w
  let grs := dedupNat (os.map (fun x => x / 16 * 16))
  ∃ bs, (subBits f 6 5 = 0 ∨ ∀ x ∈ grs, s.feFull (warpCid o.w) (256 * c.sbase + x) = true) ∧ s.padBytes (s.whoOf o) c os = .ok bs ∧
    t = (if subBits f 6 5 = 2 then grs.foldl (fun (u : State) x => u.setFe (warpCid o.w) (256 * c.sbase + x) false) s else s) ∧
    p = everyLane o r.hm f.dst (fun j => wordsOf 4 (ofBytes (ldt4Quad bs (subBits f 4 3) base w j)))

/-- ACCRD (R175): lane i takes elements of row i, from the column. -/
def partAccrd (f : RForm) : PartSpec := fun s o l t p =>
  t = s ∧ p = everyLane o (opRec o l).hm f.dst (fun i => (List.range (accN f)).map (fun q =>
    s.tileElem (warpCid o.w) ((s.wgCoreOf o.w).acc0 + accNum f.sa) i (((opRec o l).b.truncate 32 : Word).toNat + q)))

/-- ACCWR (R175): row i takes the registers of lane i, from the column. -/
def partAccwr (f : RForm) : PartSpec := fun s o l t p =>
  p = .done [] ∧
  t = s.setTile (warpCid o.w) ((s.wgCoreOf o.w).acc0 + accNum f.dst) ((lanesOf o.lanes).flatMap (fun i =>
    ((wordsOf (accN f) (opRec o i).data).zipIdx).map (fun e => (i, ((opRec o l).b.truncate 32 : Word).toNat + e.2, e.1))))

/-- The result of ACCOUT for a row (R176). -/
def accOutRow (f : RForm) (s : State) (o : Op) (l i : Nat) : AccOut :=
  accOut f (rndNow (s.warp o.w) f.rnd) (s.regs.getRng o.w i) ((opRec o i).c.truncate 32)
    ((List.range (accCols f.ty)).map (fun q =>
      s.tileElem (warpCid o.w) ((s.wgCoreOf o.w).acc0 + accNum f.sa) i (((opRec o l).b.truncate 32 : Word).toNat + q)))

/-- ACCOUT (R176): the codes and the scale of each row; under .rsr the lanes' generators step. -/
def partAccout (f : RForm) : PartSpec := fun s o l t p =>
  t = (if rndNow (s.warp o.w) f.rnd = .rsr then
         (lanesOf o.lanes).foldl (fun (u : State) i => u.applyWrite o.w (.rng i (accOutRow f s o l i).rng)) s
       else s) ∧
  p = .done ((lanesOf o.lanes).flatMap (fun i =>
    dstWords (opRec o l).hm f.dst i
      (wordsOf (accRegs f.ty) ((accOutRow f s o l i).codes.foldr (fun x a => x + 2 ^ elemBits f.ty * a) 0))
      ++ (if accScaled f then dstWords (opRec o l).hm f.sc i [(accOutRow f s o l i).scale] else [])))

/-- ACCIN (R177): row i takes the elements of lane i, or has them added. -/
def partAccin (f : RForm) : PartSpec := fun s o l t p =>
  let fr := (s.wgCoreOf o.w).acc0 + accNum f.dst
  let col := ((opRec o l).b.truncate 32 : Word).toNat
  p = .done [] ∧
  t = s.setTile (warpCid o.w) fr ((lanesOf o.lanes).flatMap (fun i => (List.range (accCols f.ty)).map (fun q =>
    (i, col + q, accInElem f (opRec o i).data ((opRec o i).c.truncate 32 : Word).toNat q (s.tileElem (warpCid o.w) fr i (col + q))))))

/-! ## Frames of the instructions that store -/

/-- The parts of an instruction in the order in which they are performed, with what each leaves as it was. -/
def KeepsEach (once : Bool) (part : PartSpec) (keeps : State → Op → Nat → State → Prop) (id : Nat) (ls : List Nat) (s t : State) : Prop :=
  match ls with
  | [] => t = s
  | l :: rest =>
    ∃ o s1 p, nmapFind s.ops id = some o ∧ part s o l s1 p ∧ keeps s o l s1 ∧
      KeepsEach once part keeps id rest (partLeft once id o l p s1) t

/-- A long-latency instruction completes, and each of its parts keeps what `keeps` says; issue itself and the lanes' transfers write no memory and no
register but pc, lk and lc (R38, R43). -/
def KeepsLong (i : Instr) (h : Hdr) (op : LongOp) (part : PartSpec) (keeps : State → Op → Nat → State → Prop) : Prop :=
  ∀ s t : State, s.CanIssueLong i h op →
    let ls := lanesOf (if op.once then bit32 ((leadOf (s.activeSet h)).getD 0) else s.activeSet h)
    Performs op.once part (s.serial + 1) ls (s.issued i h op) t →
    ∃ u, exec i s = .next u ∧ KeepsEach op.once part keeps (s.serial + 1) ls (s.issued i h op) t ∧
      u = { t with regs := u.regs, warps := u.warps, ops := u.ops, mem := { t.mem with poison := u.mem.poison } } ∧ RegsKept t.regs u.regs

/-- The same of a warp-wide instruction (R372). -/
def KeepsWideLong (i : Instr) (h : Hdr) (k : Nat) (wop : WideOp) (op : LongOp) (part : PartSpec) (keeps : State → Op → Nat → State → Prop) : Prop :=
  ∀ s t : State, s.CanExecute i h k wop → (s.round i h k).acting ≠ 0 →
    let s0 := s.issuedWide i h k op
    let ls := [(leadOf (s.round i h k).acting).getD 0]
    Performs true part ((s.signersGone i h k).serial + 1) ls s0 t →
    exec i s = .next t ∧ KeepsEach true part keeps ((s.signersGone i h k).serial + 1) ls s0 t ∧
      s0.cores = s.cores ∧ { s0.mem with poison := s.mem.poison } = s.mem ∧ RegsKept s.regs s0.regs

/-- LD: it writes no byte; a full-empty qualifier .clear empties its granule, and copies in L1 may be dropped or replaced (R244, R266). -/
def keepsLd (f : MForm) (s : State) (o : Op) (l : Nat) (t : State) : Prop :=
  t.mem.host = s.mem.host ∧ t.regs = s.regs ∧ t.cores = { s.cores with fe := t.cores.fe } ∧ DeviceOld s t (warpCid o.w) 0 0 ∧
    ∀ k, (f.fe ≠ .clear ∨ ∀ cid a win, s.place o.w (opRec o l) f.space (opRec o l).addr.toNat false = .here (.sram cid a win) →
      k ≠ cid * 2 ^ 16 + a / 16) → dmapGet false t.cores.fe k = dmapGet false s.cores.fe k

/-- ST, with or without a release or a full-empty qualifier: the bytes at the target to which its resolution takes the address (R244, R265, R266). -/
def keepsSt (f : MForm) (s : State) (o : Op) (l : Nat) (t : State) : Prop :=
  ∀ tgt, s.place o.w (opRec o l) f.space (opRec o l).addr.toNat true = .here tgt →
    StoreFrame (DeviceOld s t (warpCid o.w)) (if f.ord = .rel then s.releaseAt (warpCid o.w) f.scope else s) s t
      (whoAt s o (f.cache = .nol1 || (f.ord = .rel && scopeWide f.scope))) tgt (widthBytes f.width) (f.fe = .set)

/-- ATOM, RED and CAS, in every order and scope: the bytes of their operand (R247, R273). -/
def keepsAtomic (f : RForm) (s : State) (o : Op) (l : Nat) (t : State) : Prop :=
  ∀ tgt, s.genericAddr o.w l (opRec o l).hm (opRec o l).a.toNat = .here tgt →
    StoreFrame (DeviceOld s t (warpCid o.w))
      (if subBits f 4 3 = 2 ∨ subBits f 4 3 = 3 then s.releaseAt (warpCid o.w) (scopeOfCode (subBits f 7 5)) else s) s t (whoAt s o false) tgt
      (atomBytes f.ty) false

/-- One access of several: its target, effective address and length, and the bytes that it writes. -/
structure Touch where
  tgt : Target
  ea : Nat
  n : Nat
  w : Option (List Byte)
  deriving DecidableEq, Repr

/-- Accesses in order, each of which ends with its bytes. -/
def Touches (q : Who) (xs : List Touch) (s t : State) : Prop :=
  match xs with
  | [] => t = s
  | x :: rest => ∃ s1 bs, s.access q x.tgt x.ea x.n x.w = (s1, .ok bs) ∧ Touches q rest s1 t

/-- TST: nothing but accesses, and every one that writes is at the place of a part of an element that the lane names, in bounds (R298). -/
def keepsTst (f : RForm) (s : State) (o : Op) (l : Nat) (t : State) : Prop :=
  ∃ xs, Touches (s.whoOf o) xs s t ∧ ∀ x ∈ xs, ∀ d, x.w = some d →
    ∃ s1 y, s.readLayout o (opRec o l) = (s1, .ok y) ∧ ∃ k < tldN f, y.inBounds (tldCoord (opRec o l) k) = true ∧
      ∃ p ∈ elemParts y (tldCoord (opRec o l) k) (some 0), x.ea = p.ea ∧ x.n = p.n ∧ d.length = p.n ∧
        s.place o.w (opRec o l) y.sp p.ea true = .here x.tgt

/-- PKST: nothing but accesses, and every one that writes is of a range of the store that R300 names: the tile's data, its table entry, the record's
append offset. -/
def keepsPkst (s : State) (o : Op) (l : Nat) (t : State) : Prop :=
  let r := opRec o l
  let c := s.wgCoreOf o.w
  let a := (r.a.truncate 32 : Word).toNat
  ∃ xs, Touches (s.whoOf o) xs s t ∧ ∀ x ∈ xs, ∀ d, x.w = some d →
    ∃ s1 p, s.readPk (s.whoOf o) c a = (s1, .ok p) ∧ d.length = x.n ∧ scratchPlace c (warpCid o.w) x.ea = .here x.tgt ∧
      ((p.dbase + p.append ≤ x.ea ∧ x.ea + x.n ≤ p.dbase + p.dsize) ∨
       (x.ea = p.tbase + 4 * (r.b.truncate 32 : Word).toNat ∧ x.n = 4) ∨ (x.ea = a + 8 ∧ x.n = 4))

/-- A write of accumulator tiles alone: beside them only poison marks go, and no element changes for which `hit` does not hold. -/
def TilesFrame (hit : Nat → Prop) (s t : State) : Prop :=
  t = { s with cores := { s.cores with acc := t.cores.acc }, mem := { s.mem with poison := t.mem.poison } } ∧
    ∀ k, ¬ hit k → dmapGet 0 t.cores.acc k = dmapGet 0 s.cores.acc k

/-- ACCZ: the tiles it names (R174). -/
def keepsAccz (f : RForm) (s : State) (o : Op) (l : Nat) (t : State) : Prop :=
  let fr := (s.wgCoreOf o.w).acc0 + accNum f.dst
  TilesFrame (fun k => accKey (warpCid o.w) fr 0 0 ≤ k ∧ k < accKey (warpCid o.w) (fr + ((opRec o l).a.truncate 32 : Word).toNat) 0 0) s t

/-- ACCWR and ACCIN: `n` columns from the one named, in the rows of the lanes (R175, R177). -/
def keepsRows (n : Nat) (f : RForm) (s : State) (o : Op) (l : Nat) (t : State) : Prop :=
  TilesFrame (fun k => ∃ i ∈ lanesOf o.lanes, ∃ j < n,
    k = accKey (warpCid o.w) ((s.wgCoreOf o.w).acc0 + accNum f.dst) i (((opRec o l).b.truncate 32 : Word).toNat + j)) s t

/-- ACCRD and ACCOUT: no store at all; under .rsr the generators of the lanes step (R175, R176). -/
def keepsTiles (s : State) (o : Op) (_ : Nat) (t : State) : Prop :=
  t = { s with regs := t.regs, mem := { s.mem with poison := t.mem.poison } } ∧ { t.regs with rng := s.regs.rng } = s.regs ∧
    ∀ w l, l < 32 → (w ≠ o.w ∨ o.lanes.getLsbD l = false) → t.regs.getRng w l = s.regs.getRng w l

/-- CPY and XFORM at their acceptance, when the descriptor names a plan that works: the core's written bytes go home, and no byte and no register
changes otherwise (R252, R289). -/
def keepsEngine (xform : Bool) (f : RForm) (s : State) (o : Op) (l : Nat) (t : State) : Prop :=
  let j := { engineJob xform f s o l with order := s.serial + 1 }
  let s1 := { (s.releaseAt (warpCid o.w) .fabric).setJob o.seq j with serial := s.serial + 1 }
  let v := s1.jobEnv (s1.takeLines j) false
  (if xform ∧ f.sub.toNat % 16 = 9 then (∃ p, v.redBits = .ok p) ∧ (∃ p, v.redRecs = .ok p) ∧ s1.redRank (s1.takeLines j) ≠ none
   else ∃ us, v.plan = .ok us) →
  t.cores = s.cores ∧ t.regs = s.regs ∧ t.mem.host = s.mem.host ∧ DeviceOld s t (warpCid o.w) 0 0

/-- The runs of an update on chip, by core and offset (R233). -/
def updateChip (u : Update) : List BlockRun :=
  u.2.filterMap (fun p => if 2 ^ 61 ≤ p.1 then some ⟨(p.1 - 2 ^ 61) % 2 ^ 40 / 2 ^ 24, (p.1 - 2 ^ 61) % 2 ^ 24, p.2.length⟩ else none)

/-- What an update of an engine job leaves as it was: every byte, in each kind of storage, that none of its runs names, and the caches (R249,
R289). -/
def UpdateFrame (s t : State) (u : Update) : Prop :=
  t = { s with regs := t.regs, warps := t.warps, jobs := t.jobs, stackRegs := t.stackRegs,
               cores := { s.cores with scratch := t.cores.scratch, fe := t.cores.fe, loft := t.cores.loft, acc := t.cores.acc }
               mem := { s.mem with home := t.mem.home, host := t.mem.host, poison := t.mem.poison, promos := t.mem.promos } } ∧
  (∀ a, (∀ p ∈ u.2, p.1 < 2 ^ 60 → a < s.homePa p.1 ∨ s.homePa p.1 + p.2.length ≤ a) → dmapGet 0 t.mem.home a = dmapGet 0 s.mem.home a) ∧
  (∀ a, (∀ p ∈ u.2, 2 ^ 60 ≤ p.1 → p.1 < 2 ^ 61 → a < p.1 - 2 ^ 60 ∨ p.1 - 2 ^ 60 + p.2.length ≤ a) →
    dmapGet 0 t.mem.host a = dmapGet 0 s.mem.host a) ∧
  (∀ a, (∀ r ∈ updateChip u, r.ofs < 2 ^ 20 → a < r.cid * 2 ^ 20 + r.ofs ∨ r.cid * 2 ^ 20 + r.ofs + r.n ≤ a) →
    dmapGet 0 t.cores.scratch a = dmapGet 0 s.cores.scratch a) ∧
  (∀ k, (∀ g ∈ updateGranules u, k ≠ g.1) → dmapGet false t.cores.fe k = dmapGet false s.cores.fe k) ∧
  ((∀ r ∈ updateChip u, r.ofs < 2 ^ 20 ∨ r.inViews) → ViewsKeep s t ((updateChip u).filter (fun r => decide (2 ^ 20 ≤ r.ofs))))

end Sys2Proof.Machine
end

