-- ==== Sys2Proof/Certificates/Slice0/Obligations.lean ====
section
/-! DEFINITION. The statements for the provers, each from the rules of the specification that it names. -/

open Sys2Proof Sys2Proof.Machine

/-! ## The instructions of fixed latency -/

/-- NOP, MOV, MOVI and SEL complete (R110): the lanes of M take the value of the operand, the immediate or the selected operand. CVGET, ACTMASK and
RDSR complete (R138, R143, R406, R407): they take a convergence register, the mask of M, or a special register. -/
def Obligations.MovesReadsComplete : Prop :=
  (
    (∀ (h : Hdr) (f : RForm),
      Completes (.nop h f) h (fun _ _ => ⟨[], 0⟩) ∧
      Completes (.mov h f) h (fun s c => outT s c f.dst f.ty (s.src c f.ty f.sa)) ∧
      Completes (.sel h f) h (fun s c => outT s c f.dst f.ty (if s.srcP c f.sc != f.sub.getLsbD 0 then s.src c f.ty f.sa else s.src c f.ty f.sb))) ∧
    (∀ (h : Hdr) (f : IForm),
      Completes (.movi h f) h (fun s c => outT s c f.dst f.ty (if f.ty = .i64 then f.imm.signExtend 64 else f.imm.zeroExtend 64)))) ∧
  (
    (∀ (h : Hdr) (f : RForm),
      Completes (.cvget h f) h (fun s c => outT s c f.dst .b32 (s.src c .b32 f.sa)) ∧
      Completes (.actmask h f) h (fun s c => out32 s c f.dst c.m.toNat) ∧
      Completes (.rdsr h f) h (outRdsr f)))

/-- The integer instructions complete (R111): exact on the operand values of TYPE, then wrapped or, with SAT, clamped. -/
def Obligations.IntegerComplete : Prop :=
  (∀ (h : Hdr) (f : RForm),
    Completes (.add h f) h (outInt f (fun a b _ => a + b)) ∧
    Completes (.subOp h f) h (outInt f (fun a b _ => a - b)) ∧
    Completes (.mul h f) h (outInt f (fun a b _ => a * b)) ∧
    Completes (.mulhi h f) h (outInt f (fun a b _ => (a * b) / 2 ^ intW f.ty)) ∧
    Completes (.mad h f) h (outInt f (fun a b c => a * b + c)) ∧
    Completes (.madw h f) h (outMadw f) ∧
    Completes (.absOp h f) h (outInt f (fun a _ _ => (a.natAbs : Int))) ∧
    Completes (.minOp h f) h (outInt f (fun a b _ => min a b)) ∧
    Completes (.maxOp h f) h (outInt f (fun a b _ => max a b))) ∧
  (∀ (h : Hdr) (f : IForm),
    Completes (.addi h f) h (outIntI f (fun a b => a + b)) ∧
    Completes (.muli h f) h (outIntI f (fun a b => a * b)))

/-- The logic instructions complete (R112), over one register or a pair; the shifts, the bit-field and bit-count instructions, BSEL and LEA complete
(R113 to R116). -/
def Obligations.LogicShiftFieldComplete : Prop :=
  (
    (∀ (h : Hdr) (f : RForm),
      Completes (.andOp h f) h (outBits f (fun s c => s.src c f.ty f.sa &&& srcNotb f s c)) ∧
      Completes (.orOp h f) h (outBits f (fun s c => s.src c f.ty f.sa ||| srcNotb f s c)) ∧
      Completes (.xorOp h f) h (outBits f (fun s c => s.src c f.ty f.sa ^^^ srcNotb f s c)) ∧
      Completes (.tern h f) h (outBits f (fun s c => tern f.sub (s.src c f.ty f.sa) (s.src c f.ty f.sb) (s.src c f.ty f.sc)))) ∧
    (∀ (h : Hdr) (f : IForm),
      Completes (.andi h f) h (fun s c => outT s c f.dst .b32 (s.src c .b32 f.sa &&& f.imm.zeroExtend 64)) ∧
      Completes (.ori h f) h (fun s c => outT s c f.dst .b32 (s.src c .b32 f.sa ||| f.imm.zeroExtend 64)) ∧
      Completes (.xori h f) h (fun s c => outT s c f.dst .b32 (s.src c .b32 f.sa ^^^ f.imm.zeroExtend 64)))) ∧
  (
    (∀ (h : Hdr) (f : RForm),
      Completes (.shl h f) h (outShl f) ∧
      Completes (.shr h f) h (outShr f) ∧
      Completes (.sar h f) h (outSar f) ∧
      Completes (.rot h f) h (outRot f) ∧
      Completes (.fsh h f) h (outFsh f) ∧
      Completes (.bfx h f) h (outBfx f) ∧
      Completes (.bfi h f) h (outBfi f) ∧
      Completes (.popc h f) h (fun s c => out32 s c f.dst (popcountN 64 (srcN s c f.ty f.sa))) ∧
      Completes (.clz h f) h (fun s c => out32 s c f.dst (leadingZeros (bitsOf f.ty) (srcN s c f.ty f.sa))) ∧
      Completes (.ctz h f) h (fun s c => out32 s c f.dst (trailingZeros (bitsOf f.ty) (srcN s c f.ty f.sa))) ∧
      Completes (.brev h f) h (outBits f (fun s c => BitVec.ofNat 64 (revBits (bitsOf f.ty) (srcN s c f.ty f.sa)))) ∧
      Completes (.bsel h f) h (outBsel f) ∧
      Completes (.lea h f) h (outLea f)))

/-- Comparisons, predicate logic, CVTI, DP4 and the branch-target and loop-counter instructions complete (R117 to R121); PACK, UNPK, SPX and SPEXP
complete (R131, R132, R135, R136). -/
def Obligations.CompareConvertNarrowComplete : Prop :=
  (
    (∀ (h : Hdr) (f : RForm),
      Completes (.cmp h f) h (outCmp f) ∧
      Completes (.plop h f) h (outPlop f) ∧
      Completes (.p2v h f) h (fun s c => out32 s c f.dst (s.regs.getPs c.w c.l).toNat) ∧
      Completes (.cvti h f) h (outCvti f) ∧
      Completes (.dp4 h f) h (outDp4 f) ∧
      Completes (.movbt h f) h (fun s c => outT s c f.dst .b32 (s.src c .n32 f.sa))) ∧
    (∀ (h : Hdr) (f : IForm),
      Completes (.cmpi h f) h (fun s c => outP s c f.dst (intCond f.sub.toNat (intOf f.ty (srcN s c f.ty f.sa)) (immInt f.ty f.imm))) ∧
      Completes (.tgt h f) h (fun s c => outT s c f.dst .b32 (f.imm.zeroExtend 64)) ∧
      Completes (.setlc h f) h (fun s c => outT s c f.dst .b32 (f.imm.zeroExtend 64)))) ∧
  (
    (∀ (h : Hdr) (f : RForm),
      Completes (.pack h f) h (outPack f) ∧
      Completes (.unpk h f) h (outUnpk f) ∧
      Completes (.spx h f) h (outSpx f) ∧
      Completes (.spexp h f) h (outSpexp f)))

/-- The floating instructions complete: arithmetic, formed exactly and rounded once (R100, R122, R129, R130); minimum, maximum, comparison, class,
rounding to an integral value and conversions (R123 to R127); the special functions (R128). -/
def Obligations.FloatingComplete : Prop :=
  (
    (∀ (h : Hdr) (f : RForm),
      Completes (.fadd h f) h (outArith f (fun dn a b _ => fvAdd dn a b)) ∧
      Completes (.fmul h f) h (outArith f (fun _ a b _ => fvMul a b)) ∧
      Completes (.fma h f) h (outArith f fvFma) ∧
      Completes (.fdiv h f) h (outFdiv f) ∧
      Completes (.fsqrt h f) h (outFsqrt f) ∧
      Completes (.fscale h f) h (outFscale f) ∧
      Completes (.fadd2 h f) h (outArith f (fun dn a b _ => fvAdd dn a b)) ∧
      Completes (.fmul2 h f) h (outArith f (fun _ a b _ => fvMul a b)) ∧
      Completes (.fma2 h f) h (outArith f fvFma) ∧
      Completes (.fdot2 h f) h (outFdot2 f)) ∧
    (∀ (h : Hdr) (f : IForm),
      Completes (.faddi h f) h (outArithI f fvAdd) ∧
      Completes (.fmuli h f) h (outArithI f (fun _ a b => fvMul a b)))) ∧
  (
    (∀ (h : Hdr) (f : RForm),
      Completes (.fmin h f) h (outMinmax f false) ∧
      Completes (.fmax h f) h (outMinmax f true) ∧
      Completes (.fcmp h f) h (outFcmp f) ∧
      Completes (.fclass h f) h (fun s c => out32 s c f.dst (2 ^ fclassOf f.ty (srcN s c f.ty f.sa))) ∧
      Completes (.frnd h f) h (outFrnd f) ∧
      Completes (.fcvt h f) h (outFcvt f) ∧
      Completes (.f2i h f) h (outF2i f) ∧
      Completes (.i2f h f) h (outI2f f))) ∧
  (
    (∀ (h : Hdr) (f : RForm),
      Completes (.rcp h f) h (outSfu f .rcp) ∧
      Completes (.rsq h f) h (outSfu f .rsq) ∧
      Completes (.exp2 h f) h (outSfu f .exp2) ∧
      Completes (.log2 h f) h (outSfu f .log2) ∧
      Completes (.sin h f) h (outSfu f .sin) ∧
      Completes (.cos h f) h (outSfu f .cos) ∧
      Completes (.tanh h f) h (outSfu f .tanh)))

/-- CVSET completes when its register has no signer that waits (R138): the register takes the value of the lowest lane of M, or has it ANDed or ORed
in, or takes M. YIELD and PAUSE complete (R368, R369): the warp yields for 16 cc and its next issue slot is a rotation slot; or the warp is
demoted for 256 cc at most (each count stands two above: its own cycle and the one at which it is over count too). V2P completes when no predicate it writes is pending (R118): each predicate whose bit of b is 1 takes the bit of a. -/
def Obligations.WarpStateWritesComplete : Prop :=
  (
    ∀ (h : Hdr) (f : RForm) (s : State), s.CanIssue h (checkOf (.cvset h f)) → s.cvWaiters s.cur.w (cvNum f.dst) = false →
      exec (.cvset h f) s = .next (s.landed h (fun s c =>
        ⟨[.cv (cvNum f.dst) (match subBits f 1 0 with
          | 0 => s.src32 c .b32 f.sa
          | 1 => s.regs.getCv c.w (cvNum f.dst) &&& s.src32 c .b32 f.sa
          | 2 => s.regs.getCv c.w (cvNum f.dst) ||| s.src32 c .b32 f.sa
          | _ => c.m)], 0⟩))) ∧
  (
    ∀ (h : Hdr) (f : RForm) (s : State), s.activeSet h ≠ 0 →
      (s.CanIssue h (checkOf (.yield h f)) →
        exec (.yield h f) s = .next ((s.setWarp s.cur.w { s.warp s.cur.w with yieldLeft := 18, rotNext := true }).advance s h s.cur.w
          s.cur.pc (s.activeSet h) (s.offSet h))) ∧
      (s.CanIssue h (checkOf (.pause h f)) →
        exec (.pause h f) s = .next ((s.setWarp s.cur.w { s.warp s.cur.w with demotedLeft := 258 }).advance s h s.cur.w s.cur.pc
          (s.activeSet h) (s.offSet h)))) ∧
  (
    ∀ (h : Hdr) (f : RForm) (s : State), s.CanIssue h (checkOf (.v2p h f)) →
      (∀ l ∈ lanesOf s.cur.mask, ∀ k < 16, (s.src (s.rdFor 0 l) .b32 f.sb).getLsbD k = true →
        s.waitUse s.cur.w l ⟨.p (BitVec.ofNat 4 k), 1, true⟩ = false ∧ s.lavUse s.cur.w l ⟨.p (BitVec.ofNat 4 k), 1, true⟩ = false) →
      exec (.v2p h f) s = .next (s.landed h (fun s c =>
        ⟨((List.range 16).filter (fun k => (s.src c .b32 f.sb).getLsbD k)).map (fun k => .p c.l k ((s.src c .b32 f.sa).getLsbD k)), 0⟩)))

/-- WRSR completes for %fpflags, %fpctl and %rng in every mode, and in handler mode for %trapbase, %traphandler and %wdog (R408). RDIR and WRIR
complete in handler mode when their target is not pending for a parked replay (R421), RDIR when it is not poisoned (R429): they read and write
the registers of the interrupted code. RFT completes in handler mode once the lanes' earlier instructions and pending replays are done (R422):
the lanes of M leave the handler, with .retry or .adv. -/
def Obligations.HandlerInstructionsComplete : Prop :=
  (
    ∀ (h : Hdr) (f : RForm) (s : State), s.CanIssue h (checkOf (.wrsr h f)) →
      (srNum f.sb = 0x30 ∨ srNum f.sb = 0x31 ∨ srNum f.sb = 0x32 ∨
        ((srNum f.sb = 0x50 ∨ srNum f.sb = 0x51 ∨ srNum f.sb = 0x52) ∧ ∀ l ∈ lanesOf s.cur.mask, s.inHandler s.cur.w l = true)) →
      exec (.wrsr h f) s = .next (s.landed h (fun s c =>
        let x := s.src c f.ty f.sa
        ⟨if srNum f.sb = 0x30 then [.fpflags (x.truncate 32)] else if srNum f.sb = 0x31 then [.fpctl (x.truncate 32)]
          else if srNum f.sb = 0x32 then [.rng c.l (x.truncate 32)] else if srNum f.sb = 0x50 then [.trapbase x]
          else if srNum f.sb = 0x51 then [.traphandler (x.truncate 32)] else [.wdog (x.truncate 32)], 0⟩))) ∧
  (
    ∀ (h : Hdr) (f : RForm) (s : State), (∀ l ∈ lanesOf s.cur.mask, s.inHandler s.cur.w l = true) →
      (s.CanIssue h (checkOf (.rdir h f)) → (∀ l ∈ lanesOf s.cur.mask, irWaits f f.sa s (s.rdFor 0 l) = false) →
        (∀ l ∈ lanesOf (s.activeSet h), irPoison f s (s.rdFor 0 l) = none) →
        exec (.rdir h f) s = .next (s.landed h (fun s c =>
          outT s c f.dst f.ty (match irTarget f f.sa s c with | some o => irRead f s c o | none => 0)))) ∧
      (s.CanIssue h (checkOf (.wrir h f)) → (∀ l ∈ lanesOf s.cur.mask, irWaits f f.sb s (s.rdFor 0 l) = false) →
        exec (.wrir h f) s = .next (s.landed h (fun s c =>
          ⟨match irTarget f f.sb s c with | some o => irWrites f c o (s.src c f.ty f.sa) | none => [], 0⟩)))) ∧
  (
    ∀ (h : Hdr) (f : RForm) (s : State), s.CanIssue h (checkOf (.rft h f)) →
      (∀ l ∈ lanesOf s.cur.mask, s.inHandler s.cur.w l = true ∧ s.laneBusy s.cur.w l = false ∧ s.recordWaits .m s.cur.w l = false) →
      exec (.rft h f) s = .next ((s.advance s h s.cur.w s.cur.pc (s.activeSet h) (s.offSet h)).leaveHandler s.cur.w (f.sub.getLsbD 0)
        (s.activeSet h)))

/-- BRK and TRAP take their exception (R415 to R420): cause BRK, or cause SWT with the low byte of SA of the lowest lane as sub-cause;
the frame is written, and the lanes of M enter the handler. -/
def Obligations.BreakAndTrapTaken : Prop :=
  ∀ (h : Hdr) (f : RForm) (s s1 : State),
    (s.CanIssue h (checkOf (.brk h f)) → s.CanTrap h (s.trapOf h .brk 0 (slotsR f .b32 .b32 .b32)) s1 →
      exec (.brk h f) s = .next (s1.enterLanes s.cur.w (s.trapOf h .brk 0 (slotsR f .b32 .b32 .b32)))) ∧
    (let sub := (s.src (s.rdFor 0 ((leadOf (s.activeSet h)).getD 0)) .b32 f.sa).toNat % 256
     s.CanIssue h (checkOf (.trap h f)) → s.CanTrap h (s.trapOf h .swt sub (slotsR f .b32 .b32 .b32)) s1 →
      exec (.trap h f) s = .next (s1.enterLanes s.cur.w (s.trapOf h .swt sub (slotsR f .b32 .b32 .b32))))

/-- A word of the emulation space whose guard field is one raises EMU in the lanes of M, with the operand slots of R418 (R63, R144):
IDIV and IREM too. -/
def Obligations.EmulationTrapTaken : Prop :=
  ∀ (x : IWord) (s s1 : State), rejectCause x = .emu → s.CanIssue (grdHdr x) ⟨true, guardUses (grdHdr x)⟩ →
    s.CanTrap (grdHdr x) (s.trapOf (grdHdr x) .emu 0 (emuSlots x)) s1 →
    exec (.idiv x) s = .next (s1.enterLanes s.cur.w (s.trapOf (grdHdr x) .emu 0 (emuSlots x))) ∧
    exec (.irem x) s = .next (s1.enterLanes s.cur.w (s.trapOf (grdHdr x) .emu 0 (emuSlots x))) ∧
    exec (.unassignedOpcode x) s = .next (s1.enterLanes s.cur.w (s.trapOf (grdHdr x) .emu 0 (emuSlots x)))

/-! ## The long-latency instructions -/

/-- Loads, stores, prefetch, cache control and fences complete (R244, R265 to R270, R275). -/
def Obligations.MemoryInstructionsComplete : Prop :=
  (∀ (h : Hdr) (f : MForm),
    CompletesLong (.ld h f) h (opLd f) (partLd f) ∧
    CompletesLong (.st h f) h (opSt f) (partSt f) ∧
    CompletesLong (.prfm h f) h (opPrfm f) (partPrfm f)) ∧
  (∀ (h : Hdr) (f : RForm),
    CompletesLong (.cctl h f) h (opCctl f) (partCctl f) ∧
    CompletesLong (.fence h f) h (opFence f) (partFence f))

/-- Atomics and the full-empty instructions complete (R271 to R276). -/
def Obligations.AtomicFullEmptyComplete : Prop :=
  ∀ (h : Hdr) (f : RForm),
    CompletesLong (.atom h f) h (opAtom f false true) (partAtomic f (hostAtomic false (subBits f 2 0) f.ty) (atomWrites f) true) ∧
    CompletesLong (.red h f) h (opAtom f false false) (partAtomic f (hostAtomic false (subBits f 2 0) f.ty) (atomWrites f) false) ∧
    CompletesLong (.cas h f) h (opAtom f true true) (partAtomic f true (casWrites f) true) ∧
    CompletesLong (.feset h f) h (opFeset f) (partFeset f) ∧
    CompletesLong (.feqry h f) h (opFeqry f) (partFeqry f)

/-- Multicast, arrival counters and neighbour links complete (R277 to R287, R302, R303). That the first generation of a group is 0, and that entries on
the link and those of every gang count toward a full queue, is the model's choice (log entries 30 and 92). -/
def Obligations.ExchangeInstructionsComplete : Prop :=
  (∀ (h : Hdr) (f : MForm), CompletesLong (.ldmc h f) h (opLdmc f) (partLdmc f)) ∧
  (∀ (h : Hdr) (f : RForm),
    CompletesLong (.mcjoin h f) h (opMcjoin f) (partMcjoin f) ∧
    CompletesLong (.mcleave h f) h (opMcleave f) partMcleave ∧
    CompletesLong (.acinit h f) h (opAcinit f) (partAcinit f) ∧
    CompletesLong (.arrive h f) h (opArrive f) (partArrive f) ∧
    CompletesLong (.acfree h f) h (opAcfree f) partAcfree ∧
    CompletesLong (.nnsend h f) h (opNnsend f) (partNnsend f) ∧
    CompletesLong (.nnrecv h f) h (opNnrecv f) (partNnrecv f))

/-- The loft instructions and ACCZ complete (R156 to R165, R174). -/
def Obligations.LoftInstructionsComplete : Prop :=
  ∀ (h : Hdr) (f : RForm),
    CompletesLong (.lres h f) h (opLres f) (partLres f) ∧
    CompletesLong (.lrel h f) h (opLrel f) partLrel ∧
    CompletesLong (.lstat h f) h (opLstat f) (partLstat f) ∧
    CompletesLong (.lld h f) h (opLld f) (partLld f) ∧
    CompletesLong (.accz h f) h (opAccz f) (partAccz f)

/-- CPY and XFORM are accepted, and the tensor and packed-tile instructions complete (R289 to R301). -/
def Obligations.EngineTensorComplete : Prop :=
  ∀ (h : Hdr) (f : RForm),
    CompletesLong (.cpy h f) h (opCpy f) (partEngine false f) ∧
    CompletesLong (.xform h f) h (opXform f) (partEngine true f) ∧
    CompletesLong (.tld h f) h (opTld f) (partTld f) ∧
    CompletesLong (.tst h f) h (opTst f) (partTst f) ∧
    CompletesLong (.pkst h f) h (opPkst f) (partPkst f) ∧
    CompletesLong (.pkld h f) h (opPkld f) (partPkld f)

/-- Rings, graph launch, tiles and the reorder unit: the instructions complete (R229, R325, R329, R351, R359). That the release of a TDONE and the acquire
of a take have card scope is the model's reading of R259 (log entry 39). -/
def Obligations.GraphInstructionsComplete : Prop :=
  ∀ (h : Hdr) (f : RForm),
    CompletesLong (.racq h f) h (opRacq false f) (partRacq false f) ∧
    CompletesLong (.rtake h f) h (opRacq true f) (partRacq true f) ∧
    CompletesLong (.rfill h f) h (opRfill false f) (partRfill false) ∧
    CompletesLong (.rfree h f) h (opRfill true f) (partRfill true) ∧
    CompletesLong (.glaunch h f) h (opGlaunch f) partGlaunch ∧
    CompletesLong (.tdone h f) h (opTdone f) (partTdone f) ∧
    CompletesLong (.rtnext h f) h (opRtnext f) (partRtnext f) ∧
    CompletesLong (.reord h f) { h with nxt := .exit } (opReord f) (partReord f)

/-- The instructions of the texture, atlas, raster and ray units complete or are accepted (R189 to R228). That a gradient which is no number gives
TEXG no taps, and the length of a set-up unit's queue, of which an empty one always takes a triangle, are the model's choices (log entries 80
and 7). -/
def Obligations.UnitInstructionsComplete : Prop :=
  ∀ (h : Hdr) (f : RForm),
    CompletesLong (.cutsel h f) h (opCutsel f) (partCutsel f) ∧
    CompletesLong (.shdec h f) h (opShdec f) (partShdec f) ∧
    CompletesLong (.tex h f) h (opTex f) (partTaps texTaps f) ∧
    CompletesLong (.texg h f) h (opTexg f) (partTaps texgTaps f) ∧
    CompletesLong (.texld h f) h (opTexld f) (partTexld f) ∧
    CompletesLong (.texq h f) h (opTexq f) (partTexq f) ∧
    CompletesLong (.primemit h f) h (opPrimemit f) (partPrimemit f) ∧
    CompletesLong (.iattr h f) h (opIattr f) (partIattr f) ∧
    CompletesLong (.fout h f) h (opFout f) (partFout f) ∧
    CompletesLong (.rayq h f) h (opRayq f) partRayq

/-- Exchange, votes, reductions and block quantisation complete when their round is complete (R133, R134, R137 to R142, R371, R372). -/
def Obligations.WarpWideComplete : Prop :=
  ∀ (h : Hdr) (f : RForm),
    CompletesWide (.shfl h f) h (cvOf f) (wideShfl f) (outShfl f) ∧
    CompletesWide (.vote h f) h (cvOf f) (wideVote f) (outVote f) ∧
    CompletesWide (.ballot h f) h (cvOf f) (wideBallot f) (outBallot f) ∧
    CompletesWide (.matchOp h f) h (cvOf f) (wideMatch f) (outMatch f) ∧
    CompletesWide (.redux h f) h (cvOf f) (wideRedux f) (fun s c l =>
      outT s (c.lane l) f.dst f.ty (reduxOver f s c (lanesOf c.m))) ∧
    CompletesWide (.prefixOp h f) h (cvOf f) (widePrefix f) (fun s c l =>
      outT s (c.lane l) f.dst f.ty (reduxOver f s c ((lanesOf c.m).filter (fun j => decide (j < l) || (j = l && !f.sub.getLsbD 6))))) ∧
    CompletesWide (.fredux h f) h (cvOf f) (wideFredux f) (outFredux f) ∧
    CompletesWide (.qnt h f) h (cvOf f) (wideQnt f) (outQnt f) ∧
    CompletesWide (.dqnt h f) h (cvOf f) (wideDqnt f) (outDqnt f)

/-- The moves between scratch, registers and accumulator tiles complete (R167, R168, R175 to R177). -/
def Obligations.MatrixMovesComplete : Prop :=
  ∀ (h : Hdr) (f : RForm),
    CompletesWideLong (.ldt4 h f) h (cvOf f) (wideLdt4 h f) (opLdt4 f) (partLdt4 f) ∧
    CompletesWideLong (.accrd h f) h (cvOf f) (wideAccrd h f) (opAccrd f) (partAccrd f) ∧
    CompletesWideLong (.accwr h f) h (cvOf f) (wideAccwr h f) (opAccwr f) (partAccwr f) ∧
    CompletesWideLong (.accout h f) h (cvOf f) (wideAccout h f) (opAccout f) (partAccout f) ∧
    CompletesWideLong (.accin h f) h (cvOf f) (wideAccin h f) (opAccin f) (partAccin f)

/-- MMA and MMAQ execute when their round is complete and their slice's queue has room (R146, R170, R171): the operand A, the step and the
lanes C are captured, .keepa fills the latch, and the instruction waits for its slice behind those that wait, or runs in it when it is free. -/
def Obligations.MatrixMultiplyComplete : Prop :=
  ∀ (block : Bool) (h : Hdr) (f : RForm) (s : State) (r : Resv),
    let i : Instr := if block then .mmaq h f else .mma h f
    let t := s.signersGone i h (cvOf f)
    let c := s.rdWide (s.round i h (cvOf f))
    let id := t.serial + 1
    let q := warpCid s.cur.w * 4 + warpSlot s.cur.w / 16
    s.CanExecute i h (cvOf f) (wideMma block i h f) → (s.round i h (cvOf f)).acting ≠ 0 →
    (t.wgCoreOf s.cur.w).held ((t.src c .n32 f.sb).toNat % 16) = some r →
    ∃ u o, exec i s = .next u ∧ nmapFind u.ops id = some o ∧
      o.mma = some { cid := warpCid s.cur.w, frame := (t.wgCoreOf s.cur.w).acc0 + accNum f.dst, a := readA block f t c, resv := r,
                     loftBase := 1024 * (t.wgCoreOf s.cur.w).loftb, step := (t.src c .n32 f.sb).toNat / 2 ^ 16, lanes := c.m,
                     snap := t.stepBytes (warpCid s.cur.w) (1024 * (t.wgCoreOf s.cur.w).loftb) f.ty r ((t.src c .n32 f.sb).toNat / 2 ^ 16) } ∧
      o.pend = [.tile (warpCid s.cur.w) ((t.wgCoreOf s.cur.w).acc0 + accNum f.dst)] ∧
      (f.sub.getLsbD 3 = true → (u.warp s.cur.w).latchA = some (readA block f t c)) ∧
      (nmapFind t.cores.running q = none → dmapGet [] t.cores.slices q = [] → nmapFind u.cores.running q = some id) ∧
      (∀ k rest, nmapFind t.cores.running q = none → dmapGet [] t.cores.slices q = k :: rest → nmapFind u.cores.running q = some k ∧
        dmapGet [] u.cores.slices q = rest ++ [id]) ∧
      (∀ k, nmapFind t.cores.running q = some k → nmapFind u.cores.running q = some k ∧
        dmapGet [] u.cores.slices q = dmapGet [] t.cores.slices q ++ [id])

/-! ## The machine's own events -/

/-- The events of issue and time complete: a rotation slot (R365, R368), aging (R367), the end of a YIELD's 16 cc (R368) and of a PAUSE's
256 cc (R369), and the entry of a held trap once no lane of the warp is in a handler (R415). -/
def Obligations.SchedulingEventsComplete : Prop :=
  ∀ (s : State) (w : Nat), (nmapFind s.warps w).isSome = true →
    (rotationDue (s.warp w) = true → s.cur.mask = 0 → exec (.rotationSlot w) s = .next (s.takeSlot State.nextWaits w true)) ∧
    (64 ≤ (s.warp w).waited → (s.warp w).demotedLeft ≤ 1 → (s.warp w).aged = false → s.ready State.nextWaits w = true →
      exec (.warpAged w) s = .next (s.setWarp w { s.warp w with aged := true })) ∧
    ((s.warp w).yieldLeft = 1 → exec (.yieldPeriodEnd w) s = .next (s.setWarp w { s.warp w with yieldLeft := 0 })) ∧
    ((s.warp w).demotedLeft = 1 → exec (.demotionEnd w) s = .next (s.setWarp w { s.warp w with demotedLeft := 0 })) ∧
    ((s.warp w).hmode = 0 → exec (.trapEntry w) s = .next (s.enterHandler w))

/-- The wait watchdog fires (R376, R377, R424): once the waits that are over have ended, the context of a warp that still has a lane over
its count ends, and the capture names the overdue warp of the lowest WHERE, its overdue lanes, the pc and wait code of the lowest, and each
overdue lane in its overdue wait (R455). -/
def Obligations.WatchdogFires : Prop :=
  ∀ (s : State) (w v : Nat) (o : Overdue) (vs : List Nat) (os : List Overdue),
    let t := s.endWaits w
    let due := (t.warps.filter (fun e => e.2.ctx = (t.warp w).ctx && !(t.overdue e.1).isEmpty)).map (·.1)
    (nmapFind t.warps w).isSome = true → t.overdue w ≠ [] →
    sortBy (fun a b => decide (t.whereOf a < t.whereOf b)) due = v :: vs → t.overdue v = o :: os →
    exec (.waitWatchdogFire w) s = .next
      (t.fatalEnd (t.warp w).ctx
        { w := v, lanes := maskOf ((o :: os).map (·.lane)), pc := o.pc, cause := Cause.waitto.code, sub := o.code, faddr := 0,
          flags := if (o :: os).any (fun q => t.inHandler v q.lane) then 1 else 0,
          fmasks := due.foldl (fun (m : NMap Mask) u => nmapSet m u (maskOf ((t.overdue u).map (·.lane)))) [], ended := t.endedWaits due })

/-- A fetch at or beyond CODELEN raises PROT with the pc as fault address (R33); a line leaves a core's L1, its written bytes merged at the
home first, when no job owns one of the written lines (R239, R250); a walk's leaf stays cached (R393, R397). -/
def Obligations.FetchEvictionWalkComplete : Prop :=
  ∀ (s : State),
    ((s.wgOf s.cur.w).launch.codelen ≤ s.cur.pc.toNat →
      exec .fetchBeyondCodeSegment s = .next (s.raiseFetch .prot 0 (BitVec.ofNat 64 s.cur.pc.toNat))) ∧
    (∀ cid line : Nat, s.dirtyOwned cid (128 * line) (128 * line + 128) = false →
      let t := s.writeBackRange cid (128 * line) (128 * line + 128)
      exec (.l1Eviction cid line) s = .next
        { t with mem := { t.mem with l1 := nmapClear t.mem.l1 (l1Key cid (128 * line)) (l1Key cid (128 * line + 128)) } }) ∧
    (∀ (c va : Nat) (acc : AccKind) (t : State) (host : Bool) (pa : Nat), s.ctxLive c = true → (s.ctx c).phase = .running →
      s.translate c va acc = (t, .to host pa) → exec (.pageWalk c va acc) s = .next t)

/-- An instruction that waits is performed when what it waited for is there: a ring slot (R359), a tile index (R352), the engine's queue
(R289), the CUTSEL unit's (R189, R193), the launch queue (R329), a multicast group's drain (R284), the ask of a multicast load (R285, R286). That
a group's first generation is 0 and that a take is an acquire at card scope are the model's choices (log entries 30 and 39). -/
def Obligations.WaitEndEventsComplete : Prop :=
  ∀ (s t : State) (id : Nat) (o : Op) (h : Hdr), nmapFind s.ops id = some o →
    (∀ f, o.instr = .racq h f → Performs (opRacq false f).once (partRacq false f) id (lanesOf o.todo) s t →
      exec (.ringWaitEnd id) s = .next t) ∧
    (∀ f, o.instr = .rtake h f → Performs (opRacq true f).once (partRacq true f) id (lanesOf o.todo) s t →
      exec (.ringWaitEnd id) s = .next t) ∧
    (∀ f, o.instr = .rtnext h f → Performs (opRtnext f).once (partRtnext f) id (lanesOf o.todo) s t →
      exec (.tileIndexTake id) s = .next t) ∧
    (∀ f, o.instr = .cpy h f → Performs (opCpy f).once (partEngine false f) id (waitingLanes o) s t →
      exec (.engineJobAccept id) s = .next t) ∧
    (∀ f, o.instr = .xform h f → Performs (opXform f).once (partEngine true f) id (waitingLanes o) s t →
      exec (.engineJobAccept id) s = .next t) ∧
    (∀ f, o.instr = .cutsel h f → Performs (opCutsel f).once (partCutsel f) id (lanesOf o.todo) s t →
      exec (.cutselJobAccept id) s = .next t) ∧
    (∀ f, o.instr = .glaunch h f → Performs (opGlaunch f).once partGlaunch id (lanesOf o.todo) s t →
      exec (.launchQueueAccept id) s = .next t) ∧
    (∀ f, o.instr = .mcjoin h f → Performs (opMcjoin f).once (partMcjoin f) id (waitingLanes o) s t →
      exec (.mcjoinDrainEnd id) s = .next t) ∧
    (∀ f l, o.instr = .ldmc h f → Performs (opLdmc f).once (partLdmc f) id ((waitingLanes o).filter (fun k => k = l)) s t →
      exec (.multicastAsk id l) s = .next t)

/-- A lane's exit, when it is due (R41): its automatic arrivals, its pc and its bit of %exited, the rounds left with no member to wait for, and what
the end of its warp and workgroup brings. The completions of outstanding instructions: a long-latency instruction whose parts are performed
writes its registers and leaves (R43, R268); a load or a store that waits on a full-empty bit is performed when the bit lets it (R266); LLD
ends, and the releases of its core's loft that wait look again (R163, R165); a slice of the matrix unit starts its next MMA and ends it with
its tile written (R146, R173). -/
def Obligations.CompletionEventsComplete : Prop :=
  (
    ∀ (s : State) (w l : Nat), s.exitDue w l = true →
      let s1 := s.autoArrive w l
      let x := s1.warp w
      exec (.laneExit w l) s = .next
        (((({ s1 with regs := s1.regs.setPc w l Config.exitedPc }.setWarp w
          { x with exited := x.exited ||| bit32 l, leaving := x.leaving &&& ~~~bit32 l, hmode := x.hmode &&& ~~~bit32 l }).endRounds
            w).endActivation w).settle)) ∧
  (
    ∀ (s : State) (id : Nat) (o : Op), nmapFind s.ops id = some o →
      (o.mma = none → o.accepted = false → o.todo = 0 → exec (.loadCompletion id) s = .next (s.completeOp id)) ∧
      (∀ h f l t, o.instr = .ld h f → (o.waitOf l).1 = .fullEmpty → o.todo.getLsbD l = true → Performs (opLd f).once (partLd f) id [l] s t →
        exec (.fullEmptyWaitEnd id l) s = .next t) ∧
      (∀ h f l t, o.instr = .st h f → (o.waitOf l).1 = .fullEmpty → o.todo.getLsbD l = true → Performs (opSt f).once (partSt f) id [l] s t →
        exec (.fullEmptyWaitEnd id l) s = .next t) ∧
      (∀ h f, o.instr = .lld h f → exec (.lldCompletion id) s = .next ((s.completeOp id).retryLrels (warpCid o.w))) ∧
      (∀ cid q rest, nmapFind s.cores.running (cid * 4 + q) = none → dmapGet [] s.cores.slices (cid * 4 + q) = id :: rest →
        exec (.matrixSliceStart cid q) s = .next
          ({ s with cores := { s.cores with running := nmapSet s.cores.running (cid * 4 + q) id,
                                            slices := dmapSet [] s.cores.slices (cid * 4 + q) rest } }.runSigned (cid * 4 + q))) ∧
      (∀ cid q m, nmapFind s.cores.running (cid * 4 + q) = some id → o.mma = some m →
        exec (.mmaCompletion cid q) s = .next
          ((({ s.mmaWrite m with cores := { (s.mmaWrite m).cores with running := nmapErase (s.mmaWrite m).cores.running (cid * 4 + q) } }.modOp id
            (fun (x : Op) => { x with todo := 0 })).completeOp id).retryLrels cid)))

/-- The engine's lines and jobs, CUTSEL's jobs, ray queries, multicast fills, neighbour entries and the reorder unit go on (R190 to R194, R228, R230,
R250, R285, R286, R290, R303); and a collective reduction whose members are there starts their updates (R287, R290, R296). That a member whose
type or operation, and not only box, differs from the first's ends with ERR 4, and that one whose box cannot be read or written stops
alone before any of them starts, is the model's reading (log entry 33). -/
def Obligations.UnitEventsComplete : Prop :=
  (
    ∀ (s : State),
      (∀ id j u rest, nmapFind s.jobs id = some j → j.out = u :: rest → s.jobActive j = true → s.updateBlocked j u = false →
        exec (.engineLineWrite id) s = .next ((s.writeUpdate j.ctx u rest).setJob id { j with out := rest, done := j.done + u.1 })) ∧
      (∀ id j, nmapFind s.jobs id = some j → j.started = true → j.out = [] →
        exec (.engineJobCompletion id) s = .next
          ((({ s with jobs := nmapErase s.jobs id }.endAccepted id (fun o => statusWrites o j.status)).acquireAt j.cid j.scope).settle)) ∧
      (∀ id j ax bx t x, nmapFind s.cuts id = some j → j.fault = none → s.cutBlocked j = false → s.blockServes (.cutEngine j.stack) j.ctx = true →
        (s.ctx j.ctx).phase = .running → j.words = some (ax, bx) → atlasOk ax = true → viewOk bx = true →
        (j.range.getD (0, (atlasOf ax).nsheets)).1 ≤ (j.range.getD (0, (atlasOf ax).nsheets)).2 →
        (j.range.getD (0, (atlasOf ax).nsheets)).2 ≤ (atlasOf ax).nsheets →
        s.cutOutputs j (atlasOf ax) (viewOf bx) (j.range.getD (0, (atlasOf ax).nsheets)).1
          ((j.range.getD (0, (atlasOf ax).nsheets)).2 - (j.range.getD (0, (atlasOf ax).nsheets)).1) = .ok (t, x) →
        exec (.cutselJobEnd id) s = .next ((t.endCut id j x).settle)) ∧
      (∀ id o h f l t x, nmapFind s.ops id = some o → o.instr = .rayq h f → (rayAccepted o).getLsbD l = true → o.todo.getLsbD l = true →
        s.partHeld o l = false → s.rayQuery o (opRec o l) (f.sub.getLsbD 0) = (t, .ok x) →
        exec (.rayQueryCompletion id l) s = .next
          ((t.modOp id (partDone false o l (.done (dstWords (opRec o l).hm f.dst l (hitWords x))))).endQuery id l)) ∧
      (∀ id r, nmapFind s.holds id = some r → r.timer.isSome = true → exec (.holdTimerExpiry id) s = .next (s.examine true id)) ∧
      (∀ id r, nmapFind s.holds id = some r →
        let now := r.held.filter (s.partReady r)
        let s1 := now.foldl (fun (t : State) p => t.landPart r p) s
        exec (.multicastHeldPartLand id) s = .next
          (({ s1 with holds := nmapModify s1.holds id (fun (q : HoldRec) => { q with held := q.held.filter (fun p => !now.contains p) }) }.examine
            false id).openRecord id)) ∧
      (∀ cid dir e rest, s.flightQ (cid * 4 + dir) = e :: rest →
        exec (.neighbourEntryArrival cid dir) s = .next
          ({ s with cores := { s.cores with flight := dmapSet [] s.cores.flight (cid * 4 + dir) rest,
                                            links := dmapSet [] s.cores.links (cid * 4 + dir) (s.linkQ (cid * 4 + dir) ++ [e]) } }.wakeCore cid)) ∧
      (∀ cid, 4096 ≤ (s.entriesAt cid).length → (s.entriesAt cid).any (fun e => e.drain = 0) = true → exec (.reorderDrain cid) s = .next (s.drain cid)) ∧
      (∀ cid n, (s.entriesAt cid).any (fun e => e.drain = 0) = true → nmapFind s.cores.reTimer cid = some n → n + 4096 ≤ s.cyclesOf cid →
        exec (.reorderTimerExpiry cid) s = .next (s.drain cid))) ∧
  (
    ∀ (s : State) (ctx gid : Nat) (g : McGroup) (f : RedMember),
      nmapFind s.groups (groupKey ctx gid) = some g → s.redReady ctx gid = true → redFirst (s.redMembers ctx gid g.gen) = some f →
      let all := s.redMembers ctx gid g.gen
      let op := f.j.param 0 / 2 ^ 8 % 4
      let same (m : RedMember) : Bool := boxIs m.a f.a.box && m.a.ty = f.a.ty && m.j.param 0 / 2 ^ 8 % 4 = op
      let ms := all.filter (fun m => same m)
      let srcs := ms.filter (fun m => g.live.any (fun x => x.rank = m.rank))
      let rs := redResult s g.n op f.a.ty f.a.box srcs
      (∀ m e, redStop (fun m => m.source s) srcs = some (m, e) → exec (.collectiveReduction ctx gid) s = .next (s.stopJob m.id m.j e)) ∧
      (redStop (fun m => m.source s) srcs = none →
        (∀ m e, redStop (fun m => m.updates s rs) ms = some (m, e) → exec (.collectiveReduction ctx gid) s = .next (s.stopJob m.id m.j e)) ∧
        (redStop (fun m => m.updates s rs) ms = none →
          let s1 := (all.filter (fun m => !same m)).foldl (fun (t : State) m => t.stopJob m.id m.j (.err 4 0 0)) s
          let s2 := ms.foldl (fun (t : State) m =>
            let us := match m.updates s rs with | .ok us => us | .error _ => []
            t.setJob m.id { m.j with out := us, owns := [], redo := us, started := true, fault := none }) s1
          exec (.collectiveReduction ctx gid) s = .next
            { s2 with groups := nmapModify s2.groups (groupKey ctx gid) (fun (q : McGroup) => { q with spent := [] }) })))

/-- Admission, the triangle set-up, the rasterisers' tile lists and tiles, and the display planes go on (R200, R203, R204, R313 to R316, R330,
R447, R449, R450). In which context PBASE is read and what the output's picture is are free values (log entry 50). -/
def Obligations.GraphicsEventsComplete : Prop :=
  ∀ (s : State),
    (∀ id a g, nmapFind s.adms id = some a → a.fault = none → (s.ctx a.ctx).phase = .running → a.graph = some g → s.admTurn id a = true →
      exec (.graphAdmission id) s = .next (s.admitOrWait id a g)) ∧
    (∀ id a t g, nmapFind s.adms id = some a → a.fault = none → (s.ctx a.ctx).phase = .running → a.graph = none →
      s.examineGraph a.ctx a.addr a.queue = (t, .graph g) → exec (.graphAdmission id) s = .next (t.admitOrWait id a g)) ∧
    (∀ stack t rest gid wt ht g, firstRunning s (fun (x : Tri) => x.ctx) (s.setupAt stack) = some (t, rest) →
      s.triTarget t = some (gid, wt, ht) → s.geoOf t = some g →
      exec (.triangleSetup stack) s = .next
        ((triTiles g wt ht).foldl (fun (u : State) k => u.sendEntry (tileOwner wt k) { graph := gid, pass := t.pass, tile := k, tri := t })
          (s.setSetup stack rest))) ∧
    (∀ q e rest g p, firstRunning s (fun (x : TileEntry) => x.tri.ctx) (dmapGet [] s.entries q) = some (e, rest) →
      s.blockServes (.rasteriser q) e.tri.ctx = true → nmapFind s.graphs e.graph = some g → g.passAt e.pass = some p →
      (g.rasterTile e.pass e.tile).written = false →
      let used := dmapGet 0 g.listBytes (listKey e.pass q)
      let s1 := { s with entries := dmapSet [] s.entries q rest }
      exec (.tileListEntry q) s = .next
        (if used + entryBytes e.tri ≤ g.ringBytes p then
          { s1.setGraph e.graph { g with listBytes := dmapSet 0 g.listBytes (listKey e.pass q) (used + entryBytes e.tri) } with
            lists := dmapSet [] s1.lists q (s1.binsAt q ++ [e]) }
        else s.partialFlush e.graph e.pass q)) ∧
    (∀ gid pi k g p t, nmapFind s.graphs gid = some g → g.passAt pi = some p → (s.ctx g.ctx).phase = .running → s.tileServed g p k = true →
      (g.rasterTile pi k).written = false → (g.rasterTile pi k).processed = false → (g.rasterTiles p).contains k = true →
      s.geometryDone gid pi = true → s.processBin gid pi k = (t, true) →
      exec (.rasterTileProcess gid pi k) s = .next
        (({ t with graphs := nmapModify t.graphs gid (fun (h : Graph) =>
            h.setRasterTile pi k { h.rasterTile pi k with processed := true }) }).yardmaster)) ∧
    (∀ gid pi k g p t, nmapFind s.graphs gid = some g → g.passAt pi = some p → (s.ctx g.ctx).phase = .running → s.tileServed g p k = true →
      (g.rasterTile pi k).written = false → (g.rasterTile pi k).processed = true → (g.rasterTile pi k).pend = [] →
      s.lists.any (fun e => e.2.any (entryIn gid pi k)) = false → s.geometryDone gid pi = true →
      s.warps.any (fun w => match w.2.frag with
        | some f => f.tri.graph = some gid && f.tri.pass = pi && f.tile = k
        | none => false) = false →
      (nmapFind g.stall (tileKey pi k)).isSome = false → s.storeTile g p k (g.rasterTile pi k).pixels = (t, none) →
      exec (.colourTileWriteback gid pi k) s = .next
        (((t.setGraph gid ((g.setRasterTile pi k { g.rasterTile pi k with pixels := [], written := true }).retireRaster pi k)).finishGraph
          gid).yardmaster)) ∧
    (∀ n, s.card.stage = 5 → n < 16 →
      let x := (nmapFind s.planes n).getD Plane.reset
      let shown := match x.done.getLast? with | some d => some d | none => x.shown
      let base := if x.pctl.getLsbD 0 = true ∧ shown = none then s.baseResource n x else (s, none)
      let mode := (Config.outputMode (x.pctl.extractLsb' 1 2).toNat s.free).filter (fun m => decide (m.1 ≤ 7680 ∧ m.2 ≤ 4320))
      let y := { x with ctlNow := x.pctl, posNow := x.ppos, pvbl := if x.pctl.getLsbD 0 then x.pvbl + 1 else x.pvbl, shown := shown, done := [],
                        first := base.2, mode := mode }
      let t : State := { base.1 with free := base.1.free + 1, planes := nmapSet base.1.planes n y }
      exec (.displayDeadline n) s = .next
        (match (match shown with | some d => some d | none => base.2) with
         | some (c, r) => if x.pctl.getLsbD 0 then t.scan n c r else t
         | none => t))

/-- The four operations of a submission queue complete (R326 to R328): NOP is consumed; SUBMIT goes to admission; WAIT is consumed once its
token has reached the value, and waits before; SIGNAL writes its token once every graph of the queue is complete. The host's writes of a
queue's registers in STAGE 5 complete (R326): a doorbell sets the tail, and stops a queue that runs when more entries than it holds lie
before it, or the tail moves backwards; ENABLE from 0 to 1 takes QCTL and clears the state and the cause; ENABLE 0 stops a queue that runs, or
sets QCTL of one that does not. That a stopped queue keeps its cause, and what an overrun does to a queue that is disabled, is the model's
choice (log entries 87 and 49). -/
def Obligations.QueuesComplete : Prop :=
  (∀ (s t : State) (q : Nat) (e : QEntry), s.queueEntry q = (t, some e) →
    (e.op = 0 → exec (.queueNop q) s = .next (t.queueDone q)) ∧
    (e.op = 1 → t.adms.any (fun a => a.2.queue = some q && a.2.entry = (t.queue q).qhead) = false →
      let x := t.queue q
      let a : AdmReq :=
        { ctx := x.ctx, addr := e.graph, queue := some q, op := none, graph := none, since := 0, entry := x.qhead,
          host := x.qctl.getLsbD 12, status := x.entryAddr + 0x20, fault := none }
      exec (.queueSubmit q) s = .next
        { t.setQueue q { x with stat := 1 } with serial := t.serial + 1, adms := nmapSet t.adms (t.serial + 1) a }) ∧
    (∀ u v, e.op = 2 → t.readRecord (t.queue q).ctx e.tokaddr 8 = (u, .ok v) →
      exec (.queueWait q) s = .next (if e.tokval ≤ v then u.queueDone q else u.setQueue q { u.queue q with stat := 2 })) ∧
    (∀ u, e.op = 3 → (t.queue q).graphs = [] → e.tokaddr < 0xFE * 2 ^ 48 →
      t.writeToken (t.queue q).ctx e.tokaddr e.tokval = (u, none) → exec (.queueSignal q) s = .next (u.queueDone q))) ∧
  (∀ (s : State) (q : Nat) (v : Word), s.card.stage = 5 →
    let x := s.queue q
    (x.stat = 3 ∨ ((v - x.qhead).toNat ≤ x.len ∧ (x.qtail - x.qhead).toNat ≤ (v - x.qhead).toNat ∧ (x.on = false ∨ s.qctlOk x = true)) →
      exec (.queueDoorbell q v) s = .next (s.setQueue q { x with qtail := v })) ∧
    (x.stat ≠ 3 → (x.len < (v - x.qhead).toNat ∨ (v - x.qhead).toNat < (x.qtail - x.qhead).toNat) →
      exec (.queueDoorbell q v) s = .next ((s.setQueue q { x with qtail := v }).stopQueue q 4)) ∧
    (x.qctl.getLsbD 31 = false → v.getLsbD 31 = true →
      let y := { x with qctl := v &&& qctlMask, qhead := x.qtail, stat := 0, cause := 0, fault := none }
      s.qctlOk y = true →
      ∃ t : State, exec (.queueEnable q v) s = .next t ∧ t.queue q = y ∧ t.adms.map (·.1) = s.adms.map (·.1)) ∧
    (v.getLsbD 31 = false → x.qctl.getLsbD 31 = true →
      exec (.queueDisable q v) s = .next (s.setQueue q { x with qctl := x.qctl &&& 0x7FFFFFFF#32, fault := none })) ∧
    (v.getLsbD 31 = false → x.qctl.getLsbD 31 = false →
      exec (.queueDisable q v) s = .next (s.setQueue q { x with qctl := v &&& qctlMask })))

/-- The host's writes of a context's CTL in STAGE 5 and the end of its teardown (R388, R389): VALID from 0 to 1, with LIVE 0, steps GEN and
makes the context live; VALID from 1 to 0 discards its work; when nothing of it is left, LIVE becomes 0. That the teardown writes back every
L1, once no job owns a written line, is the model's choice (log entries 53 and 93). -/
def Obligations.ContextEventsComplete : Prop :=
  ∀ (s : State) (c : Nat) (v : Word), c < 64 → s.card.stage = 5 →
    let x := (nmapFind s.ctxs c).getD Ctx.reset
    (v.getLsbD 0 = true → x.valid = false → x.live = false →
      let y : Ctx := { x with valid := true, live := true, gen := x.gen + 1, phase := .running, launchQ := [], replies := [], swapped := [] }
      exec (.contextCreate c v) s = .next { s with ctxs := nmapSet s.ctxs c y }) ∧
    (v.getLsbD 0 = false → x.valid = true → x.live = true → x.phase ≠ .ending →
      let t := s.discard (ctxIdOf c x)
      let y : Ctx := { (nmapFind t.ctxs c).getD Ctx.reset with valid := false, phase := .ending, launchQ := [], replies := [] }
      exec (.contextEnd c v) s = .next { t with ctxs := nmapSet t.ctxs c y }) ∧
    (x.live = true → x.phase = .ending →
      (dedupNat (s.mem.l1.map (fun e => e.1 / 2 ^ 52))).any (fun k => s.dirtyOwned k 0 (2 ^ 52)) = false →
      let t := (dedupNat (s.mem.l1.map (fun e => e.1 / 2 ^ 52))).foldl (fun (t : State) k => t.writeBackAll k) s
      let y : Ctx := { x with live := false, phase := .free }
      exec (.contextTeardownComplete c) s = .next
        ((({ t with cores := t.cores.dropTags (ctxIdOf c x), ctxs := nmapSet t.ctxs c y }).serve
          65).settle.yardmaster))

/-- Invalidations, faults and their answers, and pre-emption (R384 to R387, R398 to R400, R439). That an invalidation translates multicast lines
not yet read anew, and that the request in service stays at the head of the block's queue, is the model's choice (log entries 52 and 54). -/
def Obligations.TranslationPreemptionEventsComplete : Prop :=
  ∀ (s : State),
    (∀ serial, s.card.stage = 5 → ∃ t, exec (.invalidationStart serial) s = .next t ∧
      t.card = { s.card with igo := s.card.igo ++ [(serial, s.card.iva.toNat, s.card.inum.toNat, s.card.ictx.toNat)] } ∧
      t.mem.promos = s.mem.promos.filter (fun p => !invCovers s.card.iva.toNat s.card.inum.toNat s.card.ictx.toNat p.ctx p.page 4096)) ∧
    (∀ serial iva inum ictx rest, s.card.igo = (serial, iva, inum, ictx) :: rest →
      s.allJobs.any (fun j => j.ctx = ictx && (!j.out.isEmpty || !j.redo.isEmpty)) = false →
      s.allHolds.any (fun r => r.unread iva inum ictx && (s.rewalk r).isNone) = false →
      exec .invalidationComplete s = .next (State.retake { s with
        holds := s.rewalkHolds iva inum ictx s.holds
        saved := s.saved.map (fun (e : Nat × Saved) => (e.1, { e.2 with holds := s.rewalkHolds iva inum ictx e.2.holds }))
        mem := { s.mem with tlb := s.mem.tlb.filter (fun t => !invCovers iva inum ictx t.ctx t.va t.size) }
        card := { s.card with igo := rest, idone := serial } })) ∧
    (∀ f, s.faults.find? (fun f => !f.written) = some f → s.faultRoom = true →
      ∃ t g, exec .faultRecordWrite s = .next t ∧
        g = { f with serial := s.card.fbserial, written := true, lanes := s.faultLanes f, ptag := (s.ctx f.ctx).ptag } ∧ (f.done = false → g ∈ t.faults) ∧
        t.card = { s.card with fbhead := s.card.fbhead + 1, fbserial := s.card.fbserial + 1, msix := setBit16 s.card.msix 0 true } ∧
        t.mem = (s.writeHost (s.card.fbbase.toNat + 64 * (s.card.fbhead.toNat % 2 ^ (s.card.fbctl.extractLsb' 0 5).toNat))
          (faultBytes g)).mem) ∧
    (∀ v, s.exposed = true → exec (.faultBufferTail v) s = .next { s with card := { s.card with fbtail := v } }) ∧
    (∀ v : BitVec 64, v.getLsbD 44 = false → exec (.replayRetry v) s = .next (s.replyTo v)) ∧
    (∀ v : BitVec 64, v.getLsbD 44 = true → exec (.replayFail v) s = .next (s.replyTo v)) ∧
    (∀ v : Word, s.exposed = true → s.card.prqueue.length < 64 →
      let t := { s with card := { s.card with prqueue := s.card.prqueue ++ [v &&& 0x13F#32] } }.serve 65
      (v.getLsbD 8 = false → exec (.preemptRequest v) s = .next t) ∧ (v.getLsbD 8 = true → exec (.resumeRequest v) s = .next t)) ∧
    (∀ c v vs, c < 64 →
      let id := ctxIdOf c ((nmapFind s.ctxs c).getD Ctx.reset)
      s.haltHeld id = false →
      let t := s.quiesce id
      let u := ({ t with warps := t.warps.map (fun (e : Nat × Warp) => if e.2.ctx = id then (e.1, { e.2 with halted := false }) else e) }.saveCtx
        id).setCtx id { t.ctx id with phase := .saved }
      ((nmapFind s.ctxs c).getD Ctx.reset).phase = .halting → (t.ctx id).phase = .halting → u.card.prqueue = v :: vs →
      exec (.preemptHalt c) s = .next (((u.finishRequest v 0).serve 65).settle.yardmaster))

/-- Errors and the tail of their buffer (R427 to R430, R432): a corrected error is counted; an uncorrectable one is counted, reported, and its unit
marked as poisoned, unless it can be fetched again; one that struck a Rueladom lane is counted for that lane alone. The numbering of the units, the
stack of an error in a yard, and that the site says whether a unit of L2 is clean, are the model's (log entries 61 and 12). -/
def Obligations.ErrorEventsComplete : Prop :=
  ∀ (s : State) (site : ErrSite),
    let e := siteHome site
    (∀ v, s.exposed = true → exec (.errorBufferTail v) s = .next { s with card := { s.card with ebtail := v } }) ∧
    (1 ≤ e.cls → e.cls ≤ 10 → e.stack < 4 → exec (.correctableError site) s = .next (s.countCe e)) ∧
    (e.cls = 11 → e.stack < 4 →
      exec (.correctableError site) s = .next ({ s with mem := { s.mem with icache := nmapErase s.mem.icache e.unit } }.countCe e)) ∧
    (1 ≤ e.cls → e.cls ≤ 12 → e.cls ≠ 6 → e.cls ≠ 7 → e.stack < 4 → s.refetches e = false →
      let r : StackRegs := { s.errBlock e.stack with ue := satInc (s.errBlock e.stack).ue }
      let t := { s with stackRegs := nmapSet s.stackRegs e.stack r }.report (siteReport 2 e 0)
      exec (.uncorrectableError site) s = .next
        ((t.markUnit e).countUnit e true)) ∧
    (isLane e = true → exec (.correctableError site) s = .next (s.countUnit e false) ∧
      exec (.uncorrectableError site) s = .next (s.countUnit e true)) ∧
    (e.cls = 4 → e.stack < 4 → e.dirty = false → exec (.uncorrectableError site) s = .next (s.countCe e)) ∧
    (e.cls = 3 → e.stack < 4 → s.l1Dirty e.unit = false →
      exec (.uncorrectableError site) s = .next
        ((s.invalidate (32 * e.unit / 2 ^ 52) (nmapClear s.mem.l1 (32 * e.unit) (32 * e.unit + 32))).countCe e))

/-- The mailbox answers its four requests (R411, R437), each with status 0 and vector 2, when none is in progress or the one in progress is that one.
Power, resets and configuration (R409, R410, R433, R436, R438, R440, R441, R446): power-on and the resets discard the state and boot;
STAGE 2 ends at 2 s; MODEBOOT is taken in STAGE 2 and MODERUN afterwards too; links drop and train again. That links between other cards bear
numbers from 4 on is the model's choice (log entry 59). -/
def Obligations.BootEventsComplete : Prop :=
  (∀ (s : State), (s.reportLen ≤ s.card.mblen.toNat →
      let body := s.reportBody (s.readHost s.card.mbaddr.toNat 32)
      s.mailTakes 1 = true → exec .mailboxReport s = .next ((s.writeHost s.card.mbaddr.toNat
        (body ++ imgBytes (Config.falconSign s.card.idKey (digest64 body)) 0 1280)).mailDone 0)) ∧
    (s.mailTakes 2 = true → 1793 ≤ s.card.mblen.toNat → exec .mailboxIdentityKey s = .next ((s.writeHost s.card.mbaddr.toNat s.card.idPub).mailDone 0)) ∧
    (∀ es, s.mailTakes 3 = true → s.card.stage = 2 → s.card.mblen.toNat % 4 = 0 →
      ((List.range (s.card.mblen.toNat / 4)).map (fun k => ofBytes (s.readHost (s.card.mbaddr.toNat + 4 * k) 4))).mapM retEntry = some es →
      exec .mailboxRetirementList s = .next ({ s with card := { s.card with retired := es } }.mailDone 0)) ∧
    (∀ env, s.mailTakes 4 = true → s.card.stage = 2 → exec (.mailboxProceed env) s = .next ((s.proceed env).mailDone 0))) ∧
  (∀ (s : State),
    (∀ images : List (List Byte),
      exec (.powerOn images) s = .next { s.discardAll with card := { s.discardAll.card with images := images } }.bootRom) ∧
    exec .fundamentalReset s = .next s.discardAll.bootRom ∧
    exec .functionLevelReset s = .next s.discardAll.bootRom ∧
    exec .powerLoss s = .next s.discardAll ∧
    (∀ env, s.card.stage = 2 → exec (.configurationTimeout env) s = .next (s.proceed env)) ∧
    (∀ v, s.card.stage = 2 → exec (.modebootWrite v) s = .next { s with card := { s.card with modeboot := v &&& 0xFFF#32 } }) ∧
    (∀ v, s.exposed = true → exec (.moderunWrite v) s = .next { s with card := { s.card with
      moderun := moderunStore (s.ctxs.any (fun e => e.2.live)) s.card.moderun v } }) ∧
    (∀ port, port < 4 → s.card.ports.getLsbD port = true → exec (.linkDrop port) s = .next { s with card := { s.card with
      ports := s.card.ports &&& ~~~(1#4 <<< port), dropped := s.card.dropped ||| (1#4 <<< port) } }) ∧
    (∀ port, port < 4 → s.card.dropped.getLsbD port = true → exec (.linkRetrain port) s = .next { s with card := { s.card with
      ports := s.card.ports ||| (1#4 <<< port), dropped := s.card.dropped &&& ~~~(1#4 <<< port) } }) ∧
    (∀ port, 4 ≤ port → exec (.linkDrop port) s = .next { s with card := s.card.setFar port false } ∧
      exec (.linkRetrain port) s = .next { s with card := s.card.setFar port true }))

/-- Sensors, refresh and the governor (R443, R444, R446). That a stack's cores ask for work again after a reading is the model's choice (log entry
60). -/
def Obligations.HeatEventsComplete : Prop :=
  ∀ (s : State),
    (∀ stack reads, stack < 4 →
      let t := (reads.filter (fun (r : BankReading) => decide (r.core < 48) && decide (r.bank < 65536))).foldl
        (fun (u : State) r => u.takeReading stack r) s
      exec (.bankSensorRead stack reads) s = .next
        ({ t with thermal := { t.thermal with
          talw := (List.range 48).foldl (fun (m : NMap Nat) c => dmapSet 255 m (stack * 48 + c) (t.talwNow (stack * 48 + c))) t.thermal.talw }
         }.yardmaster)) ∧
    (∀ stack core (temp : Int), stack < 4 → core < 48 → ∃ t, exec (.hotspotSensorRead stack [(core, temp)]) s = .next t ∧
      nmapFind t.thermal.hot (stack * 48 + core) = some temp ∧ t.card = { s.card with trip := s.card.trip || decide (110 ≤ temp) }) ∧
    (∀ cid bank, cid < 192 → exec (.bankRefresh cid bank) s = .next
      { s with thermal := { s.thermal with refreshing := nmapSet s.thermal.refreshing (bankKey cid bank) () } }) ∧
    (∀ cid bank, exec (.refreshEnd cid bank) s = .next
      { s with thermal := { s.thermal with refreshing := nmapErase s.thermal.refreshing (bankKey cid bank) } }) ∧
    (∀ watts, exec (.governorStep watts) s = .next { s with
      card := { s.card with power := watts }
      thermal := { s.thermal with b := nextAllowance s.thermal.b watts (powerLimit s.card.moderun) } })

/-- Promotion, changes of world, and the host's accesses, reads and writes (R391, R392, R401, R402, R434): each completes. The blocks that have a world,
a change that waits, and the yardmaster's look after one are the model's choice (log entry 56); so are when a page is copied, which unit of the
yard it takes and which of two stacks with equal counts promotes it (log entries 62, 91 and 12). -/
def Obligations.CardEventsComplete : Prop :=
  ∀ (s : State),
    (∀ stack, stack < 4 →
      epochLen ≤ (s.errBlock stack).sc →
      let r : StackRegs := { s.errBlock stack with epoch := (s.errBlock stack).epoch + 1, sc := (s.errBlock stack).sc - epochLen }
      exec (.promotionEpochEnd stack) s = .next { s with stackRegs := nmapSet s.stackRegs stack r }) ∧
    (∀ stack frame u c page, stack < 4 → 65536 * frame / 2 ^ 50 = s.cardNo → s.paKind (65536 * frame) = .gddr →
      nmapFind s.mem.moved frame = none → s.mem.promos.any (fun p => p.frame = frame) = false → s.hotFrame stack frame = true →
      s.mostMisses stack frame = true →
      s.freeUnit stack (s.paSecure (65536 * frame)) = some u → s.trigger frame = some (c, page) →
      let t := s.copyFrame stack frame u true
      exec (.pagePromotion stack frame) s = .next { t with mem := { t.mem with promos := t.mem.promos ++ [⟨stack, frame, u, [], c, page⟩] } }) ∧
    (∀ stack frame p, s.mem.promos.find? (fun p => p.stack = stack && p.frame = frame) = some p →
      let t := (dedupNat (p.marked.map (fun l => l % 512 / 32))).foldl (fun (t : State) k =>
        t.copy4K (frame * 65536 + 4096 * k) (t.yardPa stack (p.yard * 65536 + 4096 * k)) 10 9) s
      exec (.promotionSwitch stack frame) s = .next { t with mem := { t.mem with
        promos := t.mem.promos.filter (fun q => q.frame ≠ frame), moved := nmapSet t.mem.moved frame (stack * 2 ^ 32 + p.yard) } }) ∧
    (∀ stack frame y, nmapFind s.mem.moved frame = some y → y / 2 ^ 32 = stack → exec (.pageDemotion stack frame) s = .next (s.demote frame)) ∧
    (∀ b secure, s.blockIdle b = true → s.isSecure b = !secure →
      exec (.blockWorldChange b secure) s = .next (((s.setPending b none).clearBlock b).setSecure b secure).yardmaster) ∧
    (∀ b secure, s.blockIdle b = false → s.isSecure b = !secure → (∀ c, b ≠ .context c) →
      exec (.blockWorldChange b secure) s = .next (s.setPending b (some secure))) ∧
    (∀ addr n data, s.card.stage = 5 → addr + n ≤ 2 ^ 38 → s.paKind (s.cardNo * 2 ^ 50 + addr) = .gddr → addr + n ≤ s.gddrEnd →
      (∀ k < n, s.paSecure (s.cardNo * 2 ^ 50 + addr + k) = false) → ∃ t, exec (.hostBar2Access false addr n data) s = .next t ∧
        t.hostRead = (List.range n).map (fun k => s.homeByte (s.cardNo * 2 ^ 50 + addr + k))) ∧
    (∀ addr n (data : List Byte), s.card.stage = 5 → addr + data.length ≤ 2 ^ 38 → s.paKind (s.cardNo * 2 ^ 50 + addr) = .gddr →
      addr + data.length ≤ s.gddrEnd → data ≠ [] → (∀ k < data.length, s.paSecure (s.cardNo * 2 ^ 50 + addr + k) = false) →
      exec (.hostBar2Access true addr n data) s = .next (s.writeLong (s.cardNo * 2 ^ 50 + addr) (data.length / 32 + 2) data).retake) ∧
    (∀ addr n (data : List Byte), (s.card.stage ≠ 5 ∨ 2 ^ 38 < addr + data.length ∨ s.paKind (s.cardNo * 2 ^ 50 + addr) ≠ .gddr ∨
        s.gddrEnd < addr + data.length) → exec (.hostBar2Access true addr n data) s = .next s) ∧
    (∀ off v, s.exposed = true → off % 4 = 0 →
      exec (.registerWrite off v false) s = .next (s.regWrite off (v.extractLsb' 0 32))) ∧
    (∀ off v, s.exposed = true → off % 8 = 0 →
      exec (.registerWrite off v true) s = .next ((s.regWrite off (v.extractLsb' 0 32)).regWrite (off + 4) (v.extractLsb' 32 32)))

/-! ## Results, frames and traps -/

/-- LEA's result as the bits of its registers (R116): d := (a + b' × 2^SUB[2:0]) mod 2^w, where b' is the 32-bit b, zero-extended or
sign-extended to a pair; no other TYPE and no other bit of SUB is admitted. That an immediate b is read as .b32 under every TYPE is the
model's reading (log entry 19). -/
def Obligations.LeaAddsScaled : Prop :=
  ∀ (h : Hdr) (f : RForm) (s : State), s.CanIssue h (checkOf (.lea h f)) →
    f.sub.toNat < 8 ∧ (f.ty = .n32 ∨ f.ty = .n64 ∨ f.ty = .i64) ∧
    exec (.lea h f) s = .next (s.landed h (fun s c => outT s c f.dst f.ty
      (if f.ty = .n32 then (s.src32 c .n32 f.sa + (s.src32 c .b32 f.sb <<< f.sub.toNat)).zeroExtend 64
       else if f.ty = .n64 then s.src c .n64 f.sa + ((s.src32 c .b32 f.sb).zeroExtend 64 <<< f.sub.toNat)
       else s.src c .n64 f.sa + ((s.src32 c .b32 f.sb).signExtend 64 <<< f.sub.toNat))))

/-- The bitwise instructions work on the raw bits of their operands, one register or with .n64 a pair, and each result bit is formed from the
bits of the sources at its place (R112); .notb inverts b first; IMM is read as .b32. -/
def Obligations.BitwiseResultBits : Prop :=
  ∀ (h : Hdr) (f : RForm) (g : IForm) (s : State),
    let b (s : State) (c : Rd) (i : Nat) : Bool := (s.src c f.ty f.sb).getLsbD i != f.sub.getLsbD 0
    let n (x : Bool) (k : Nat) : Nat := if x then k else 0
    let W : Nat := if f.ty = .n64 then 64 else 32
    let Bits (i : Instr) (bit : State → Rd → Nat → Bool) : Prop := s.CanIssue h (checkOf i) → (f.ty = .b32 ∨ f.ty = .n64) ∧
      ∃ val : State → Rd → BitVec 64, exec i s = .next (s.landed h (fun s c => outT s c f.dst f.ty (val s c))) ∧
        ∀ s c k, k < W → (val s c).getLsbD k = bit s c k
    let BitsI (i : Instr) (bit : State → Rd → Nat → Bool) : Prop := s.CanIssue h (checkOf i) → g.ty = .b32 ∧
      ∃ val : State → Rd → BitVec 64, exec i s = .next (s.landed h (fun s c => outT s c g.dst .b32 (val s c))) ∧
        ∀ s c k, k < 32 → (val s c).getLsbD k = bit s c k
    Bits (.andOp h f) (fun s c k => (s.src c f.ty f.sa).getLsbD k && b s c k) ∧
    Bits (.orOp h f) (fun s c k => (s.src c f.ty f.sa).getLsbD k || b s c k) ∧
    Bits (.xorOp h f) (fun s c k => (s.src c f.ty f.sa).getLsbD k != b s c k) ∧
    Bits (.tern h f) (fun s c k => f.sub.getLsbD
      (n ((s.src c f.ty f.sa).getLsbD k) 1 + n ((s.src c f.ty f.sb).getLsbD k) 2 + n ((s.src c f.ty f.sc).getLsbD k) 4)) ∧
    BitsI (.andi h g) (fun s c k => (s.src c .b32 g.sa).getLsbD k && g.imm.getLsbD k) ∧
    BitsI (.ori h g) (fun s c k => (s.src c .b32 g.sa).getLsbD k || g.imm.getLsbD k) ∧
    BitsI (.xori h g) (fun s c k => (s.src c .b32 g.sa).getLsbD k != g.imm.getLsbD k)

/-- What a destination holds after an instruction of fixed latency whose lanes compute `val` (R53, R56, R57): a vector register, or an
aligned pair with the low half first, takes each lane's value in the lanes of M and keeps its own in the others; a scalar register takes the
value of the lowest lane of M, and none when M is empty; the zero register takes none. -/
def Obligations.DestinationTakesValue : Prop :=
  ∀ (s : State) (h : Hdr) (ty : Ty) (val : State → Rd → BitVec 64), (∀ l ∈ lanesOf s.cur.mask, s.inHandler s.cur.w l = false) →
    let w := s.cur.w
    let A := s.activeSet h
    (∀ (n : BitVec 8) (l : Nat), l < 32 →
      let t := s.landed h (fun s c => outT s c (.v n) ty (val s c))
      (isWide ty = false →
        t.regs.getV w l n.toNat = if A.getLsbD l then (val s (s.rdAt h l)).truncate 32 else s.regs.getV w l n.toNat) ∧
      (isWide ty = true → n.toNat % 2 = 0 →
        pair64 (t.regs.getV w l n.toNat) (t.regs.getV w l (n.toNat + 1)) =
          if A.getLsbD l then val s (s.rdAt h l) else pair64 (s.regs.getV w l n.toNat) (s.regs.getV w l (n.toNat + 1)))) ∧
    (∀ n : BitVec 10,
      let t := s.landed h (fun s c => outT s c (.s n) ty (val s c))
      (isWide ty = false → t.regs.getS w n.toNat = match leadOf A with
        | some l => (val s (s.rdAt h l)).truncate 32
        | none => s.regs.getS w n.toNat) ∧
      (isWide ty = true → n.toNat % 2 = 0 → pair64 (t.regs.getS w n.toNat) (t.regs.getS w (n.toNat + 1)) = match leadOf A with
        | some l => val s (s.rdAt h l)
        | none => pair64 (s.regs.getS w n.toNat) (s.regs.getS w (n.toNat + 1)))) ∧
    s.landed h (fun s c => outT s c .zr ty (val s c)) = s.landed h (fun _ _ => ⟨[], 0⟩)

/-- Guard and transfer of an instruction of fixed latency (R36 to R38): a lane of the selected set is in M exactly when it has no guard or
p[P] XOR N is 1; a lane outside M goes to pc + 1; a lane in M goes where NXT says, read from the registers before the instruction, and lk
and lc take NXT's writes after the destination's; exit marks the lane as leaving. -/
def Obligations.GuardAndNextPc : Prop :=
  ∀ (s : State) (h : Hdr) (dst : Opnd) (ty : Ty) (val : State → Rd → BitVec 64) (l : Nat), l < 32 → s.cur.mask.getLsbD l = true →
    let w := s.cur.w
    let t := s.landed h (fun s c => outT s c dst ty (val s c))
    let T := h.t.toNat
    let c := s.regs.getLc w l (T % 4)
    ((s.activeSet h).getLsbD l = true ↔ (h.g = false ∨ (s.regs.getP w l h.p.toNat != h.n) = true)) ∧
    ((s.activeSet h).getLsbD l = false → t.regs.getPc w l = s.cur.pc + 1) ∧
    ((s.activeSet h).getLsbD l = true →
      (h.nxt = .seq → t.regs.getPc w l = s.cur.pc + 1) ∧
      (h.nxt = .jmp → t.regs.getPc w l = s.regs.getBt w l T) ∧
      (h.nxt = .call → t.regs.getPc w l = s.regs.getBt w l T ∧ t.regs.getLk w l = s.cur.pc + 1) ∧
      (h.nxt = .ret → t.regs.getPc w l = s.regs.getLk w l) ∧
      (h.nxt = .loop → c ≠ 0 → t.regs.getPc w l = s.regs.getBt w l T ∧ t.regs.getLc w l (T % 4) = c - 1) ∧
      (h.nxt = .loop → c = 0 → t.regs.getPc w l = s.cur.pc + 1) ∧
      (h.nxt = .exit → (t.warp w).leaving.getLsbD l = true))

/-- The frame of the instructions that only write their destination (R36 to R38, R57): moves, integer and bitwise instructions, shifts, bit fields
and bit counts, comparisons, predicates, conversions between integers, branch targets, loop counters, and reads of the warp's state and of
special registers. -/
def Obligations.RegisterInstructionsKeepTheRest : Prop :=
  (∀ (h : Hdr) (f : RForm),
    KeepsRest (.nop h f) h .zr false ∧ KeepsRest (.mov h f) h f.dst (isWide f.ty) ∧ KeepsRest (.sel h f) h f.dst (isWide f.ty) ∧
    KeepsRest (.add h f) h f.dst (isWide f.ty) ∧ KeepsRest (.subOp h f) h f.dst (isWide f.ty) ∧ KeepsRest (.mul h f) h f.dst (isWide f.ty) ∧
    KeepsRest (.mulhi h f) h f.dst (isWide f.ty) ∧ KeepsRest (.mad h f) h f.dst (isWide f.ty) ∧ KeepsRest (.madw h f) h f.dst true ∧
    KeepsRest (.absOp h f) h f.dst (isWide f.ty) ∧ KeepsRest (.minOp h f) h f.dst (isWide f.ty) ∧ KeepsRest (.maxOp h f) h f.dst (isWide f.ty) ∧
    KeepsRest (.andOp h f) h f.dst (isWide f.ty) ∧ KeepsRest (.orOp h f) h f.dst (isWide f.ty) ∧ KeepsRest (.xorOp h f) h f.dst (isWide f.ty) ∧
    KeepsRest (.tern h f) h f.dst (isWide f.ty) ∧ KeepsRest (.popc h f) h f.dst false ∧ KeepsRest (.clz h f) h f.dst false ∧
    KeepsRest (.ctz h f) h f.dst false ∧ KeepsRest (.brev h f) h f.dst (isWide f.ty) ∧ KeepsRest (.lea h f) h f.dst (isWide f.ty) ∧
    KeepsRest (.shl h f) h f.dst (isWide f.ty) ∧ KeepsRest (.shr h f) h f.dst (isWide f.ty) ∧ KeepsRest (.sar h f) h f.dst (isWide f.ty) ∧
    KeepsRest (.rot h f) h f.dst (isWide f.ty) ∧ KeepsRest (.fsh h f) h f.dst (isWide f.ty) ∧ KeepsRest (.bfx h f) h f.dst (isWide f.ty) ∧
    KeepsRest (.bfi h f) h f.dst (isWide f.ty) ∧ KeepsRest (.bsel h f) h f.dst (isWide f.ty) ∧ KeepsRest (.rdsr h f) h f.dst (isWide f.ty) ∧
    KeepsRest (.cmp h f) h f.dst false ∧ KeepsRest (.plop h f) h f.dst false ∧ KeepsRest (.p2v h f) h f.dst false ∧
    KeepsRest (.cvti h f) h f.dst (isWide f.ty) ∧ KeepsRest (.dp4 h f) h f.dst false ∧ KeepsRest (.movbt h f) h f.dst false ∧
    KeepsRest (.fclass h f) h f.dst false ∧ KeepsRest (.cvget h f) h f.dst false ∧ KeepsRest (.actmask h f) h f.dst false) ∧
  (∀ (h : Hdr) (f : IForm),
    KeepsRest (.movi h f) h f.dst (isWide f.ty) ∧ KeepsRest (.addi h f) h f.dst (isWide f.ty) ∧ KeepsRest (.muli h f) h f.dst (isWide f.ty) ∧
    KeepsRest (.andi h f) h f.dst false ∧ KeepsRest (.ori h f) h f.dst false ∧ KeepsRest (.xori h f) h f.dst false ∧
    KeepsRest (.cmpi h f) h f.dst false ∧ KeepsRest (.tgt h f) h f.dst false ∧ KeepsRest (.setlc h f) h f.dst false)

/-- The frame of the floating instructions, PACK, UNPK, SPX and SPEXP (R36 to R38, R57, R60, R108): beside the destination, %fpflags only gains flags,
and only generators of lanes of M step. -/
def Obligations.FloatingInstructionsKeepTheRest : Prop :=
  (∀ (h : Hdr) (f : RForm),
    FloatKeepsRest (.fadd h f) h f.dst (isWide f.ty) ∧ FloatKeepsRest (.fmul h f) h f.dst (isWide f.ty) ∧
    FloatKeepsRest (.fma h f) h f.dst (isWide f.ty) ∧ FloatKeepsRest (.fdiv h f) h f.dst (isWide f.ty) ∧
    FloatKeepsRest (.fsqrt h f) h f.dst (isWide f.ty) ∧ FloatKeepsRest (.fscale h f) h f.dst (isWide f.ty) ∧
    FloatKeepsRest (.fadd2 h f) h f.dst (isWide f.ty) ∧ FloatKeepsRest (.fmul2 h f) h f.dst (isWide f.ty) ∧
    FloatKeepsRest (.fma2 h f) h f.dst (isWide f.ty) ∧ FloatKeepsRest (.fdot2 h f) h f.dst false ∧
    FloatKeepsRest (.fmin h f) h f.dst (isWide f.ty) ∧ FloatKeepsRest (.fmax h f) h f.dst (isWide f.ty) ∧
    FloatKeepsRest (.fcmp h f) h f.dst false ∧ FloatKeepsRest (.frnd h f) h f.dst (isWide f.ty) ∧
    FloatKeepsRest (.fcvt h f) h f.dst (isWide f.ty) ∧ FloatKeepsRest (.f2i h f) h f.dst (isWide f.ty) ∧
    FloatKeepsRest (.i2f h f) h f.dst (isWide f.ty) ∧ FloatKeepsRest (.rcp h f) h f.dst false ∧ FloatKeepsRest (.rsq h f) h f.dst false ∧
    FloatKeepsRest (.exp2 h f) h f.dst false ∧ FloatKeepsRest (.log2 h f) h f.dst false ∧ FloatKeepsRest (.sin h f) h f.dst false ∧
    FloatKeepsRest (.cos h f) h f.dst false ∧ FloatKeepsRest (.tanh h f) h f.dst false ∧ FloatKeepsRest (.pack h f) h f.dst false ∧
    FloatKeepsRest (.unpk h f) h f.dst false ∧
    FloatKeepsRest (.spx h f) h f.dst (decide (f.ty = .f16 ∨ f.ty = .bf16)) ∧
    FloatKeepsRest (.spexp h f) h f.dst (decide (f.ty = .f16 ∨ f.ty = .bf16))) ∧
  (∀ (h : Hdr) (f : IForm), FloatKeepsRest (.faddi h f) h f.dst false ∧ FloatKeepsRest (.fmuli h f) h f.dst false)

/-- The frame of ST for one lane, without a release and without a full-empty qualifier (R239, R265): at the target to which the meaning's own
resolution takes the lane's address, no byte outside the bytes stored changes, in any kind of storage, the registers that the views of the
window show among it; and no other register but pc, lk and lc. -/
def Obligations.StoreKeepsTheRest : Prop :=
  ∀ (h : Hdr) (f : MForm) (s t : State) (l : Nat) (tgt : Target), s.CanIssueLong (.st h f) h (opSt f) → lanesOf (s.activeSet h) = [l] →
    f.ord ≠ .rel → f.fe = .ignore →
    let s0 := s.issued (.st h f) h (opSt f)
    let o := newOp (.st h f) h (opSt f) s s.cur.w s.cur.pc s.cur.word s.cur.mask (s.activeSet h) (s.serial + 1)
    Performs (opSt f).once (partSt f) (s.serial + 1) [l] s0 t →
    s0.place s.cur.w (opRec o l) f.space (opRec o l).addr.toNat true = .here tgt →
    ∃ u, exec (.st h f) s = .next u ∧ StoreFrame (DeviceKeeps s0 u) s0 s0 u (whoAt s0 o (f.cache = .nol1)) tgt (widthBytes f.width) false

/-- The frame of LD for one lane, without an acquire (R239, R265): it stores nothing, so every byte of every storage reads as before, and no register
changes before its completion. -/
def Obligations.LoadKeepsTheRest : Prop :=
  ∀ (h : Hdr) (f : MForm) (s t : State) (l : Nat) (tgt : Target), s.CanIssueLong (.ld h f) h (opLd f) → lanesOf (s.activeSet h) = [l] →
    f.ord ≠ .acq → f.fe = .ignore →
    let s0 := s.issued (.ld h f) h (opLd f)
    let o := newOp (.ld h f) h (opLd f) s s.cur.w s.cur.pc s.cur.word s.cur.mask (s.activeSet h) (s.serial + 1)
    Performs (opLd f).once (partLd f) (s.serial + 1) [l] s0 t →
    s0.place s.cur.w (opRec o l) f.space (opRec o l).addr.toNat false = .here tgt →
    ∃ u, exec (.ld h f) s = .next u ∧ LoadKeeps s0 u (whoAt s0 o (f.cache = .nol1)) tgt (widthBytes f.width)

/-- The frame of one access of a core (R231, R239): a write changes no byte outside those it writes, in any kind of storage; a read changes none, and
drops or replaces copies of the reading core at most. -/
def Obligations.AccessKeepsTheRest : Prop :=
  ∀ (s t : State) (q : Who) (tgt : Target) (ea n : Nat) (w : Option (List Byte)) (bs : List Byte), s.access q tgt ea n w = (t, .ok bs) →
    (∀ d, w = some d → d.length = n → StoreFrame (DeviceKeeps s t) s s t q tgt n false) ∧
    (w = none → t.cores = s.cores ∧ t.regs = s.regs ∧ t.mem.home = s.mem.home ∧ t.mem.host = s.mem.host ∧ DeviceOld s t q.cid 0 0)

/-- The frame of loads, stores and atomics of any number of lanes, in every order and scope and with every full-empty qualifier, and of TST and PKST
(R239, R244, R247, R265, R266, R273, R298, R300): lane by lane, nothing but the bytes that the lane stores takes a value that it did not have at its
home or in the acting core's L1; an ATOM, RED or CAS stores its operand's bytes, a TST the elements in bounds that it names, a PKST the
tile, its table entry and the append offset. -/
def Obligations.StoringInstructionsKeepTheRest : Prop :=
  (∀ (h : Hdr) (f : MForm),
    KeepsLong (.ld h f) h (opLd f) (partLd f) (keepsLd f) ∧ KeepsLong (.st h f) h (opSt f) (partSt f) (keepsSt f)) ∧
  (∀ (h : Hdr) (f : RForm),
    KeepsLong (.atom h f) h (opAtom f false true) (partAtomic f (hostAtomic false (subBits f 2 0) f.ty) (atomWrites f) true) (keepsAtomic f) ∧
    KeepsLong (.red h f) h (opAtom f false false) (partAtomic f (hostAtomic false (subBits f 2 0) f.ty) (atomWrites f) false) (keepsAtomic f) ∧
    KeepsLong (.cas h f) h (opAtom f true true) (partAtomic f true (casWrites f) true) (keepsAtomic f) ∧
    KeepsLong (.tst h f) h (opTst f) (partTst f) (keepsTst f) ∧
    KeepsLong (.pkst h f) h (opPkst f) (partPkst f) keepsPkst)

/-- The frame of the accumulator moves, ACCZ and the engines (R174 to R177, R249, R252, R289): ACCZ, ACCWR and ACCIN change no element but those of the
tiles, rows and columns they name; ACCRD and ACCOUT change none; the acceptance of a CPY or an XFORM changes no byte, and each of its updates
changes none outside the runs it holds. -/
def Obligations.TileAndEngineWritesKeepTheRest : Prop :=
  (∀ (h : Hdr) (f : RForm),
    KeepsLong (.accz h f) h (opAccz f) (partAccz f) (keepsAccz f) ∧
    KeepsWideLong (.accwr h f) h (cvOf f) (wideAccwr h f) (opAccwr f) (partAccwr f) (keepsRows (accN f) f) ∧
    KeepsWideLong (.accin h f) h (cvOf f) (wideAccin h f) (opAccin f) (partAccin f) (keepsRows (accCols f.ty) f) ∧
    KeepsWideLong (.accrd h f) h (cvOf f) (wideAccrd h f) (opAccrd f) (partAccrd f) keepsTiles ∧
    KeepsWideLong (.accout h f) h (cvOf f) (wideAccout h f) (opAccout f) (partAccout f) keepsTiles ∧
    KeepsLong (.cpy h f) h (opCpy f) (partEngine false f) (keepsEngine false f) ∧
    KeepsLong (.xform h f) h (opXform f) (partEngine true f) (keepsEngine true f)) ∧
  (∀ (s : State) (id : Nat) (j : Job) (u : Update) (rest : List Update), nmapFind s.jobs id = some j → j.out = u :: rest →
    s.jobActive j = true → s.updateBlocked j u = false → ∃ t, exec (.engineLineWrite id) s = .next t ∧ UpdateFrame s t u)

/-- A byte written by a core is the byte its next read finds (R239), as long as the run lies in one unit of home memory. -/
def Obligations.StoredBytesAreRead : Prop :=
  ∀ (s : State) (cid pa : Nat) (bs : List Byte) (nol1 : Bool) (k : Nat), k < bs.length →
    (∀ j < bs.length, s.homePa (pa + j) = s.homePa pa + j) →
    (s.coreWrite cid pa bs nol1).coreByte cid (pa + k) nol1 = bs.getD k 0

/-- Every access of a core keeps the memory in canonical form (log entry 3), and so do the host's and the engines' writes. -/
def Obligations.AccessesKeepMemoryCanonical : Prop :=
  ∀ s : State, s.Inv →
    (∀ (q : Who) (tgt : Target) (ea n : Nat) (w : Option (List Byte)), (s.access q tgt ea n w).1.Inv) ∧
    (∀ (pa : Nat) (bs : List Byte), (s.writeHome pa bs).Inv) ∧ (∀ (a : Nat) (bs : List Byte), (s.writeHost a bs).Inv) ∧
    (∀ (cid lo hi : Nat), (s.writeBackRange cid lo hi).Inv) ∧
    (∀ (cid line : Nat) (t : State), exec (.l1Eviction cid line) s = .next t → t.Inv)

/-- WRSR of %rng and %fpctl (R61): 0 stores 1, and the codes 110 and 111 store 000; reading %rng does not step it. -/
def Obligations.GeneratorAndModeWrites : Prop :=
  ∀ (h : Hdr) (f : RForm) (s : State),
    (s.CanIssue h (checkOf (.wrsr h f)) → srNum f.sb = 0x32 → ∃ t, exec (.wrsr h f) s = .next t ∧
      ∀ l < 32, t.regs.getRng s.cur.w l =
        if (s.activeSet h).getLsbD l then
          (let x : Word := (s.src (s.rdAt h l) f.ty f.sa).truncate 32
           if x = 0 then 1 else x)
        else s.regs.getRng s.cur.w l) ∧
    (s.CanIssue h (checkOf (.wrsr h f)) → srNum f.sb = 0x31 → ∀ l, leadOf (s.activeSet h) = some l → ∃ t, exec (.wrsr h f) s = .next t ∧
      let x := s.src (s.rdAt h l) f.ty f.sa
      (x.extractLsb' 0 3 = 6 ∨ x.extractLsb' 0 3 = 7 → (t.warp s.cur.w).fpctl.extractLsb' 0 3 = 0) ∧
      (x.extractLsb' 0 3 ≠ 6 → x.extractLsb' 0 3 ≠ 7 → (t.warp s.cur.w).fpctl = x.extractLsb' 0 4)) ∧
    (s.CanIssue h (checkOf (.mov h f)) → ∃ t, exec (.mov h f) s = .next t ∧ t.regs.rng = s.regs.rng) ∧
    (s.CanIssue h (checkOf (.rdsr h f)) → ∃ t, exec (.rdsr h f) s = .next t ∧ t.regs.rng = s.regs.rng)

/-- RFT, WRIR and RDIR raise PRIV outside handler mode, in every lane that issues them (R64, R66). -/
def Obligations.PrivRaisedOutsideHandler : Prop :=
  ∀ (h : Hdr) (f : RForm) (s s1 : State),
    let Raises (i : Instr) (slots : State → Rd → LaneRec) : Prop :=
      (checkOf i).ok = true →
      (∀ l ∈ lanesOf s.cur.mask, ∀ u ∈ (if s.guardTrue h s.cur.w l then (checkOf i).uses else guardUses h), s.waitUse s.cur.w l u = false) →
      s.CanTrapAll h (s.trapAll .priv slots) s1 → exec i s = .next (s1.enterLanes s.cur.w (s.trapAll .priv slots))
    ((∀ l ∈ lanesOf s.cur.mask, s.recordWaits .m s.cur.w l = false) → Raises (.rft h f) (fun _ c => noRec c.l)) ∧
    ((∀ l ∈ lanesOf s.cur.mask, irWaits f f.sb s (s.rdFor 0 l) = false) → Raises (.wrir h f) (slotsR f f.ty .b32 .b32)) ∧
    ((∀ l ∈ lanesOf s.cur.mask, irWaits f f.sa s (s.rdFor 0 l) = false) → Raises (.rdir h f) (fun _ c => noRec c.l))

/-- A word of RFT or REORD whose NXT field is not 0 is no instruction and raises ENC in every lane that issues it (R40, R63, R64). -/
def Obligations.SelfTransferRaisesEnc : Prop :=
  ∀ x : IWord, (opcOf x = 0x2C3 ∨ opcOf x = 0x246) → x.extractLsb' 74 6 ≠ 0 →
    decode x = .unassignedOpcode x ∧
    ∀ s s1 : State, (∀ l ∈ lanesOf s.cur.mask, ∀ u ∈ guardUses (grdHdr x), s.waitUse s.cur.w l u = false) →
      s.CanTrapAll (grdHdr x) (s.trapAll .enc (emuSlots x)) s1 →
      exec (.unassignedOpcode x) s = .next (s1.enterLanes s.cur.w (s.trapAll .enc (emuSlots x)))

/-- Every opcode that the table does not list raises RESV, in every lane that issues it (R63 to R65). -/
def Obligations.UnlistedOpcodesRaiseResv : Prop :=
  ∀ x : IWord,
    (opcOf x = 0x00F ∨ opcOf x = 0x02B ∨ (0x030 ≤ opcOf x ∧ opcOf x ≤ 0x07F) ∨ (0x09B ≤ opcOf x ∧ opcOf x ≤ 0x0FF) ∨
      (0x106 ≤ opcOf x ∧ opcOf x ≤ 0x13F) ∨ (0x14E ≤ opcOf x ∧ opcOf x ≤ 0x17F) ∨ (0x18C ≤ opcOf x ∧ opcOf x ≤ 0x1BF) ∨
      (0x1D6 ≤ opcOf x ∧ opcOf x ≤ 0x23F) ∨ (0x248 ≤ opcOf x ∧ opcOf x ≤ 0x27F) ∨ (0x28A ≤ opcOf x ∧ opcOf x ≤ 0x2BF) ∨
      (0x2C6 ≤ opcOf x ∧ opcOf x ≤ 0x3BF)) →
    decode x = .unassignedOpcode x ∧
    ∀ s s1 : State, (∀ l ∈ lanesOf s.cur.mask, ∀ u ∈ guardUses (grdHdr x), s.waitUse s.cur.w l u = false) →
      s.CanTrapAll (grdHdr x) (s.trapAll .resv (emuSlots x)) s1 →
      exec (.unassignedOpcode x) s = .next (s1.enterLanes s.cur.w (s.trapAll .resv (emuSlots x)))

/-- What BRK's entry leaves (R416): from the state `s1` in which the frame is written, hs0 holds the cause word and hs1 the trapped lanes;
each of them has its resume pc in hv0, is in handler mode and stands at %traphandler; every other bank register, every register of the
interrupted code and every other lane is as it was. -/
def Obligations.TrapEntrySavesAndGoes : Prop :=
  ∀ (h : Hdr) (f : RForm) (s s1 : State),
    let w := s.cur.w
    let tr := s.trapOf h .brk 0 (slotsR f .b32 .b32 .b32)
    s.CanIssue h (checkOf (.brk h f)) → s.CanTrap h tr s1 → ∃ t, exec (.brk h f) s = .next t ∧
      t.regs.getHs w 0 = causeWord tr ∧ t.regs.getHs w 1 = s.activeSet h ∧
      (∀ n, 2 ≤ n → n < 64 → t.regs.getHs w n = s1.regs.getHs w n) ∧
      (∀ l < 32, (s.activeSet h).getLsbD l = true →
        t.regs.getHv w l 0 = s1.regs.getPc w l ∧ t.regs.getPc w l = (s1.warp w).traphandler ∧ t.inHandler w l = true) ∧
      (∀ l < 32, (s.activeSet h).getLsbD l = false →
        t.regs.getHv w l 0 = s1.regs.getHv w l 0 ∧ t.regs.getPc w l = s1.regs.getPc w l ∧ t.inHandler w l = s1.inHandler w l) ∧
      (∀ l < 32, ∀ n, 1 ≤ n → n < 32 → t.regs.getHv w l n = s1.regs.getHv w l n) ∧
      t.regs.v = s1.regs.v ∧ t.regs.s = s1.regs.s ∧ t.regs.p = s1.regs.p ∧ t.regs.bt = s1.regs.bt ∧ t.regs.lc = s1.regs.lc ∧
      t.regs.lk = s1.regs.lk ∧ t.regs.cv = s1.regs.cv ∧ t.regs.rng = s1.regs.rng ∧ t.mem = s1.mem ∧ t.cores = s1.cores

/-- Where RFT leaves a lane, when the trap was not PAGE and no other trap is held (R422): it is out of handler mode; .retry sends it to its
resume pc; .adv sends it past the instruction when that one's guard is false or its NXT is sequential. -/
def Obligations.RftResumes : Prop :=
  ∀ (h : Hdr) (f : RForm) (s : State) (l : Nat),
    let w := s.cur.w
    let t0 := s.latchOf w
    s.CanIssue h (checkOf (.rft h f)) →
    (∀ l ∈ lanesOf s.cur.mask, s.inHandler w l = true ∧ s.laneBusy w l = false ∧ s.recordWaits .m w l = false) → (s.warp w).holds = [] → t0.cause ≠ .page → wideOpOf (decode t0.word) = none →
    (∀ e ∈ s.ops, turnLanes e.2 = []) → l < 32 → (s.activeSet h).getLsbD l = true →
    ∃ t, exec (.rft h f) s = .next t ∧ t.inHandler w l = false ∧
      (f.sub.getLsbD 0 = true → t.regs.getPc w l = s.resumePc w l) ∧
      (∀ g, f.sub.getLsbD 0 = false → hdrOf t0.word = some g → (s.guardTrue g w l = false ∨ g.nxt = .seq) →
        t.regs.getPc w l = s.resumePc w l + 1)

/-- A bank reading moves the bank's tier as R443 says, and %talw of its core is computed from it and from the hottest hotspot (R443, R444):
tier 0 up to 85 °C, tier 1 from 86 to 95, tier 2 from 96; straight up; down only 2 °C below the tier's range, to the tier of the
reading plus 1. -/
def Obligations.SensorSetsTierAndAllowance : Prop :=
  ∀ (s : State) (stack core bank k : Nat) (temp hot : Int), stack < 4 → core < 48 → bank < 65536 →
    let cid := stack * 48 + core
    let tierOf (t : Int) : Nat := if t ≤ 85 then 0 else if t ≤ 95 then 1 else 2
    let low : Int := if k = 1 then 86 else 96
    let t := s.takeReading stack ⟨core, bank, temp⟩
    k ≤ 2 → dmapGet 0 s.thermal.bankTier (bankKey cid bank) = k →
    (k < tierOf temp → dmapGet 0 t.thermal.bankTier (bankKey cid bank) = tierOf temp) ∧
    (0 < k → temp ≤ low - 2 → dmapGet 0 t.thermal.bankTier (bankKey cid bank) = tierOf (temp + 1)) ∧
    (¬ k < tierOf temp → (k = 0 ∨ low - 2 < temp) → dmapGet 0 t.thermal.bankTier (bankKey cid bank) = k) ∧
    (t.card.trip = true ↔ (s.card.trip = true ∨ 105 ≤ temp)) ∧
    (t.hottestBank cid = some temp → nmapFind t.thermal.hot cid = some hot →
      (t.talwNow cid : Int) = max 0 (min 255 (min (16 * (95 - temp)) (min (16 * (105 - hot)) t.thermal.b))))

/-- An invalidation that covers the page through which a promotion was triggered abandons it (R398, R402): the promotion is gone, every
other one goes on, the old frame stays the home, no fault is raised, and PROMABORT of its stack is incremented; the promotion had
recorded that page of that context when it started. -/
def Obligations.InvalidationAbandonsPromotion : Prop :=
  ∀ (s : State) (serial : Word) (p : Promo), s.card.stage = 5 →
    let covers (q : Promo) : Bool := invCovers s.card.iva.toNat s.card.inum.toNat s.card.ictx.toNat q.ctx q.page 4096
    s.mem.promos.filter covers = [p] →
    ∃ t, exec (.invalidationStart serial) s = .next t ∧ (∀ q, q ∈ t.mem.promos ↔ q ∈ s.mem.promos ∧ covers q = false) ∧
      t.mem.moved = s.mem.moved ∧ t.mem.home = s.mem.home ∧ t.faults = s.faults ∧ t.warps = s.warps ∧
      (t.errBlock p.stack).promabort = satInc (s.errBlock p.stack).promabort ∧
      (∀ k, k ≠ p.stack → (t.errBlock k).promabort = (s.errBlock k).promabort)

/-- The state after reset: STAGE 0 and no failure, PCOL 2 and every other field of MODEBOOT 0, FCOH 1 and PMODE 0 (R435, R438), the board allowance
255 (R444); and, as the model's choice where the spec gives no value, no queue, context or warp, and nothing listed in memory, whose bytes
read as zero (log entries 1 and 3). -/
def Obligations.ResetHoldsResetValues : Prop :=
  let s := State.reset
  s.card.stage = 0 ∧ s.card.fail = 0 ∧ s.card.modeboot = 2#32 ∧ s.card.moderun = 4#32 ∧ s.card.ports = 0 ∧ s.thermal.b = 255 ∧
  s.warps = [] ∧ s.ops = [] ∧ s.ctxs = [] ∧ s.queues = [] ∧ s.mem.home = [] ∧ s.mem.host = [] ∧ s.mem.l1 = [] ∧ s.Inv

/-! ## Encoding -/

/-- Words written out from the spec's encodings decode to the instructions they stand for (R35, R48, R49, R53, R58): NOP (R110), FADD (R122), RDSR
(R407), MMAQ (R170), XFORM (R294), RFT (R422) and SHDEC (R195). -/
def Obligations.WrittenWordsDecode : Prop :=
  let h : Hdr := { g := false, n := false, p := 0, nxt := .seq, t := 0, la := 0 }
  let f (d a b c : Opnd) (ty : Ty) (sub : BitVec 8) : RForm :=
    { dst := d, sa := a, sb := b, sc := c, ty := ty, rnd := .rne, sat := false, ftz := false, nega := false, negb := false, negc := false,
      absa := false, sub := sub }
  decode 0x0000003C03C03C03C0000000#96 = .nop h (f .zr .zr .zr .zr .b32 0) ∧
  decode 0x20230000100090A3C0160400#96 = .fadd { h with g := true, p := 3 } { f (.v 4) (.v 2) (.s 40) .zr .f32 0 with negb := true } ∧
  decode 0xB000000012103C03C0100000#96 = .rdsr h (f (.v 4) (.sr 64) .zr .zr .n64 0) ∧
  decode 0x6140003E08042800031A0000#96 = .mmaq h (f (.acc 2) (.v 16) (.imm 0) (.v 12) .e4m3 0) ∧
  decode 0x7440001051013C01020000E7#96 = .xform h (f (.s 20) (.s 4) .zr (.s 8) .b32 0xE7) ∧
  decode 0xB0C0003C03C03C03C0000001#96 = .rft h (f .zr .zr .zr .zr .b32 1) ∧
  decode 0xA04000805001001BC0000000#96 = .shdec { h with la := 2 } (f (.v 20) (.v 4) (.v 6) .zr .b32 0)

/-- Decoding an encoded well-formed instruction gives it back: of every instruction whose word is read field by field, with every operand
at every value its encoding admits (R32, R35, R48, R49, R53, R63). -/
def Obligations.DecodeOfEncode : Prop :=
  ∀ (i : Instr) (x : IWord), hasFields i = true → i.wf = true → encode i = some x → decode x = i

/-- Encoding a decoded instruction gives the word back: no bit of a word that is an instruction is left unread (R48 to R59). -/
def Obligations.EncodeOfDecode : Prop :=
  ∀ x : IWord, hasFields (decode x) = true → encode (decode x) = some x

/-! ## The step -/

/-- A step runs the decoded instruction: with no step named to come, a selected lane set, and a word fetched at its pc, the step is exec of
what the word decodes to, in the state after the fetch with the word kept beside the set; then the set beside it comes next (R57, R364). A
pc at or beyond CODELEN is no fetch: the step is that event (R33). -/
def Obligations.StepRunsDecoded : Prop :=
  ∀ (s s1 : State), s.agenda = [] → s.cur.mask ≠ 0 →
    (∀ x, s.fetch s.cur.w s.cur.pc = (s1, .word x) →
      ∀ t, exec (decode x) { s1 with cur := { s1.cur with word := x } } = .next t → step s = .next t.takeSecond) ∧
    (s.fetch s.cur.w s.cur.pc = (s1, .beyond) → ∀ t, exec .fetchBeyondCodeSegment s1 = .next t → step s = .next t.takeSecond)

/-- Every step of every state goes on: no instruction and no event ends a run, whatever its operands (R63). -/
def Obligations.EveryStepGoesOn : Prop := (∀ (i : Instr) (s : State), GoesOn (exec i s)) ∧ ∀ s : State, GoesOn (step s)
end

