-- ==== Sys2Proof/Laws/Map.lean ====
section
/-! SUPPORT. What the operations on sparse stores do, and that each keeps the canonical form. -/

namespace Sys2Proof.Laws

open Sys2Proof.Machine

variable {α : Type}

/-! ## Reading -/

@[simp] theorem nmapFind_nil (k : Nat) : nmapFind ([] : NMap α) k = none := rfl

theorem nmapFind_cons (e : Nat × α) (t : NMap α) (k : Nat) :
    nmapFind (e :: t) k = if e.1 = k then some e.2 else nmapFind t k := rfl

theorem nmapFind_filter (m : NMap α) (p : Nat → Bool) (k : Nat) :
    nmapFind (m.filter (fun e => p e.1)) k = if p k then nmapFind m k else none := by
  induction m with
  | nil => simp
  | cons e t ih =>
    by_cases h : p e.1 <;> by_cases hk : e.1 = k <;> simp_all [nmapFind_cons]

theorem nmapFind_erase (m : NMap α) (k j : Nat) : nmapFind (nmapErase m k) j = if j = k then none else nmapFind m j := by
  have h := nmapFind_filter m (fun a => decide (a ≠ k)) j
  by_cases hj : j = k <;> simp_all [nmapErase]

theorem nmapFind_insert (m : NMap α) (k j : Nat) (v : α) (h : nmapFind m k = none) :
    nmapFind (nmapInsert m k v) j = if j = k then some v else nmapFind m j := by
  induction m with
  | nil => simp [nmapInsert, nmapFind_cons, eq_comm]
  | cons e t ih =>
    obtain ⟨a, b⟩ := e
    by_cases ha : a = k
    · simp [nmapFind_cons, ha] at h
    · have ht : nmapFind t k = none := by simpa [nmapFind_cons, ha] using h
      by_cases hk : k < a
      · simp only [nmapInsert, hk, if_true, nmapFind_cons]
        by_cases hj : j = k
        · simp [hj]
        · simp [hj, Ne.symm hj]
      · simp only [nmapInsert, hk, if_false, nmapFind_cons, ih ht]
        by_cases hj : j = k
        · subst hj; simp [ha]
        · simp [hj]

theorem nmapFind_set (m : NMap α) (k j : Nat) (v : α) :
    nmapFind (nmapSet m k v) j = if j = k then some v else nmapFind m j := by
  rw [nmapSet, nmapFind_insert _ _ _ _ (by simp [nmapFind_erase])]
  by_cases h : j = k <;> simp [h, nmapFind_erase]

@[simp] theorem nmapFind_set_self (m : NMap α) (k : Nat) (v : α) : nmapFind (nmapSet m k v) k = some v := by
  simp [nmapFind_set]

theorem nmapFind_set_of_ne (m : NMap α) {k j : Nat} (v : α) (h : j ≠ k) : nmapFind (nmapSet m k v) j = nmapFind m j := by
  simp [nmapFind_set, h]

theorem dmapGet_set [DecidableEq α] (d : α) (m : NMap α) (k j : Nat) (v : α) :
    dmapGet d (dmapSet d m k v) j = if j = k then v else dmapGet d m j := by
  unfold dmapGet dmapSet
  by_cases hv : v = d <;> by_cases hj : j = k <;> simp [hv, hj, nmapFind_erase, nmapFind_set]

@[simp] theorem dmapGet_set_self [DecidableEq α] (d : α) (m : NMap α) (k : Nat) (v : α) :
    dmapGet d (dmapSet d m k v) k = v := by simp [dmapGet_set]

theorem dmapGet_set_of_ne [DecidableEq α] (d : α) (m : NMap α) {k j : Nat} (v : α) (h : j ≠ k) :
    dmapGet d (dmapSet d m k v) j = dmapGet d m j := by simp [dmapGet_set, h]

theorem nmapFind_clear (m : NMap α) (lo hi k : Nat) :
    nmapFind (nmapClear m lo hi) k = if lo ≤ k ∧ k < hi then none else nmapFind m k := by
  have h := nmapFind_filter m (fun a => decide (a < lo ∨ hi ≤ a)) k
  unfold nmapClear
  rw [h]
  by_cases hk : lo ≤ k ∧ k < hi
  · rw [if_pos hk, if_neg (by simp; omega)]
  · rw [if_neg hk, if_pos (by simp; omega)]

/-! ## The canonical form -/

/-- Keys rise strictly, said by pairs. -/
theorem nmapSorted_iff (lo : Option Nat) (m : NMap α) :
    nmapSorted lo m = true ↔ (∀ e ∈ m, ∀ b ∈ lo, b < e.1) ∧ m.Pairwise (fun x y => x.1 < y.1) := by
  induction m generalizing lo with
  | nil => simp [nmapSorted]
  | cons e t ih =>
    obtain ⟨k, v⟩ := e
    simp only [nmapSorted, Bool.and_eq_true, ih, List.pairwise_cons, List.mem_cons, forall_eq_or_imp]
    cases lo with
    | none => simp
    | some b =>
      simp only [decide_eq_true_eq, Option.mem_def, Option.some.injEq, forall_eq']
      constructor
      · rintro ⟨h1, h2, h3⟩
        exact ⟨⟨h1, fun a ha => lt_trans h1 (h2 a ha)⟩, h2, h3⟩
      · rintro ⟨⟨h1, _⟩, h2, h3⟩
        exact ⟨h1, h2, h3⟩

theorem dmapWf_iff [DecidableEq α] (d : α) (m : NMap α) :
    dmapWf d m = true ↔ m.Pairwise (fun x y => x.1 < y.1) ∧ ∀ e ∈ m, e.2 ≠ d := by
  simp [dmapWf, nmapSorted_iff]

theorem dmapWf_nil [DecidableEq α] (d : α) : dmapWf d ([] : NMap α) = true := rfl

theorem dmapWf_filter [DecidableEq α] (d : α) (m : NMap α) (p : Nat × α → Bool) (h : dmapWf d m = true) :
    dmapWf d (m.filter p) = true := by
  rw [dmapWf_iff] at *
  exact ⟨h.1.filter _, fun e he => h.2 e (List.mem_of_mem_filter he)⟩

theorem dmapWf_erase [DecidableEq α] (d : α) (m : NMap α) (k : Nat) (h : dmapWf d m = true) : dmapWf d (nmapErase m k) = true :=
  dmapWf_filter d m _ h

theorem dmapWf_clear [DecidableEq α] (d : α) (m : NMap α) (lo hi : Nat) (h : dmapWf d m = true) :
    dmapWf d (nmapClear m lo hi) = true := dmapWf_filter d m _ h

theorem mem_insert (m : NMap α) (k : Nat) (v : α) (e : Nat × α) : e ∈ nmapInsert m k v ↔ e = (k, v) ∨ e ∈ m := by
  induction m with
  | nil => simp [nmapInsert]
  | cons x t ih =>
    by_cases h : k < x.1
    · simp [nmapInsert, h]
    · simp [nmapInsert, h, ih]; tauto

theorem pairwise_insert (m : NMap α) (k : Nat) (v : α) (h : m.Pairwise (fun x y => x.1 < y.1)) (hk : ∀ e ∈ m, e.1 ≠ k) :
    (nmapInsert m k v).Pairwise (fun x y => x.1 < y.1) := by
  induction m with
  | nil => simp [nmapInsert]
  | cons x t ih =>
    rw [List.pairwise_cons] at h
    by_cases hx : k < x.1
    · rw [nmapInsert, if_pos hx, List.pairwise_cons, List.pairwise_cons]
      simp only [List.mem_cons, forall_eq_or_imp]
      exact ⟨⟨hx, fun e he => lt_trans hx (h.1 e he)⟩, h⟩
    · simp only [nmapInsert, hx, if_false, List.pairwise_cons]
      refine ⟨fun e he => ?_, ih h.2 (fun e he => hk e (List.mem_cons_of_mem _ he))⟩
      rcases (mem_insert t k v e).1 he with rfl | he
      · have := hk x (List.mem_cons_self ..)
        show x.1 < k
        omega
      · exact h.1 e he

theorem dmapWf_set [DecidableEq α] (d : α) (m : NMap α) (k : Nat) (v : α) (h : dmapWf d m = true) :
    dmapWf d (dmapSet d m k v) = true := by
  unfold dmapSet
  by_cases hv : v = d
  · simpa [hv] using dmapWf_erase d m k h
  · have he := dmapWf_erase d m k h
    rw [dmapWf_iff] at he
    simp only [hv, if_false, nmapSet]
    rw [dmapWf_iff]
    refine ⟨pairwise_insert _ _ _ he.1 (fun e hm => by simpa [nmapErase] using (List.mem_filter.1 hm).2), fun e hm => ?_⟩
    rcases (mem_insert _ _ _ _).1 hm with rfl | hm
    · exact hv
    · exact he.2 e hm

theorem dmapWf_merge [DecidableEq α] (d : α) (m n : NMap α) (h : dmapWf d m = true) : dmapWf d (dmapMerge d m n) = true := by
  unfold dmapMerge
  induction n generalizing m with
  | nil => exact h
  | cons e t ih => exact ih _ (dmapWf_set d m e.1 e.2 h)

end Sys2Proof.Laws
end

