-- ==== Sys2Proof/Laws/Issue.lean ====
section
/-! SUPPORT. What the shared issue of an instruction leaves: lane sets, and the fixed-latency instructions without a cause. -/

namespace Sys2Proof.Machine

theorem mem_lanesOf {m : Mask} {l : Nat} : l ∈ lanesOf m ↔ m.getLsbD l = true := by
  simp only [lanesOf, List.mem_filter, List.mem_range, and_iff_right_iff_imp]
  exact fun h => BitVec.lt_of_getLsbD h

theorem maskOf_foldl_getLsbD (ls : List Nat) (m : Mask) (l : Nat) (hl : l < 32) :
    (ls.foldl (fun m l => m ||| (1#32 <<< l)) m).getLsbD l = (m.getLsbD l || ls.contains l) := by
  induction ls generalizing m with
  | nil => simp
  | cons a t ih =>
    rw [List.foldl_cons, ih, BitVec.getLsbD_or, BitVec.getLsbD_shiftLeft, List.contains_cons]
    by_cases h : l = a
    · subst h; simp [hl]
    · rcases Nat.lt_or_gt_of_ne h with h1 | h1
      · simp [h1, beq_eq_false_iff_ne.2 h]
      · have h2 : ¬ l < a := by omega
        have h3 : l - a ≠ 0 := by omega
        simp [h2, h3, hl, beq_eq_false_iff_ne.2 h]

/-- A mask holds the lanes of its list that a warp has. -/
theorem maskOf_getLsbD (ls : List Nat) (l : Nat) : (maskOf ls).getLsbD l = (decide (l < 32) && ls.contains l) := by
  by_cases hl : l < 32
  · rw [maskOf, maskOf_foldl_getLsbD ls 0 l hl]; simp [hl]
  · rw [BitVec.getLsbD_of_ge _ _ (by omega)]; simp [hl]

@[simp] theorem maskOf_lanesOf (m : Mask) : maskOf (lanesOf m) = m := by
  apply BitVec.eq_of_getLsbD_eq
  intro i hi
  rw [maskOf_getLsbD]
  cases h : m.getLsbD i
  · have : ¬ i ∈ lanesOf m := by rw [mem_lanesOf, h]; simp
    simp [this]
  · have : i ∈ lanesOf m := mem_lanesOf.2 h
    simp [this, hi]

/-- The lanes that a test keeps, as a mask. -/
theorem maskOf_filter_getLsbD (m : Mask) (p : Nat → Bool) (l : Nat) :
    (maskOf ((lanesOf m).filter p)).getLsbD l = (m.getLsbD l && p l) := by
  rw [maskOf_getLsbD]
  by_cases hl : l < 32
  · by_cases hm : m.getLsbD l = true
    · cases hp : p l <;> simp [hl, hm, hp, mem_lanesOf]
    · simp [hm, mem_lanesOf]
  · have : m.getLsbD l = false := BitVec.getLsbD_of_ge m l (by omega)
    simp [hl, this]

@[simp] theorem maskOf_nil : maskOf [] = 0 := rfl

theorem none_hits {α : Type} {p : α → Bool} {xs : List α} : (∀ u ∈ xs, p u = false) → xs.any p = false := by simp

theorem guardMask_getLsbD (s : State) (h : Hdr) (w : Nat) (m : Mask) (l : Nat) :
    (s.guardMask h w m).getLsbD l = (m.getLsbD l && s.guardTrue h w l) := maskOf_filter_getLsbD ..

theorem mem_of_guardMask {s : State} {h : Hdr} {w l : Nat} {m : Mask} (hl : l ∈ lanesOf (s.guardMask h w m)) : l ∈ lanesOf m := by
  rw [mem_lanesOf, guardMask_getLsbD, Bool.and_eq_true] at hl
  exact mem_lanesOf.2 hl.1

/-- No lane is held back when none is blocked, no record is wanting, and what each lane reads, or does by itself, makes it wait for nothing. -/
theorem readyLanes_eq {s : State} {h : Hdr} {ck : Check} {p : Pipe} {w : Nat} {mask : Mask} {own : Nat → Bool}
    (hfree : ∀ l ∈ lanesOf mask, s.laneBlocked w l = false) (hrec : ∀ l ∈ lanesOf mask, s.recordWaits p w l = false)
    (hready : ∀ l ∈ lanesOf mask, ∀ u ∈ (if s.guardTrue h w l then ck.uses else guardUses h), s.waitUse w l u = false)
    (hown : ∀ l ∈ lanesOf (s.guardMask h w mask), own l = false) : s.readyLanes h ck p w mask own = mask := by
  have keep : ∀ l ∈ lanesOf mask, (!s.laneBlocked w l && !(ck.ok && (s.recordWaits p w l || s.useWaits h ck own w l))) = true := by
    intro l hl
    have hu := none_hits (hready l hl)
    have : s.useWaits h ck own w l = false := by
      unfold State.useWaits
      by_cases hg : s.guardTrue h w l = true
      · have : own l = false := hown l (by rw [mem_lanesOf, guardMask_getLsbD, mem_lanesOf.1 hl, hg]; rfl)
        simp only [hg, if_true] at hu ⊢
        rw [hu, this]; rfl
      · rw [if_neg hg] at hu ⊢; exact hu
    simp [hfree l hl, hrec l hl, this]
  rw [State.readyLanes, List.filter_eq_self.2 keep, maskOf_lanesOf]

/-- A lane of a set that can issue raises no cause that comes before the operation itself. -/
theorem earlyCause_none {s : State} {h : Hdr} {ck : Check} (c : s.CanIssue h ck) {l : Nat} (hl : l ∈ lanesOf s.cur.mask) :
    s.earlyCause h ck none s.cur.w l = none := by
  have h1 := none_hits (c.alloc l hl)
  have h2 := none_hits (c.settled l hl)
  by_cases hg : s.guardTrue h s.cur.w l = true
  · have hm : l ∈ lanesOf (s.activeSet h) := by
      rw [mem_lanesOf, State.activeSet, guardMask_getLsbD, mem_lanesOf.1 hl, hg]; rfl
    have h3 := none_hits (c.clean l hm)
    simp only [hg, if_true] at h2
    simp [State.earlyCause, c.ok, h1, h2, h3, hg]
  · simp only [Bool.not_eq_true] at hg
    simp only [hg, Bool.false_eq_true, if_false] at h2
    simp [State.earlyCause, c.ok, h1, h2, hg]

/-- No cause is raised when neither the shared checks nor the operation itself find one. -/
theorem issueCauses_nil {s : State} {h : Hdr} {ck : Check} (c : s.CanIssue h ck) {pre : Nat → Option Cause}
    {own : Nat → Option (Cause × Nat × BitVec 64)} (hpre : ∀ l ∈ lanesOf s.cur.mask, pre l = none)
    (hown : ∀ l ∈ lanesOf (s.activeSet h), own l = none) : s.issueCauses h ck pre own s.cur.w s.cur.mask = [] := by
  rw [State.issueCauses, List.filterMap_eq_nil_iff]
  intro l hl
  rw [hpre l hl, earlyCause_none c hl]
  by_cases hg : s.guardTrue h s.cur.w l = true
  · have hm : l ∈ lanesOf (s.activeSet h) := by
      rw [mem_lanesOf, State.activeSet, guardMask_getLsbD, mem_lanesOf.1 hl, hg]; rfl
    simp [hg, hown l hm]
  · simp [hg]

@[simp] theorem raise_nil (s : State) (w : Nat) (pc : Word) (word : IWord) (rc : Nat → LaneRec) (op : Option Nat) :
    s.raise w pc word [] rc op = s := by
  simp [State.raise]

theorem and_not_zero (m : Mask) : m &&& ~~~(0 : Mask) = m := by
  rw [show ~~~(0 : Mask) = BitVec.allOnes 32 from by decide, BitVec.and_allOnes]

/-- What the shared issue of a fixed-latency instruction without a wait or a cause of its own can do: its lanes take their results, it
acts on the warp as `post` says, and they move on. -/
theorem issueFixed_eq {s : State} {h : Hdr} {ck : Check} {op : FixedOp} (c : s.CanIssue h ck)
    (hpre : ∀ l ∈ lanesOf s.cur.mask, op.pre s (s.rdFor 0 l) = none)
    (hwait : ∀ l ∈ lanesOf s.cur.mask, op.wait s (s.rdFor 0 l) = false)
    (hcause : ∀ l ∈ lanesOf (s.activeSet h), op.cause s (s.rdFor 0 l) = none) :
    issueFixed h ck op s =
      (let outs := (lanesOf (s.activeSet h)).map (fun l => (l, op.out s (s.rdAt h l)))
       let s1 := (s.applyWrites s.cur.w (laneWrites outs)).orFlags s.cur.w (outs.foldl (fun f e => f ||| e.2.fl) 0)
       let s2 := if s.activeSet h = 0 then s1 else op.post s1 (s.rdAt h ((leadOf (s.activeSet h)).getD 0))
       s2.advance s h s.cur.w s.cur.pc (s.activeSet h) (s.offSet h)) := by
  have hr : s.readyLanes h ck .a s.cur.w s.cur.mask (fun l => op.wait s (s.rdFor 0 l)) = s.cur.mask :=
    readyLanes_eq c.free (fun _ _ => rfl) c.ready (fun l hl => hwait l (mem_of_guardMask hl))
  have hc : s.issueCauses h ck (fun l => op.pre s (s.rdFor 0 l)) (fun l => (op.cause s (s.rdFor 0 l)).map (fun r => (r.1, r.2, 0)))
      s.cur.w s.cur.mask = [] := issueCauses_nil c hpre (fun l hl => by rw [hcause l hl]; rfl)
  simp only [State.rdFor] at hr hc
  simp only [issueFixed, hr, hc, List.map_nil, maskOf_nil, and_not_zero, raise_nil]
  rfl

/-- The same for an operation with results only. -/
theorem issueFixed_landed {s : State} {h : Hdr} {ck : Check} {out : State → Rd → LaneOut} (c : s.CanIssue h ck) :
    issueFixed h ck (fixedOf out) s = s.landed h out := by
  rw [issueFixed_eq c (fun _ _ => rfl) (fun _ _ => rfl) (fun _ _ => rfl)]
  simp [State.landed, fixedOf]

end Sys2Proof.Machine
end

