-- ==== Sys2Proof/Laws/State.lean ====
section
/-! SUPPORT. One lemma for each field of State under each named update, so that no proof unfolds a record update. -/

namespace Sys2Proof.Laws

open Sys2Proof.Machine

@[simp] theorem setWarp_agenda (s : State) (w : Nat) (x : Warp) : (s.setWarp w x).agenda = s.agenda := rfl
@[simp] theorem setWarp_free (s : State) (w : Nat) (x : Warp) : (s.setWarp w x).free = s.free := rfl
@[simp] theorem setWarp_cur (s : State) (w : Nat) (x : Warp) : (s.setWarp w x).cur = s.cur := rfl
@[simp] theorem setWarp_serial (s : State) (w : Nat) (x : Warp) : (s.setWarp w x).serial = s.serial := rfl
@[simp] theorem setWarp_regs (s : State) (w : Nat) (x : Warp) : (s.setWarp w x).regs = s.regs := rfl
@[simp] theorem setWarp_signs (s : State) (w : Nat) (x : Warp) : (s.setWarp w x).signs = s.signs := rfl
@[simp] theorem setWarp_ops (s : State) (w : Nat) (x : Warp) : (s.setWarp w x).ops = s.ops := rfl
@[simp] theorem setWarp_wgs (s : State) (w : Nat) (x : Warp) : (s.setWarp w x).wgs = s.wgs := rfl
@[simp] theorem setWarp_cores (s : State) (w : Nat) (x : Warp) : (s.setWarp w x).cores = s.cores := rfl
@[simp] theorem setWarp_mem (s : State) (w : Nat) (x : Warp) : (s.setWarp w x).mem = s.mem := rfl
@[simp] theorem setWarp_counters (s : State) (w : Nat) (x : Warp) : (s.setWarp w x).counters = s.counters := rfl
@[simp] theorem setWarp_ctrSerials (s : State) (w : Nat) (x : Warp) : (s.setWarp w x).ctrSerials = s.ctrSerials := rfl
@[simp] theorem setWarp_groups (s : State) (w : Nat) (x : Warp) : (s.setWarp w x).groups = s.groups := rfl
@[simp] theorem setWarp_gens (s : State) (w : Nat) (x : Warp) : (s.setWarp w x).gens = s.gens := rfl
@[simp] theorem setWarp_holds (s : State) (w : Nat) (x : Warp) : (s.setWarp w x).holds = s.holds := rfl
@[simp] theorem setWarp_jobs (s : State) (w : Nat) (x : Warp) : (s.setWarp w x).jobs = s.jobs := rfl
@[simp] theorem setWarp_cuts (s : State) (w : Nat) (x : Warp) : (s.setWarp w x).cuts = s.cuts := rfl
@[simp] theorem setWarp_graphs (s : State) (w : Nat) (x : Warp) : (s.setWarp w x).graphs = s.graphs := rfl
@[simp] theorem setWarp_adms (s : State) (w : Nat) (x : Warp) : (s.setWarp w x).adms = s.adms := rfl
@[simp] theorem setWarp_setup (s : State) (w : Nat) (x : Warp) : (s.setWarp w x).setup = s.setup := rfl
@[simp] theorem setWarp_entries (s : State) (w : Nat) (x : Warp) : (s.setWarp w x).entries = s.entries := rfl
@[simp] theorem setWarp_lists (s : State) (w : Nat) (x : Warp) : (s.setWarp w x).lists = s.lists := rfl
@[simp] theorem setWarp_draining (s : State) (w : Nat) (x : Warp) : (s.setWarp w x).draining = s.draining := rfl
@[simp] theorem setWarp_lastPass (s : State) (w : Nat) (x : Warp) : (s.setWarp w x).lastPass = s.lastPass := rfl
@[simp] theorem setWarp_ctxs (s : State) (w : Nat) (x : Warp) : (s.setWarp w x).ctxs = s.ctxs := rfl
@[simp] theorem setWarp_saved (s : State) (w : Nat) (x : Warp) : (s.setWarp w x).saved = s.saved := rfl
@[simp] theorem setWarp_queues (s : State) (w : Nat) (x : Warp) : (s.setWarp w x).queues = s.queues := rfl
@[simp] theorem setWarp_planes (s : State) (w : Nat) (x : Warp) : (s.setWarp w x).planes = s.planes := rfl
@[simp] theorem setWarp_card (s : State) (w : Nat) (x : Warp) : (s.setWarp w x).card = s.card := rfl
@[simp] theorem setWarp_stackRegs (s : State) (w : Nat) (x : Warp) : (s.setWarp w x).stackRegs = s.stackRegs := rfl
@[simp] theorem setWarp_faults (s : State) (w : Nat) (x : Warp) : (s.setWarp w x).faults = s.faults := rfl
@[simp] theorem setWarp_errCounts (s : State) (w : Nat) (x : Warp) : (s.setWarp w x).errCounts = s.errCounts := rfl
@[simp] theorem setWarp_thermal (s : State) (w : Nat) (x : Warp) : (s.setWarp w x).thermal = s.thermal := rfl
@[simp] theorem setWarp_worlds (s : State) (w : Nat) (x : Warp) : (s.setWarp w x).worlds = s.worlds := rfl
@[simp] theorem setWarp_hostRead (s : State) (w : Nat) (x : Warp) : (s.setWarp w x).hostRead = s.hostRead := rfl
@[simp] theorem setWarp_hostEp (s : State) (w : Nat) (x : Warp) : (s.setWarp w x).hostEp = s.hostEp := rfl
@[simp] theorem setWarp_poll (s : State) (w : Nat) (x : Warp) : (s.setWarp w x).poll = s.poll := rfl
@[simp] theorem setWarp_served (s : State) (w : Nat) (x : Warp) : (s.setWarp w x).served = s.served := rfl

@[simp] theorem setSign_agenda (s : State) (w k : Nat) (g : Sign) : (s.setSign w k g).agenda = s.agenda := rfl
@[simp] theorem setSign_free (s : State) (w k : Nat) (g : Sign) : (s.setSign w k g).free = s.free := rfl
@[simp] theorem setSign_cur (s : State) (w k : Nat) (g : Sign) : (s.setSign w k g).cur = s.cur := rfl
@[simp] theorem setSign_serial (s : State) (w k : Nat) (g : Sign) : (s.setSign w k g).serial = s.serial := rfl
@[simp] theorem setSign_regs (s : State) (w k : Nat) (g : Sign) : (s.setSign w k g).regs = s.regs := rfl
@[simp] theorem setSign_warps (s : State) (w k : Nat) (g : Sign) : (s.setSign w k g).warps = s.warps := rfl
@[simp] theorem setSign_ops (s : State) (w k : Nat) (g : Sign) : (s.setSign w k g).ops = s.ops := rfl
@[simp] theorem setSign_wgs (s : State) (w k : Nat) (g : Sign) : (s.setSign w k g).wgs = s.wgs := rfl
@[simp] theorem setSign_cores (s : State) (w k : Nat) (g : Sign) : (s.setSign w k g).cores = s.cores := rfl
@[simp] theorem setSign_mem (s : State) (w k : Nat) (g : Sign) : (s.setSign w k g).mem = s.mem := rfl
@[simp] theorem setSign_counters (s : State) (w k : Nat) (g : Sign) : (s.setSign w k g).counters = s.counters := rfl
@[simp] theorem setSign_ctrSerials (s : State) (w k : Nat) (g : Sign) : (s.setSign w k g).ctrSerials = s.ctrSerials := rfl
@[simp] theorem setSign_groups (s : State) (w k : Nat) (g : Sign) : (s.setSign w k g).groups = s.groups := rfl
@[simp] theorem setSign_gens (s : State) (w k : Nat) (g : Sign) : (s.setSign w k g).gens = s.gens := rfl
@[simp] theorem setSign_holds (s : State) (w k : Nat) (g : Sign) : (s.setSign w k g).holds = s.holds := rfl
@[simp] theorem setSign_jobs (s : State) (w k : Nat) (g : Sign) : (s.setSign w k g).jobs = s.jobs := rfl
@[simp] theorem setSign_cuts (s : State) (w k : Nat) (g : Sign) : (s.setSign w k g).cuts = s.cuts := rfl
@[simp] theorem setSign_graphs (s : State) (w k : Nat) (g : Sign) : (s.setSign w k g).graphs = s.graphs := rfl
@[simp] theorem setSign_adms (s : State) (w k : Nat) (g : Sign) : (s.setSign w k g).adms = s.adms := rfl
@[simp] theorem setSign_setup (s : State) (w k : Nat) (g : Sign) : (s.setSign w k g).setup = s.setup := rfl
@[simp] theorem setSign_entries (s : State) (w k : Nat) (g : Sign) : (s.setSign w k g).entries = s.entries := rfl
@[simp] theorem setSign_lists (s : State) (w k : Nat) (g : Sign) : (s.setSign w k g).lists = s.lists := rfl
@[simp] theorem setSign_draining (s : State) (w k : Nat) (g : Sign) : (s.setSign w k g).draining = s.draining := rfl
@[simp] theorem setSign_lastPass (s : State) (w k : Nat) (g : Sign) : (s.setSign w k g).lastPass = s.lastPass := rfl
@[simp] theorem setSign_ctxs (s : State) (w k : Nat) (g : Sign) : (s.setSign w k g).ctxs = s.ctxs := rfl
@[simp] theorem setSign_saved (s : State) (w k : Nat) (g : Sign) : (s.setSign w k g).saved = s.saved := rfl
@[simp] theorem setSign_queues (s : State) (w k : Nat) (g : Sign) : (s.setSign w k g).queues = s.queues := rfl
@[simp] theorem setSign_planes (s : State) (w k : Nat) (g : Sign) : (s.setSign w k g).planes = s.planes := rfl
@[simp] theorem setSign_card (s : State) (w k : Nat) (g : Sign) : (s.setSign w k g).card = s.card := rfl
@[simp] theorem setSign_stackRegs (s : State) (w k : Nat) (g : Sign) : (s.setSign w k g).stackRegs = s.stackRegs := rfl
@[simp] theorem setSign_faults (s : State) (w k : Nat) (g : Sign) : (s.setSign w k g).faults = s.faults := rfl
@[simp] theorem setSign_errCounts (s : State) (w k : Nat) (g : Sign) : (s.setSign w k g).errCounts = s.errCounts := rfl
@[simp] theorem setSign_thermal (s : State) (w k : Nat) (g : Sign) : (s.setSign w k g).thermal = s.thermal := rfl
@[simp] theorem setSign_worlds (s : State) (w k : Nat) (g : Sign) : (s.setSign w k g).worlds = s.worlds := rfl
@[simp] theorem setSign_hostRead (s : State) (w k : Nat) (g : Sign) : (s.setSign w k g).hostRead = s.hostRead := rfl
@[simp] theorem setSign_hostEp (s : State) (w k : Nat) (g : Sign) : (s.setSign w k g).hostEp = s.hostEp := rfl
@[simp] theorem setSign_poll (s : State) (w k : Nat) (g : Sign) : (s.setSign w k g).poll = s.poll := rfl
@[simp] theorem setSign_served (s : State) (w k : Nat) (g : Sign) : (s.setSign w k g).served = s.served := rfl

@[simp] theorem setOp_agenda (s : State) (id : Nat) (o : Op) : (s.setOp id o).agenda = s.agenda := rfl
@[simp] theorem setOp_free (s : State) (id : Nat) (o : Op) : (s.setOp id o).free = s.free := rfl
@[simp] theorem setOp_cur (s : State) (id : Nat) (o : Op) : (s.setOp id o).cur = s.cur := rfl
@[simp] theorem setOp_serial (s : State) (id : Nat) (o : Op) : (s.setOp id o).serial = s.serial := rfl
@[simp] theorem setOp_regs (s : State) (id : Nat) (o : Op) : (s.setOp id o).regs = s.regs := rfl
@[simp] theorem setOp_warps (s : State) (id : Nat) (o : Op) : (s.setOp id o).warps = s.warps := rfl
@[simp] theorem setOp_signs (s : State) (id : Nat) (o : Op) : (s.setOp id o).signs = s.signs := rfl
@[simp] theorem setOp_wgs (s : State) (id : Nat) (o : Op) : (s.setOp id o).wgs = s.wgs := rfl
@[simp] theorem setOp_cores (s : State) (id : Nat) (o : Op) : (s.setOp id o).cores = s.cores := rfl
@[simp] theorem setOp_mem (s : State) (id : Nat) (o : Op) : (s.setOp id o).mem = s.mem := rfl
@[simp] theorem setOp_counters (s : State) (id : Nat) (o : Op) : (s.setOp id o).counters = s.counters := rfl
@[simp] theorem setOp_ctrSerials (s : State) (id : Nat) (o : Op) : (s.setOp id o).ctrSerials = s.ctrSerials := rfl
@[simp] theorem setOp_groups (s : State) (id : Nat) (o : Op) : (s.setOp id o).groups = s.groups := rfl
@[simp] theorem setOp_gens (s : State) (id : Nat) (o : Op) : (s.setOp id o).gens = s.gens := rfl
@[simp] theorem setOp_holds (s : State) (id : Nat) (o : Op) : (s.setOp id o).holds = s.holds := rfl
@[simp] theorem setOp_jobs (s : State) (id : Nat) (o : Op) : (s.setOp id o).jobs = s.jobs := rfl
@[simp] theorem setOp_cuts (s : State) (id : Nat) (o : Op) : (s.setOp id o).cuts = s.cuts := rfl
@[simp] theorem setOp_graphs (s : State) (id : Nat) (o : Op) : (s.setOp id o).graphs = s.graphs := rfl
@[simp] theorem setOp_adms (s : State) (id : Nat) (o : Op) : (s.setOp id o).adms = s.adms := rfl
@[simp] theorem setOp_setup (s : State) (id : Nat) (o : Op) : (s.setOp id o).setup = s.setup := rfl
@[simp] theorem setOp_entries (s : State) (id : Nat) (o : Op) : (s.setOp id o).entries = s.entries := rfl
@[simp] theorem setOp_lists (s : State) (id : Nat) (o : Op) : (s.setOp id o).lists = s.lists := rfl
@[simp] theorem setOp_draining (s : State) (id : Nat) (o : Op) : (s.setOp id o).draining = s.draining := rfl
@[simp] theorem setOp_lastPass (s : State) (id : Nat) (o : Op) : (s.setOp id o).lastPass = s.lastPass := rfl
@[simp] theorem setOp_ctxs (s : State) (id : Nat) (o : Op) : (s.setOp id o).ctxs = s.ctxs := rfl
@[simp] theorem setOp_saved (s : State) (id : Nat) (o : Op) : (s.setOp id o).saved = s.saved := rfl
@[simp] theorem setOp_queues (s : State) (id : Nat) (o : Op) : (s.setOp id o).queues = s.queues := rfl
@[simp] theorem setOp_planes (s : State) (id : Nat) (o : Op) : (s.setOp id o).planes = s.planes := rfl
@[simp] theorem setOp_card (s : State) (id : Nat) (o : Op) : (s.setOp id o).card = s.card := rfl
@[simp] theorem setOp_stackRegs (s : State) (id : Nat) (o : Op) : (s.setOp id o).stackRegs = s.stackRegs := rfl
@[simp] theorem setOp_faults (s : State) (id : Nat) (o : Op) : (s.setOp id o).faults = s.faults := rfl
@[simp] theorem setOp_errCounts (s : State) (id : Nat) (o : Op) : (s.setOp id o).errCounts = s.errCounts := rfl
@[simp] theorem setOp_thermal (s : State) (id : Nat) (o : Op) : (s.setOp id o).thermal = s.thermal := rfl
@[simp] theorem setOp_worlds (s : State) (id : Nat) (o : Op) : (s.setOp id o).worlds = s.worlds := rfl
@[simp] theorem setOp_hostRead (s : State) (id : Nat) (o : Op) : (s.setOp id o).hostRead = s.hostRead := rfl
@[simp] theorem setOp_hostEp (s : State) (id : Nat) (o : Op) : (s.setOp id o).hostEp = s.hostEp := rfl
@[simp] theorem setOp_poll (s : State) (id : Nat) (o : Op) : (s.setOp id o).poll = s.poll := rfl
@[simp] theorem setOp_served (s : State) (id : Nat) (o : Op) : (s.setOp id o).served = s.served := rfl

@[simp] theorem modOp_agenda (s : State) (id : Nat) (f : Op → Op) : (s.modOp id f).agenda = s.agenda := rfl
@[simp] theorem modOp_free (s : State) (id : Nat) (f : Op → Op) : (s.modOp id f).free = s.free := rfl
@[simp] theorem modOp_cur (s : State) (id : Nat) (f : Op → Op) : (s.modOp id f).cur = s.cur := rfl
@[simp] theorem modOp_serial (s : State) (id : Nat) (f : Op → Op) : (s.modOp id f).serial = s.serial := rfl
@[simp] theorem modOp_regs (s : State) (id : Nat) (f : Op → Op) : (s.modOp id f).regs = s.regs := rfl
@[simp] theorem modOp_warps (s : State) (id : Nat) (f : Op → Op) : (s.modOp id f).warps = s.warps := rfl
@[simp] theorem modOp_signs (s : State) (id : Nat) (f : Op → Op) : (s.modOp id f).signs = s.signs := rfl
@[simp] theorem modOp_wgs (s : State) (id : Nat) (f : Op → Op) : (s.modOp id f).wgs = s.wgs := rfl
@[simp] theorem modOp_cores (s : State) (id : Nat) (f : Op → Op) : (s.modOp id f).cores = s.cores := rfl
@[simp] theorem modOp_mem (s : State) (id : Nat) (f : Op → Op) : (s.modOp id f).mem = s.mem := rfl
@[simp] theorem modOp_counters (s : State) (id : Nat) (f : Op → Op) : (s.modOp id f).counters = s.counters := rfl
@[simp] theorem modOp_ctrSerials (s : State) (id : Nat) (f : Op → Op) : (s.modOp id f).ctrSerials = s.ctrSerials := rfl
@[simp] theorem modOp_groups (s : State) (id : Nat) (f : Op → Op) : (s.modOp id f).groups = s.groups := rfl
@[simp] theorem modOp_gens (s : State) (id : Nat) (f : Op → Op) : (s.modOp id f).gens = s.gens := rfl
@[simp] theorem modOp_holds (s : State) (id : Nat) (f : Op → Op) : (s.modOp id f).holds = s.holds := rfl
@[simp] theorem modOp_jobs (s : State) (id : Nat) (f : Op → Op) : (s.modOp id f).jobs = s.jobs := rfl
@[simp] theorem modOp_cuts (s : State) (id : Nat) (f : Op → Op) : (s.modOp id f).cuts = s.cuts := rfl
@[simp] theorem modOp_graphs (s : State) (id : Nat) (f : Op → Op) : (s.modOp id f).graphs = s.graphs := rfl
@[simp] theorem modOp_adms (s : State) (id : Nat) (f : Op → Op) : (s.modOp id f).adms = s.adms := rfl
@[simp] theorem modOp_setup (s : State) (id : Nat) (f : Op → Op) : (s.modOp id f).setup = s.setup := rfl
@[simp] theorem modOp_entries (s : State) (id : Nat) (f : Op → Op) : (s.modOp id f).entries = s.entries := rfl
@[simp] theorem modOp_lists (s : State) (id : Nat) (f : Op → Op) : (s.modOp id f).lists = s.lists := rfl
@[simp] theorem modOp_draining (s : State) (id : Nat) (f : Op → Op) : (s.modOp id f).draining = s.draining := rfl
@[simp] theorem modOp_lastPass (s : State) (id : Nat) (f : Op → Op) : (s.modOp id f).lastPass = s.lastPass := rfl
@[simp] theorem modOp_ctxs (s : State) (id : Nat) (f : Op → Op) : (s.modOp id f).ctxs = s.ctxs := rfl
@[simp] theorem modOp_saved (s : State) (id : Nat) (f : Op → Op) : (s.modOp id f).saved = s.saved := rfl
@[simp] theorem modOp_queues (s : State) (id : Nat) (f : Op → Op) : (s.modOp id f).queues = s.queues := rfl
@[simp] theorem modOp_planes (s : State) (id : Nat) (f : Op → Op) : (s.modOp id f).planes = s.planes := rfl
@[simp] theorem modOp_card (s : State) (id : Nat) (f : Op → Op) : (s.modOp id f).card = s.card := rfl
@[simp] theorem modOp_stackRegs (s : State) (id : Nat) (f : Op → Op) : (s.modOp id f).stackRegs = s.stackRegs := rfl
@[simp] theorem modOp_faults (s : State) (id : Nat) (f : Op → Op) : (s.modOp id f).faults = s.faults := rfl
@[simp] theorem modOp_errCounts (s : State) (id : Nat) (f : Op → Op) : (s.modOp id f).errCounts = s.errCounts := rfl
@[simp] theorem modOp_thermal (s : State) (id : Nat) (f : Op → Op) : (s.modOp id f).thermal = s.thermal := rfl
@[simp] theorem modOp_worlds (s : State) (id : Nat) (f : Op → Op) : (s.modOp id f).worlds = s.worlds := rfl
@[simp] theorem modOp_hostRead (s : State) (id : Nat) (f : Op → Op) : (s.modOp id f).hostRead = s.hostRead := rfl
@[simp] theorem modOp_hostEp (s : State) (id : Nat) (f : Op → Op) : (s.modOp id f).hostEp = s.hostEp := rfl
@[simp] theorem modOp_poll (s : State) (id : Nat) (f : Op → Op) : (s.modOp id f).poll = s.poll := rfl
@[simp] theorem modOp_served (s : State) (id : Nat) (f : Op → Op) : (s.modOp id f).served = s.served := rfl

@[simp] theorem setCtx_agenda (s : State) (c : Nat) (x : Ctx) : (s.setCtx c x).agenda = s.agenda := rfl
@[simp] theorem setCtx_free (s : State) (c : Nat) (x : Ctx) : (s.setCtx c x).free = s.free := rfl
@[simp] theorem setCtx_cur (s : State) (c : Nat) (x : Ctx) : (s.setCtx c x).cur = s.cur := rfl
@[simp] theorem setCtx_serial (s : State) (c : Nat) (x : Ctx) : (s.setCtx c x).serial = s.serial := rfl
@[simp] theorem setCtx_regs (s : State) (c : Nat) (x : Ctx) : (s.setCtx c x).regs = s.regs := rfl
@[simp] theorem setCtx_warps (s : State) (c : Nat) (x : Ctx) : (s.setCtx c x).warps = s.warps := rfl
@[simp] theorem setCtx_signs (s : State) (c : Nat) (x : Ctx) : (s.setCtx c x).signs = s.signs := rfl
@[simp] theorem setCtx_ops (s : State) (c : Nat) (x : Ctx) : (s.setCtx c x).ops = s.ops := rfl
@[simp] theorem setCtx_wgs (s : State) (c : Nat) (x : Ctx) : (s.setCtx c x).wgs = s.wgs := rfl
@[simp] theorem setCtx_cores (s : State) (c : Nat) (x : Ctx) : (s.setCtx c x).cores = s.cores := rfl
@[simp] theorem setCtx_mem (s : State) (c : Nat) (x : Ctx) : (s.setCtx c x).mem = s.mem := rfl
@[simp] theorem setCtx_counters (s : State) (c : Nat) (x : Ctx) : (s.setCtx c x).counters = s.counters := rfl
@[simp] theorem setCtx_ctrSerials (s : State) (c : Nat) (x : Ctx) : (s.setCtx c x).ctrSerials = s.ctrSerials := rfl
@[simp] theorem setCtx_groups (s : State) (c : Nat) (x : Ctx) : (s.setCtx c x).groups = s.groups := rfl
@[simp] theorem setCtx_gens (s : State) (c : Nat) (x : Ctx) : (s.setCtx c x).gens = s.gens := rfl
@[simp] theorem setCtx_holds (s : State) (c : Nat) (x : Ctx) : (s.setCtx c x).holds = s.holds := rfl
@[simp] theorem setCtx_jobs (s : State) (c : Nat) (x : Ctx) : (s.setCtx c x).jobs = s.jobs := rfl
@[simp] theorem setCtx_cuts (s : State) (c : Nat) (x : Ctx) : (s.setCtx c x).cuts = s.cuts := rfl
@[simp] theorem setCtx_graphs (s : State) (c : Nat) (x : Ctx) : (s.setCtx c x).graphs = s.graphs := rfl
@[simp] theorem setCtx_adms (s : State) (c : Nat) (x : Ctx) : (s.setCtx c x).adms = s.adms := rfl
@[simp] theorem setCtx_setup (s : State) (c : Nat) (x : Ctx) : (s.setCtx c x).setup = s.setup := rfl
@[simp] theorem setCtx_entries (s : State) (c : Nat) (x : Ctx) : (s.setCtx c x).entries = s.entries := rfl
@[simp] theorem setCtx_lists (s : State) (c : Nat) (x : Ctx) : (s.setCtx c x).lists = s.lists := rfl
@[simp] theorem setCtx_draining (s : State) (c : Nat) (x : Ctx) : (s.setCtx c x).draining = s.draining := rfl
@[simp] theorem setCtx_lastPass (s : State) (c : Nat) (x : Ctx) : (s.setCtx c x).lastPass = s.lastPass := rfl
@[simp] theorem setCtx_saved (s : State) (c : Nat) (x : Ctx) : (s.setCtx c x).saved = s.saved := rfl
@[simp] theorem setCtx_queues (s : State) (c : Nat) (x : Ctx) : (s.setCtx c x).queues = s.queues := rfl
@[simp] theorem setCtx_planes (s : State) (c : Nat) (x : Ctx) : (s.setCtx c x).planes = s.planes := rfl
@[simp] theorem setCtx_card (s : State) (c : Nat) (x : Ctx) : (s.setCtx c x).card = s.card := rfl
@[simp] theorem setCtx_stackRegs (s : State) (c : Nat) (x : Ctx) : (s.setCtx c x).stackRegs = s.stackRegs := rfl
@[simp] theorem setCtx_faults (s : State) (c : Nat) (x : Ctx) : (s.setCtx c x).faults = s.faults := rfl
@[simp] theorem setCtx_errCounts (s : State) (c : Nat) (x : Ctx) : (s.setCtx c x).errCounts = s.errCounts := rfl
@[simp] theorem setCtx_thermal (s : State) (c : Nat) (x : Ctx) : (s.setCtx c x).thermal = s.thermal := rfl
@[simp] theorem setCtx_worlds (s : State) (c : Nat) (x : Ctx) : (s.setCtx c x).worlds = s.worlds := rfl
@[simp] theorem setCtx_hostRead (s : State) (c : Nat) (x : Ctx) : (s.setCtx c x).hostRead = s.hostRead := rfl
@[simp] theorem setCtx_hostEp (s : State) (c : Nat) (x : Ctx) : (s.setCtx c x).hostEp = s.hostEp := rfl
@[simp] theorem setCtx_poll (s : State) (c : Nat) (x : Ctx) : (s.setCtx c x).poll = s.poll := rfl
@[simp] theorem setCtx_served (s : State) (c : Nat) (x : Ctx) : (s.setCtx c x).served = s.served := rfl

@[simp] theorem writeHome_agenda (s : State) (a : Nat) (bs : List Byte) : (s.writeHome a bs).agenda = s.agenda := rfl
@[simp] theorem writeHome_free (s : State) (a : Nat) (bs : List Byte) : (s.writeHome a bs).free = s.free := rfl
@[simp] theorem writeHome_cur (s : State) (a : Nat) (bs : List Byte) : (s.writeHome a bs).cur = s.cur := rfl
@[simp] theorem writeHome_serial (s : State) (a : Nat) (bs : List Byte) : (s.writeHome a bs).serial = s.serial := rfl
@[simp] theorem writeHome_regs (s : State) (a : Nat) (bs : List Byte) : (s.writeHome a bs).regs = s.regs := rfl
@[simp] theorem writeHome_warps (s : State) (a : Nat) (bs : List Byte) : (s.writeHome a bs).warps = s.warps := rfl
@[simp] theorem writeHome_signs (s : State) (a : Nat) (bs : List Byte) : (s.writeHome a bs).signs = s.signs := rfl
@[simp] theorem writeHome_ops (s : State) (a : Nat) (bs : List Byte) : (s.writeHome a bs).ops = s.ops := rfl
@[simp] theorem writeHome_wgs (s : State) (a : Nat) (bs : List Byte) : (s.writeHome a bs).wgs = s.wgs := rfl
@[simp] theorem writeHome_cores (s : State) (a : Nat) (bs : List Byte) : (s.writeHome a bs).cores = s.cores := rfl
@[simp] theorem writeHome_counters (s : State) (a : Nat) (bs : List Byte) : (s.writeHome a bs).counters = s.counters := rfl
@[simp] theorem writeHome_ctrSerials (s : State) (a : Nat) (bs : List Byte) : (s.writeHome a bs).ctrSerials = s.ctrSerials := rfl
@[simp] theorem writeHome_groups (s : State) (a : Nat) (bs : List Byte) : (s.writeHome a bs).groups = s.groups := rfl
@[simp] theorem writeHome_gens (s : State) (a : Nat) (bs : List Byte) : (s.writeHome a bs).gens = s.gens := rfl
@[simp] theorem writeHome_holds (s : State) (a : Nat) (bs : List Byte) : (s.writeHome a bs).holds = s.holds := rfl
@[simp] theorem writeHome_jobs (s : State) (a : Nat) (bs : List Byte) : (s.writeHome a bs).jobs = s.jobs := rfl
@[simp] theorem writeHome_cuts (s : State) (a : Nat) (bs : List Byte) : (s.writeHome a bs).cuts = s.cuts := rfl
@[simp] theorem writeHome_graphs (s : State) (a : Nat) (bs : List Byte) : (s.writeHome a bs).graphs = s.graphs := rfl
@[simp] theorem writeHome_adms (s : State) (a : Nat) (bs : List Byte) : (s.writeHome a bs).adms = s.adms := rfl
@[simp] theorem writeHome_setup (s : State) (a : Nat) (bs : List Byte) : (s.writeHome a bs).setup = s.setup := rfl
@[simp] theorem writeHome_entries (s : State) (a : Nat) (bs : List Byte) : (s.writeHome a bs).entries = s.entries := rfl
@[simp] theorem writeHome_lists (s : State) (a : Nat) (bs : List Byte) : (s.writeHome a bs).lists = s.lists := rfl
@[simp] theorem writeHome_draining (s : State) (a : Nat) (bs : List Byte) : (s.writeHome a bs).draining = s.draining := rfl
@[simp] theorem writeHome_lastPass (s : State) (a : Nat) (bs : List Byte) : (s.writeHome a bs).lastPass = s.lastPass := rfl
@[simp] theorem writeHome_ctxs (s : State) (a : Nat) (bs : List Byte) : (s.writeHome a bs).ctxs = s.ctxs := rfl
@[simp] theorem writeHome_saved (s : State) (a : Nat) (bs : List Byte) : (s.writeHome a bs).saved = s.saved := rfl
@[simp] theorem writeHome_queues (s : State) (a : Nat) (bs : List Byte) : (s.writeHome a bs).queues = s.queues := rfl
@[simp] theorem writeHome_planes (s : State) (a : Nat) (bs : List Byte) : (s.writeHome a bs).planes = s.planes := rfl
@[simp] theorem writeHome_card (s : State) (a : Nat) (bs : List Byte) : (s.writeHome a bs).card = s.card := rfl
@[simp] theorem writeHome_stackRegs (s : State) (a : Nat) (bs : List Byte) : (s.writeHome a bs).stackRegs = s.stackRegs := rfl
@[simp] theorem writeHome_faults (s : State) (a : Nat) (bs : List Byte) : (s.writeHome a bs).faults = s.faults := rfl
@[simp] theorem writeHome_errCounts (s : State) (a : Nat) (bs : List Byte) : (s.writeHome a bs).errCounts = s.errCounts := rfl
@[simp] theorem writeHome_thermal (s : State) (a : Nat) (bs : List Byte) : (s.writeHome a bs).thermal = s.thermal := rfl
@[simp] theorem writeHome_worlds (s : State) (a : Nat) (bs : List Byte) : (s.writeHome a bs).worlds = s.worlds := rfl
@[simp] theorem writeHome_hostRead (s : State) (a : Nat) (bs : List Byte) : (s.writeHome a bs).hostRead = s.hostRead := rfl
@[simp] theorem writeHome_hostEp (s : State) (a : Nat) (bs : List Byte) : (s.writeHome a bs).hostEp = s.hostEp := rfl
@[simp] theorem writeHome_poll (s : State) (a : Nat) (bs : List Byte) : (s.writeHome a bs).poll = s.poll := rfl
@[simp] theorem writeHome_served (s : State) (a : Nat) (bs : List Byte) : (s.writeHome a bs).served = s.served := rfl

@[simp] theorem writeHost_agenda (s : State) (a : Nat) (bs : List Byte) : (s.writeHost a bs).agenda = s.agenda := rfl
@[simp] theorem writeHost_free (s : State) (a : Nat) (bs : List Byte) : (s.writeHost a bs).free = s.free := rfl
@[simp] theorem writeHost_cur (s : State) (a : Nat) (bs : List Byte) : (s.writeHost a bs).cur = s.cur := rfl
@[simp] theorem writeHost_serial (s : State) (a : Nat) (bs : List Byte) : (s.writeHost a bs).serial = s.serial := rfl
@[simp] theorem writeHost_regs (s : State) (a : Nat) (bs : List Byte) : (s.writeHost a bs).regs = s.regs := rfl
@[simp] theorem writeHost_warps (s : State) (a : Nat) (bs : List Byte) : (s.writeHost a bs).warps = s.warps := rfl
@[simp] theorem writeHost_signs (s : State) (a : Nat) (bs : List Byte) : (s.writeHost a bs).signs = s.signs := rfl
@[simp] theorem writeHost_ops (s : State) (a : Nat) (bs : List Byte) : (s.writeHost a bs).ops = s.ops := rfl
@[simp] theorem writeHost_wgs (s : State) (a : Nat) (bs : List Byte) : (s.writeHost a bs).wgs = s.wgs := rfl
@[simp] theorem writeHost_cores (s : State) (a : Nat) (bs : List Byte) : (s.writeHost a bs).cores = s.cores := rfl
@[simp] theorem writeHost_counters (s : State) (a : Nat) (bs : List Byte) : (s.writeHost a bs).counters = s.counters := rfl
@[simp] theorem writeHost_ctrSerials (s : State) (a : Nat) (bs : List Byte) : (s.writeHost a bs).ctrSerials = s.ctrSerials := rfl
@[simp] theorem writeHost_groups (s : State) (a : Nat) (bs : List Byte) : (s.writeHost a bs).groups = s.groups := rfl
@[simp] theorem writeHost_gens (s : State) (a : Nat) (bs : List Byte) : (s.writeHost a bs).gens = s.gens := rfl
@[simp] theorem writeHost_holds (s : State) (a : Nat) (bs : List Byte) : (s.writeHost a bs).holds = s.holds := rfl
@[simp] theorem writeHost_jobs (s : State) (a : Nat) (bs : List Byte) : (s.writeHost a bs).jobs = s.jobs := rfl
@[simp] theorem writeHost_cuts (s : State) (a : Nat) (bs : List Byte) : (s.writeHost a bs).cuts = s.cuts := rfl
@[simp] theorem writeHost_graphs (s : State) (a : Nat) (bs : List Byte) : (s.writeHost a bs).graphs = s.graphs := rfl
@[simp] theorem writeHost_adms (s : State) (a : Nat) (bs : List Byte) : (s.writeHost a bs).adms = s.adms := rfl
@[simp] theorem writeHost_setup (s : State) (a : Nat) (bs : List Byte) : (s.writeHost a bs).setup = s.setup := rfl
@[simp] theorem writeHost_entries (s : State) (a : Nat) (bs : List Byte) : (s.writeHost a bs).entries = s.entries := rfl
@[simp] theorem writeHost_lists (s : State) (a : Nat) (bs : List Byte) : (s.writeHost a bs).lists = s.lists := rfl
@[simp] theorem writeHost_draining (s : State) (a : Nat) (bs : List Byte) : (s.writeHost a bs).draining = s.draining := rfl
@[simp] theorem writeHost_lastPass (s : State) (a : Nat) (bs : List Byte) : (s.writeHost a bs).lastPass = s.lastPass := rfl
@[simp] theorem writeHost_ctxs (s : State) (a : Nat) (bs : List Byte) : (s.writeHost a bs).ctxs = s.ctxs := rfl
@[simp] theorem writeHost_saved (s : State) (a : Nat) (bs : List Byte) : (s.writeHost a bs).saved = s.saved := rfl
@[simp] theorem writeHost_queues (s : State) (a : Nat) (bs : List Byte) : (s.writeHost a bs).queues = s.queues := rfl
@[simp] theorem writeHost_planes (s : State) (a : Nat) (bs : List Byte) : (s.writeHost a bs).planes = s.planes := rfl
@[simp] theorem writeHost_card (s : State) (a : Nat) (bs : List Byte) : (s.writeHost a bs).card = s.card := rfl
@[simp] theorem writeHost_stackRegs (s : State) (a : Nat) (bs : List Byte) : (s.writeHost a bs).stackRegs = s.stackRegs := rfl
@[simp] theorem writeHost_faults (s : State) (a : Nat) (bs : List Byte) : (s.writeHost a bs).faults = s.faults := rfl
@[simp] theorem writeHost_errCounts (s : State) (a : Nat) (bs : List Byte) : (s.writeHost a bs).errCounts = s.errCounts := rfl
@[simp] theorem writeHost_thermal (s : State) (a : Nat) (bs : List Byte) : (s.writeHost a bs).thermal = s.thermal := rfl
@[simp] theorem writeHost_worlds (s : State) (a : Nat) (bs : List Byte) : (s.writeHost a bs).worlds = s.worlds := rfl
@[simp] theorem writeHost_hostRead (s : State) (a : Nat) (bs : List Byte) : (s.writeHost a bs).hostRead = s.hostRead := rfl
@[simp] theorem writeHost_hostEp (s : State) (a : Nat) (bs : List Byte) : (s.writeHost a bs).hostEp = s.hostEp := rfl
@[simp] theorem writeHost_poll (s : State) (a : Nat) (bs : List Byte) : (s.writeHost a bs).poll = s.poll := rfl
@[simp] theorem writeHost_served (s : State) (a : Nat) (bs : List Byte) : (s.writeHost a bs).served = s.served := rfl

@[simp] theorem setWarp_warp (s : State) (w : Nat) (x : Warp) : (s.setWarp w x).warp w = x := by
  simp [State.setWarp, State.warp]

theorem setWarp_warp_of_ne (s : State) {w v : Nat} (x : Warp) (h : v ≠ w) : (s.setWarp w x).warp v = s.warp v := by
  simp [State.setWarp, State.warp, nmapFind_set, h]

@[simp] theorem getHv_setV (r : RegFile) (w l n : Nat) (x : Word) (w' l' n' : Nat) : (r.setV w l n x).getHv w' l' n' = r.getHv w' l' n' := rfl
@[simp] theorem getS_setV (r : RegFile) (w l n : Nat) (x : Word) (w' n' : Nat) : (r.setV w l n x).getS w' n' = r.getS w' n' := rfl
@[simp] theorem getHs_setV (r : RegFile) (w l n : Nat) (x : Word) (w' n' : Nat) : (r.setV w l n x).getHs w' n' = r.getHs w' n' := rfl
@[simp] theorem getPs_setV (r : RegFile) (w l n : Nat) (x : Word) (w' l' : Nat) : (r.setV w l n x).getPs w' l' = r.getPs w' l' := rfl
@[simp] theorem getBt_setV (r : RegFile) (w l n : Nat) (x : Word) (w' l' n' : Nat) : (r.setV w l n x).getBt w' l' n' = r.getBt w' l' n' := rfl
@[simp] theorem getLc_setV (r : RegFile) (w l n : Nat) (x : Word) (w' l' n' : Nat) : (r.setV w l n x).getLc w' l' n' = r.getLc w' l' n' := rfl
@[simp] theorem getLk_setV (r : RegFile) (w l n : Nat) (x : Word) (w' l' : Nat) : (r.setV w l n x).getLk w' l' = r.getLk w' l' := rfl
@[simp] theorem getPc_setV (r : RegFile) (w l n : Nat) (x : Word) (w' l' : Nat) : (r.setV w l n x).getPc w' l' = r.getPc w' l' := rfl
@[simp] theorem getCv_setV (r : RegFile) (w l n : Nat) (x : Word) (w' n' : Nat) : (r.setV w l n x).getCv w' n' = r.getCv w' n' := rfl
@[simp] theorem getRng_setV (r : RegFile) (w l n : Nat) (x : Word) (w' l' : Nat) : (r.setV w l n x).getRng w' l' = r.getRng w' l' := rfl
theorem getV_setV (r : RegFile) (w l n : Nat) (x : Word) (w' l' n' : Nat) :
    (r.setV w l n x).getV w' l' n' = if laneKey w' l' * 256 + n' = laneKey w l * 256 + n then x else r.getV w' l' n' := by
  simp [RegFile.setV, RegFile.getV, dmapGet_set]

@[simp] theorem getV_setHv (r : RegFile) (w l n : Nat) (x : Word) (w' l' n' : Nat) : (r.setHv w l n x).getV w' l' n' = r.getV w' l' n' := rfl
@[simp] theorem getS_setHv (r : RegFile) (w l n : Nat) (x : Word) (w' n' : Nat) : (r.setHv w l n x).getS w' n' = r.getS w' n' := rfl
@[simp] theorem getHs_setHv (r : RegFile) (w l n : Nat) (x : Word) (w' n' : Nat) : (r.setHv w l n x).getHs w' n' = r.getHs w' n' := rfl
@[simp] theorem getPs_setHv (r : RegFile) (w l n : Nat) (x : Word) (w' l' : Nat) : (r.setHv w l n x).getPs w' l' = r.getPs w' l' := rfl
@[simp] theorem getBt_setHv (r : RegFile) (w l n : Nat) (x : Word) (w' l' n' : Nat) : (r.setHv w l n x).getBt w' l' n' = r.getBt w' l' n' := rfl
@[simp] theorem getLc_setHv (r : RegFile) (w l n : Nat) (x : Word) (w' l' n' : Nat) : (r.setHv w l n x).getLc w' l' n' = r.getLc w' l' n' := rfl
@[simp] theorem getLk_setHv (r : RegFile) (w l n : Nat) (x : Word) (w' l' : Nat) : (r.setHv w l n x).getLk w' l' = r.getLk w' l' := rfl
@[simp] theorem getPc_setHv (r : RegFile) (w l n : Nat) (x : Word) (w' l' : Nat) : (r.setHv w l n x).getPc w' l' = r.getPc w' l' := rfl
@[simp] theorem getCv_setHv (r : RegFile) (w l n : Nat) (x : Word) (w' n' : Nat) : (r.setHv w l n x).getCv w' n' = r.getCv w' n' := rfl
@[simp] theorem getRng_setHv (r : RegFile) (w l n : Nat) (x : Word) (w' l' : Nat) : (r.setHv w l n x).getRng w' l' = r.getRng w' l' := rfl
theorem getHv_setHv (r : RegFile) (w l n : Nat) (x : Word) (w' l' n' : Nat) :
    (r.setHv w l n x).getHv w' l' n' = if laneKey w' l' * 32 + n' = laneKey w l * 32 + n then x else r.getHv w' l' n' := by
  simp [RegFile.setHv, RegFile.getHv, dmapGet_set]

@[simp] theorem getV_setS (r : RegFile) (w n : Nat) (x : Word) (w' l' n' : Nat) : (r.setS w n x).getV w' l' n' = r.getV w' l' n' := rfl
@[simp] theorem getHv_setS (r : RegFile) (w n : Nat) (x : Word) (w' l' n' : Nat) : (r.setS w n x).getHv w' l' n' = r.getHv w' l' n' := rfl
@[simp] theorem getHs_setS (r : RegFile) (w n : Nat) (x : Word) (w' n' : Nat) : (r.setS w n x).getHs w' n' = r.getHs w' n' := rfl
@[simp] theorem getPs_setS (r : RegFile) (w n : Nat) (x : Word) (w' l' : Nat) : (r.setS w n x).getPs w' l' = r.getPs w' l' := rfl
@[simp] theorem getBt_setS (r : RegFile) (w n : Nat) (x : Word) (w' l' n' : Nat) : (r.setS w n x).getBt w' l' n' = r.getBt w' l' n' := rfl
@[simp] theorem getLc_setS (r : RegFile) (w n : Nat) (x : Word) (w' l' n' : Nat) : (r.setS w n x).getLc w' l' n' = r.getLc w' l' n' := rfl
@[simp] theorem getLk_setS (r : RegFile) (w n : Nat) (x : Word) (w' l' : Nat) : (r.setS w n x).getLk w' l' = r.getLk w' l' := rfl
@[simp] theorem getPc_setS (r : RegFile) (w n : Nat) (x : Word) (w' l' : Nat) : (r.setS w n x).getPc w' l' = r.getPc w' l' := rfl
@[simp] theorem getCv_setS (r : RegFile) (w n : Nat) (x : Word) (w' n' : Nat) : (r.setS w n x).getCv w' n' = r.getCv w' n' := rfl
@[simp] theorem getRng_setS (r : RegFile) (w n : Nat) (x : Word) (w' l' : Nat) : (r.setS w n x).getRng w' l' = r.getRng w' l' := rfl
theorem getS_setS (r : RegFile) (w n : Nat) (x : Word) (w' n' : Nat) :
    (r.setS w n x).getS w' n' = if w' * 1024 + n' = w * 1024 + n then x else r.getS w' n' := by
  simp [RegFile.setS, RegFile.getS, dmapGet_set]

@[simp] theorem getV_setHs (r : RegFile) (w n : Nat) (x : Word) (w' l' n' : Nat) : (r.setHs w n x).getV w' l' n' = r.getV w' l' n' := rfl
@[simp] theorem getHv_setHs (r : RegFile) (w n : Nat) (x : Word) (w' l' n' : Nat) : (r.setHs w n x).getHv w' l' n' = r.getHv w' l' n' := rfl
@[simp] theorem getS_setHs (r : RegFile) (w n : Nat) (x : Word) (w' n' : Nat) : (r.setHs w n x).getS w' n' = r.getS w' n' := rfl
@[simp] theorem getPs_setHs (r : RegFile) (w n : Nat) (x : Word) (w' l' : Nat) : (r.setHs w n x).getPs w' l' = r.getPs w' l' := rfl
@[simp] theorem getBt_setHs (r : RegFile) (w n : Nat) (x : Word) (w' l' n' : Nat) : (r.setHs w n x).getBt w' l' n' = r.getBt w' l' n' := rfl
@[simp] theorem getLc_setHs (r : RegFile) (w n : Nat) (x : Word) (w' l' n' : Nat) : (r.setHs w n x).getLc w' l' n' = r.getLc w' l' n' := rfl
@[simp] theorem getLk_setHs (r : RegFile) (w n : Nat) (x : Word) (w' l' : Nat) : (r.setHs w n x).getLk w' l' = r.getLk w' l' := rfl
@[simp] theorem getPc_setHs (r : RegFile) (w n : Nat) (x : Word) (w' l' : Nat) : (r.setHs w n x).getPc w' l' = r.getPc w' l' := rfl
@[simp] theorem getCv_setHs (r : RegFile) (w n : Nat) (x : Word) (w' n' : Nat) : (r.setHs w n x).getCv w' n' = r.getCv w' n' := rfl
@[simp] theorem getRng_setHs (r : RegFile) (w n : Nat) (x : Word) (w' l' : Nat) : (r.setHs w n x).getRng w' l' = r.getRng w' l' := rfl
theorem getHs_setHs (r : RegFile) (w n : Nat) (x : Word) (w' n' : Nat) :
    (r.setHs w n x).getHs w' n' = if w' * 64 + n' = w * 64 + n then x else r.getHs w' n' := by
  simp [RegFile.setHs, RegFile.getHs, dmapGet_set]

@[simp] theorem getV_setPs (r : RegFile) (w l : Nat) (x : BitVec 16) (w' l' n' : Nat) : (r.setPs w l x).getV w' l' n' = r.getV w' l' n' := rfl
@[simp] theorem getHv_setPs (r : RegFile) (w l : Nat) (x : BitVec 16) (w' l' n' : Nat) : (r.setPs w l x).getHv w' l' n' = r.getHv w' l' n' := rfl
@[simp] theorem getS_setPs (r : RegFile) (w l : Nat) (x : BitVec 16) (w' n' : Nat) : (r.setPs w l x).getS w' n' = r.getS w' n' := rfl
@[simp] theorem getHs_setPs (r : RegFile) (w l : Nat) (x : BitVec 16) (w' n' : Nat) : (r.setPs w l x).getHs w' n' = r.getHs w' n' := rfl
@[simp] theorem getBt_setPs (r : RegFile) (w l : Nat) (x : BitVec 16) (w' l' n' : Nat) : (r.setPs w l x).getBt w' l' n' = r.getBt w' l' n' := rfl
@[simp] theorem getLc_setPs (r : RegFile) (w l : Nat) (x : BitVec 16) (w' l' n' : Nat) : (r.setPs w l x).getLc w' l' n' = r.getLc w' l' n' := rfl
@[simp] theorem getLk_setPs (r : RegFile) (w l : Nat) (x : BitVec 16) (w' l' : Nat) : (r.setPs w l x).getLk w' l' = r.getLk w' l' := rfl
@[simp] theorem getPc_setPs (r : RegFile) (w l : Nat) (x : BitVec 16) (w' l' : Nat) : (r.setPs w l x).getPc w' l' = r.getPc w' l' := rfl
@[simp] theorem getCv_setPs (r : RegFile) (w l : Nat) (x : BitVec 16) (w' n' : Nat) : (r.setPs w l x).getCv w' n' = r.getCv w' n' := rfl
@[simp] theorem getRng_setPs (r : RegFile) (w l : Nat) (x : BitVec 16) (w' l' : Nat) : (r.setPs w l x).getRng w' l' = r.getRng w' l' := rfl
theorem getPs_setPs (r : RegFile) (w l : Nat) (x : BitVec 16) (w' l' : Nat) :
    (r.setPs w l x).getPs w' l' = if laneKey w' l' = laneKey w l then x else r.getPs w' l' := by
  simp [RegFile.setPs, RegFile.getPs, dmapGet_set]

@[simp] theorem getV_setBt (r : RegFile) (w l n : Nat) (x : Word) (w' l' n' : Nat) : (r.setBt w l n x).getV w' l' n' = r.getV w' l' n' := rfl
@[simp] theorem getHv_setBt (r : RegFile) (w l n : Nat) (x : Word) (w' l' n' : Nat) : (r.setBt w l n x).getHv w' l' n' = r.getHv w' l' n' := rfl
@[simp] theorem getS_setBt (r : RegFile) (w l n : Nat) (x : Word) (w' n' : Nat) : (r.setBt w l n x).getS w' n' = r.getS w' n' := rfl
@[simp] theorem getHs_setBt (r : RegFile) (w l n : Nat) (x : Word) (w' n' : Nat) : (r.setBt w l n x).getHs w' n' = r.getHs w' n' := rfl
@[simp] theorem getPs_setBt (r : RegFile) (w l n : Nat) (x : Word) (w' l' : Nat) : (r.setBt w l n x).getPs w' l' = r.getPs w' l' := rfl
@[simp] theorem getLc_setBt (r : RegFile) (w l n : Nat) (x : Word) (w' l' n' : Nat) : (r.setBt w l n x).getLc w' l' n' = r.getLc w' l' n' := rfl
@[simp] theorem getLk_setBt (r : RegFile) (w l n : Nat) (x : Word) (w' l' : Nat) : (r.setBt w l n x).getLk w' l' = r.getLk w' l' := rfl
@[simp] theorem getPc_setBt (r : RegFile) (w l n : Nat) (x : Word) (w' l' : Nat) : (r.setBt w l n x).getPc w' l' = r.getPc w' l' := rfl
@[simp] theorem getCv_setBt (r : RegFile) (w l n : Nat) (x : Word) (w' n' : Nat) : (r.setBt w l n x).getCv w' n' = r.getCv w' n' := rfl
@[simp] theorem getRng_setBt (r : RegFile) (w l n : Nat) (x : Word) (w' l' : Nat) : (r.setBt w l n x).getRng w' l' = r.getRng w' l' := rfl
theorem getBt_setBt (r : RegFile) (w l n : Nat) (x : Word) (w' l' n' : Nat) :
    (r.setBt w l n x).getBt w' l' n' = if laneKey w' l' * 8 + n' = laneKey w l * 8 + n then x else r.getBt w' l' n' := by
  simp [RegFile.setBt, RegFile.getBt, dmapGet_set]

@[simp] theorem getV_setLc (r : RegFile) (w l n : Nat) (x : Word) (w' l' n' : Nat) : (r.setLc w l n x).getV w' l' n' = r.getV w' l' n' := rfl
@[simp] theorem getHv_setLc (r : RegFile) (w l n : Nat) (x : Word) (w' l' n' : Nat) : (r.setLc w l n x).getHv w' l' n' = r.getHv w' l' n' := rfl
@[simp] theorem getS_setLc (r : RegFile) (w l n : Nat) (x : Word) (w' n' : Nat) : (r.setLc w l n x).getS w' n' = r.getS w' n' := rfl
@[simp] theorem getHs_setLc (r : RegFile) (w l n : Nat) (x : Word) (w' n' : Nat) : (r.setLc w l n x).getHs w' n' = r.getHs w' n' := rfl
@[simp] theorem getPs_setLc (r : RegFile) (w l n : Nat) (x : Word) (w' l' : Nat) : (r.setLc w l n x).getPs w' l' = r.getPs w' l' := rfl
@[simp] theorem getBt_setLc (r : RegFile) (w l n : Nat) (x : Word) (w' l' n' : Nat) : (r.setLc w l n x).getBt w' l' n' = r.getBt w' l' n' := rfl
@[simp] theorem getLk_setLc (r : RegFile) (w l n : Nat) (x : Word) (w' l' : Nat) : (r.setLc w l n x).getLk w' l' = r.getLk w' l' := rfl
@[simp] theorem getPc_setLc (r : RegFile) (w l n : Nat) (x : Word) (w' l' : Nat) : (r.setLc w l n x).getPc w' l' = r.getPc w' l' := rfl
@[simp] theorem getCv_setLc (r : RegFile) (w l n : Nat) (x : Word) (w' n' : Nat) : (r.setLc w l n x).getCv w' n' = r.getCv w' n' := rfl
@[simp] theorem getRng_setLc (r : RegFile) (w l n : Nat) (x : Word) (w' l' : Nat) : (r.setLc w l n x).getRng w' l' = r.getRng w' l' := rfl
theorem getLc_setLc (r : RegFile) (w l n : Nat) (x : Word) (w' l' n' : Nat) :
    (r.setLc w l n x).getLc w' l' n' = if laneKey w' l' * 4 + n' = laneKey w l * 4 + n then x else r.getLc w' l' n' := by
  simp [RegFile.setLc, RegFile.getLc, dmapGet_set]

@[simp] theorem getV_setLk (r : RegFile) (w l : Nat) (x : Word) (w' l' n' : Nat) : (r.setLk w l x).getV w' l' n' = r.getV w' l' n' := rfl
@[simp] theorem getHv_setLk (r : RegFile) (w l : Nat) (x : Word) (w' l' n' : Nat) : (r.setLk w l x).getHv w' l' n' = r.getHv w' l' n' := rfl
@[simp] theorem getS_setLk (r : RegFile) (w l : Nat) (x : Word) (w' n' : Nat) : (r.setLk w l x).getS w' n' = r.getS w' n' := rfl
@[simp] theorem getHs_setLk (r : RegFile) (w l : Nat) (x : Word) (w' n' : Nat) : (r.setLk w l x).getHs w' n' = r.getHs w' n' := rfl
@[simp] theorem getPs_setLk (r : RegFile) (w l : Nat) (x : Word) (w' l' : Nat) : (r.setLk w l x).getPs w' l' = r.getPs w' l' := rfl
@[simp] theorem getBt_setLk (r : RegFile) (w l : Nat) (x : Word) (w' l' n' : Nat) : (r.setLk w l x).getBt w' l' n' = r.getBt w' l' n' := rfl
@[simp] theorem getLc_setLk (r : RegFile) (w l : Nat) (x : Word) (w' l' n' : Nat) : (r.setLk w l x).getLc w' l' n' = r.getLc w' l' n' := rfl
@[simp] theorem getPc_setLk (r : RegFile) (w l : Nat) (x : Word) (w' l' : Nat) : (r.setLk w l x).getPc w' l' = r.getPc w' l' := rfl
@[simp] theorem getCv_setLk (r : RegFile) (w l : Nat) (x : Word) (w' n' : Nat) : (r.setLk w l x).getCv w' n' = r.getCv w' n' := rfl
@[simp] theorem getRng_setLk (r : RegFile) (w l : Nat) (x : Word) (w' l' : Nat) : (r.setLk w l x).getRng w' l' = r.getRng w' l' := rfl
theorem getLk_setLk (r : RegFile) (w l : Nat) (x : Word) (w' l' : Nat) :
    (r.setLk w l x).getLk w' l' = if laneKey w' l' = laneKey w l then x else r.getLk w' l' := by
  simp [RegFile.setLk, RegFile.getLk, dmapGet_set]

@[simp] theorem getV_setPc (r : RegFile) (w l : Nat) (x : Word) (w' l' n' : Nat) : (r.setPc w l x).getV w' l' n' = r.getV w' l' n' := rfl
@[simp] theorem getHv_setPc (r : RegFile) (w l : Nat) (x : Word) (w' l' n' : Nat) : (r.setPc w l x).getHv w' l' n' = r.getHv w' l' n' := rfl
@[simp] theorem getS_setPc (r : RegFile) (w l : Nat) (x : Word) (w' n' : Nat) : (r.setPc w l x).getS w' n' = r.getS w' n' := rfl
@[simp] theorem getHs_setPc (r : RegFile) (w l : Nat) (x : Word) (w' n' : Nat) : (r.setPc w l x).getHs w' n' = r.getHs w' n' := rfl
@[simp] theorem getPs_setPc (r : RegFile) (w l : Nat) (x : Word) (w' l' : Nat) : (r.setPc w l x).getPs w' l' = r.getPs w' l' := rfl
@[simp] theorem getBt_setPc (r : RegFile) (w l : Nat) (x : Word) (w' l' n' : Nat) : (r.setPc w l x).getBt w' l' n' = r.getBt w' l' n' := rfl
@[simp] theorem getLc_setPc (r : RegFile) (w l : Nat) (x : Word) (w' l' n' : Nat) : (r.setPc w l x).getLc w' l' n' = r.getLc w' l' n' := rfl
@[simp] theorem getLk_setPc (r : RegFile) (w l : Nat) (x : Word) (w' l' : Nat) : (r.setPc w l x).getLk w' l' = r.getLk w' l' := rfl
@[simp] theorem getCv_setPc (r : RegFile) (w l : Nat) (x : Word) (w' n' : Nat) : (r.setPc w l x).getCv w' n' = r.getCv w' n' := rfl
@[simp] theorem getRng_setPc (r : RegFile) (w l : Nat) (x : Word) (w' l' : Nat) : (r.setPc w l x).getRng w' l' = r.getRng w' l' := rfl
theorem getPc_setPc (r : RegFile) (w l : Nat) (x : Word) (w' l' : Nat) :
    (r.setPc w l x).getPc w' l' = if laneKey w' l' = laneKey w l then x else r.getPc w' l' := by
  simp [RegFile.setPc, RegFile.getPc, dmapGet_set]

@[simp] theorem getV_setCv (r : RegFile) (w n : Nat) (x : Word) (w' l' n' : Nat) : (r.setCv w n x).getV w' l' n' = r.getV w' l' n' := rfl
@[simp] theorem getHv_setCv (r : RegFile) (w n : Nat) (x : Word) (w' l' n' : Nat) : (r.setCv w n x).getHv w' l' n' = r.getHv w' l' n' := rfl
@[simp] theorem getS_setCv (r : RegFile) (w n : Nat) (x : Word) (w' n' : Nat) : (r.setCv w n x).getS w' n' = r.getS w' n' := rfl
@[simp] theorem getHs_setCv (r : RegFile) (w n : Nat) (x : Word) (w' n' : Nat) : (r.setCv w n x).getHs w' n' = r.getHs w' n' := rfl
@[simp] theorem getPs_setCv (r : RegFile) (w n : Nat) (x : Word) (w' l' : Nat) : (r.setCv w n x).getPs w' l' = r.getPs w' l' := rfl
@[simp] theorem getBt_setCv (r : RegFile) (w n : Nat) (x : Word) (w' l' n' : Nat) : (r.setCv w n x).getBt w' l' n' = r.getBt w' l' n' := rfl
@[simp] theorem getLc_setCv (r : RegFile) (w n : Nat) (x : Word) (w' l' n' : Nat) : (r.setCv w n x).getLc w' l' n' = r.getLc w' l' n' := rfl
@[simp] theorem getLk_setCv (r : RegFile) (w n : Nat) (x : Word) (w' l' : Nat) : (r.setCv w n x).getLk w' l' = r.getLk w' l' := rfl
@[simp] theorem getPc_setCv (r : RegFile) (w n : Nat) (x : Word) (w' l' : Nat) : (r.setCv w n x).getPc w' l' = r.getPc w' l' := rfl
@[simp] theorem getRng_setCv (r : RegFile) (w n : Nat) (x : Word) (w' l' : Nat) : (r.setCv w n x).getRng w' l' = r.getRng w' l' := rfl
theorem getCv_setCv (r : RegFile) (w n : Nat) (x : Word) (w' n' : Nat) :
    (r.setCv w n x).getCv w' n' = if w' * 8 + n' = w * 8 + n then x else r.getCv w' n' := by
  simp [RegFile.setCv, RegFile.getCv, dmapGet_set]

@[simp] theorem getV_setRng (r : RegFile) (w l : Nat) (x : Word) (w' l' n' : Nat) : (r.setRng w l x).getV w' l' n' = r.getV w' l' n' := rfl
@[simp] theorem getHv_setRng (r : RegFile) (w l : Nat) (x : Word) (w' l' n' : Nat) : (r.setRng w l x).getHv w' l' n' = r.getHv w' l' n' := rfl
@[simp] theorem getS_setRng (r : RegFile) (w l : Nat) (x : Word) (w' n' : Nat) : (r.setRng w l x).getS w' n' = r.getS w' n' := rfl
@[simp] theorem getHs_setRng (r : RegFile) (w l : Nat) (x : Word) (w' n' : Nat) : (r.setRng w l x).getHs w' n' = r.getHs w' n' := rfl
@[simp] theorem getPs_setRng (r : RegFile) (w l : Nat) (x : Word) (w' l' : Nat) : (r.setRng w l x).getPs w' l' = r.getPs w' l' := rfl
@[simp] theorem getBt_setRng (r : RegFile) (w l : Nat) (x : Word) (w' l' n' : Nat) : (r.setRng w l x).getBt w' l' n' = r.getBt w' l' n' := rfl
@[simp] theorem getLc_setRng (r : RegFile) (w l : Nat) (x : Word) (w' l' n' : Nat) : (r.setRng w l x).getLc w' l' n' = r.getLc w' l' n' := rfl
@[simp] theorem getLk_setRng (r : RegFile) (w l : Nat) (x : Word) (w' l' : Nat) : (r.setRng w l x).getLk w' l' = r.getLk w' l' := rfl
@[simp] theorem getPc_setRng (r : RegFile) (w l : Nat) (x : Word) (w' l' : Nat) : (r.setRng w l x).getPc w' l' = r.getPc w' l' := rfl
@[simp] theorem getCv_setRng (r : RegFile) (w l : Nat) (x : Word) (w' n' : Nat) : (r.setRng w l x).getCv w' n' = r.getCv w' n' := rfl
theorem getRng_setRng (r : RegFile) (w l : Nat) (x : Word) (w' l' : Nat) :
    (r.setRng w l x).getRng w' l' = if laneKey w' l' = laneKey w l then (if x = 0 then 1 else x) else r.getRng w' l' := by
  simp [RegFile.setRng, RegFile.getRng, dmapGet_set]

end Sys2Proof.Laws
end

