-- ==== Sys2Proof/Laws/Advance.lean ====
section
/-! SUPPORT. What register writes, flags and the lanes' moving on leave alone (R37, R57, R60): one lemma for each field. -/

namespace Sys2Proof.Machine

/-- A part of the state that no register write of a list of instructions' results changes. -/
theorem applyWrites_inv {α : Type} (F : State → α) (h : ∀ s w x, F (State.applyWrite s w x) = F s) (s : State) (w : Nat) (xs : List RegWrite) :
    F (s.applyWrites w xs) = F s := by
  induction xs generalizing s with
  | nil => rfl
  | cons x t ih => exact (ih _).trans (h s w x)

@[simp] theorem putReg_agenda (s : State) (w : Nat) (x : RegWrite) : (s.putReg w x).agenda = s.agenda := by cases x <;> rfl
@[simp] theorem unpoison_agenda (s : State) (w : Nat) (x : RegWrite) : (s.unpoison w x).agenda = s.agenda := by cases x <;> rfl
@[simp] theorem applyWrite_agenda (s : State) (w : Nat) (x : RegWrite) : (s.applyWrite w x).agenda = s.agenda := by simp [State.applyWrite]
@[simp] theorem applyWrites_agenda (s : State) (w : Nat) (xs : List RegWrite) : (s.applyWrites w xs).agenda = s.agenda :=
  applyWrites_inv (fun s => s.agenda) applyWrite_agenda s w xs
@[simp] theorem orFlags_agenda (s : State) (w : Nat) (z : FpFlags) : (s.orFlags w z).agenda = s.agenda := by
  unfold State.orFlags; split <;> rfl
@[simp] theorem advance_agenda (s p : State) (h : Hdr) (w : Nat) (pc : Word) (m o : Mask) : (s.advance p h w pc m o).agenda = s.agenda := by
  unfold State.advance; split <;> simp

@[simp] theorem putReg_free (s : State) (w : Nat) (x : RegWrite) : (s.putReg w x).free = s.free := by cases x <;> rfl
@[simp] theorem unpoison_free (s : State) (w : Nat) (x : RegWrite) : (s.unpoison w x).free = s.free := by cases x <;> rfl
@[simp] theorem applyWrite_free (s : State) (w : Nat) (x : RegWrite) : (s.applyWrite w x).free = s.free := by simp [State.applyWrite]
@[simp] theorem applyWrites_free (s : State) (w : Nat) (xs : List RegWrite) : (s.applyWrites w xs).free = s.free :=
  applyWrites_inv (fun s => s.free) applyWrite_free s w xs
@[simp] theorem orFlags_free (s : State) (w : Nat) (z : FpFlags) : (s.orFlags w z).free = s.free := by
  unfold State.orFlags; split <;> rfl
@[simp] theorem advance_free (s p : State) (h : Hdr) (w : Nat) (pc : Word) (m o : Mask) : (s.advance p h w pc m o).free = s.free := by
  unfold State.advance; split <;> simp

@[simp] theorem putReg_cur (s : State) (w : Nat) (x : RegWrite) : (s.putReg w x).cur = s.cur := by cases x <;> rfl
@[simp] theorem unpoison_cur (s : State) (w : Nat) (x : RegWrite) : (s.unpoison w x).cur = s.cur := by cases x <;> rfl
@[simp] theorem applyWrite_cur (s : State) (w : Nat) (x : RegWrite) : (s.applyWrite w x).cur = s.cur := by simp [State.applyWrite]
@[simp] theorem applyWrites_cur (s : State) (w : Nat) (xs : List RegWrite) : (s.applyWrites w xs).cur = s.cur :=
  applyWrites_inv (fun s => s.cur) applyWrite_cur s w xs
@[simp] theorem orFlags_cur (s : State) (w : Nat) (z : FpFlags) : (s.orFlags w z).cur = s.cur := by
  unfold State.orFlags; split <;> rfl
@[simp] theorem advance_cur (s p : State) (h : Hdr) (w : Nat) (pc : Word) (m o : Mask) : (s.advance p h w pc m o).cur = s.cur := by
  unfold State.advance; split <;> simp

@[simp] theorem putReg_serial (s : State) (w : Nat) (x : RegWrite) : (s.putReg w x).serial = s.serial := by cases x <;> rfl
@[simp] theorem unpoison_serial (s : State) (w : Nat) (x : RegWrite) : (s.unpoison w x).serial = s.serial := by cases x <;> rfl
@[simp] theorem applyWrite_serial (s : State) (w : Nat) (x : RegWrite) : (s.applyWrite w x).serial = s.serial := by simp [State.applyWrite]
@[simp] theorem applyWrites_serial (s : State) (w : Nat) (xs : List RegWrite) : (s.applyWrites w xs).serial = s.serial :=
  applyWrites_inv (fun s => s.serial) applyWrite_serial s w xs
@[simp] theorem orFlags_serial (s : State) (w : Nat) (z : FpFlags) : (s.orFlags w z).serial = s.serial := by
  unfold State.orFlags; split <;> rfl
@[simp] theorem advance_serial (s p : State) (h : Hdr) (w : Nat) (pc : Word) (m o : Mask) : (s.advance p h w pc m o).serial = s.serial := by
  unfold State.advance; split <;> simp

@[simp] theorem putReg_signs (s : State) (w : Nat) (x : RegWrite) : (s.putReg w x).signs = s.signs := by cases x <;> rfl
@[simp] theorem unpoison_signs (s : State) (w : Nat) (x : RegWrite) : (s.unpoison w x).signs = s.signs := by cases x <;> rfl
@[simp] theorem applyWrite_signs (s : State) (w : Nat) (x : RegWrite) : (s.applyWrite w x).signs = s.signs := by simp [State.applyWrite]
@[simp] theorem applyWrites_signs (s : State) (w : Nat) (xs : List RegWrite) : (s.applyWrites w xs).signs = s.signs :=
  applyWrites_inv (fun s => s.signs) applyWrite_signs s w xs
@[simp] theorem orFlags_signs (s : State) (w : Nat) (z : FpFlags) : (s.orFlags w z).signs = s.signs := by
  unfold State.orFlags; split <;> rfl
@[simp] theorem advance_signs (s p : State) (h : Hdr) (w : Nat) (pc : Word) (m o : Mask) : (s.advance p h w pc m o).signs = s.signs := by
  unfold State.advance; split <;> simp

@[simp] theorem putReg_wgs (s : State) (w : Nat) (x : RegWrite) : (s.putReg w x).wgs = s.wgs := by cases x <;> rfl
@[simp] theorem unpoison_wgs (s : State) (w : Nat) (x : RegWrite) : (s.unpoison w x).wgs = s.wgs := by cases x <;> rfl
@[simp] theorem applyWrite_wgs (s : State) (w : Nat) (x : RegWrite) : (s.applyWrite w x).wgs = s.wgs := by simp [State.applyWrite]
@[simp] theorem applyWrites_wgs (s : State) (w : Nat) (xs : List RegWrite) : (s.applyWrites w xs).wgs = s.wgs :=
  applyWrites_inv (fun s => s.wgs) applyWrite_wgs s w xs
@[simp] theorem orFlags_wgs (s : State) (w : Nat) (z : FpFlags) : (s.orFlags w z).wgs = s.wgs := by
  unfold State.orFlags; split <;> rfl
@[simp] theorem advance_wgs (s p : State) (h : Hdr) (w : Nat) (pc : Word) (m o : Mask) : (s.advance p h w pc m o).wgs = s.wgs := by
  unfold State.advance; split <;> simp

@[simp] theorem putReg_counters (s : State) (w : Nat) (x : RegWrite) : (s.putReg w x).counters = s.counters := by cases x <;> rfl
@[simp] theorem unpoison_counters (s : State) (w : Nat) (x : RegWrite) : (s.unpoison w x).counters = s.counters := by cases x <;> rfl
@[simp] theorem applyWrite_counters (s : State) (w : Nat) (x : RegWrite) : (s.applyWrite w x).counters = s.counters := by simp [State.applyWrite]
@[simp] theorem applyWrites_counters (s : State) (w : Nat) (xs : List RegWrite) : (s.applyWrites w xs).counters = s.counters :=
  applyWrites_inv (fun s => s.counters) applyWrite_counters s w xs
@[simp] theorem orFlags_counters (s : State) (w : Nat) (z : FpFlags) : (s.orFlags w z).counters = s.counters := by
  unfold State.orFlags; split <;> rfl
@[simp] theorem advance_counters (s p : State) (h : Hdr) (w : Nat) (pc : Word) (m o : Mask) : (s.advance p h w pc m o).counters = s.counters := by
  unfold State.advance; split <;> simp

@[simp] theorem putReg_ctrSerials (s : State) (w : Nat) (x : RegWrite) : (s.putReg w x).ctrSerials = s.ctrSerials := by cases x <;> rfl
@[simp] theorem unpoison_ctrSerials (s : State) (w : Nat) (x : RegWrite) : (s.unpoison w x).ctrSerials = s.ctrSerials := by cases x <;> rfl
@[simp] theorem applyWrite_ctrSerials (s : State) (w : Nat) (x : RegWrite) : (s.applyWrite w x).ctrSerials = s.ctrSerials := by simp [State.applyWrite]
@[simp] theorem applyWrites_ctrSerials (s : State) (w : Nat) (xs : List RegWrite) : (s.applyWrites w xs).ctrSerials = s.ctrSerials :=
  applyWrites_inv (fun s => s.ctrSerials) applyWrite_ctrSerials s w xs
@[simp] theorem orFlags_ctrSerials (s : State) (w : Nat) (z : FpFlags) : (s.orFlags w z).ctrSerials = s.ctrSerials := by
  unfold State.orFlags; split <;> rfl
@[simp] theorem advance_ctrSerials (s p : State) (h : Hdr) (w : Nat) (pc : Word) (m o : Mask) : (s.advance p h w pc m o).ctrSerials = s.ctrSerials := by
  unfold State.advance; split <;> simp

@[simp] theorem putReg_groups (s : State) (w : Nat) (x : RegWrite) : (s.putReg w x).groups = s.groups := by cases x <;> rfl
@[simp] theorem unpoison_groups (s : State) (w : Nat) (x : RegWrite) : (s.unpoison w x).groups = s.groups := by cases x <;> rfl
@[simp] theorem applyWrite_groups (s : State) (w : Nat) (x : RegWrite) : (s.applyWrite w x).groups = s.groups := by simp [State.applyWrite]
@[simp] theorem applyWrites_groups (s : State) (w : Nat) (xs : List RegWrite) : (s.applyWrites w xs).groups = s.groups :=
  applyWrites_inv (fun s => s.groups) applyWrite_groups s w xs
@[simp] theorem orFlags_groups (s : State) (w : Nat) (z : FpFlags) : (s.orFlags w z).groups = s.groups := by
  unfold State.orFlags; split <;> rfl
@[simp] theorem advance_groups (s p : State) (h : Hdr) (w : Nat) (pc : Word) (m o : Mask) : (s.advance p h w pc m o).groups = s.groups := by
  unfold State.advance; split <;> simp

@[simp] theorem putReg_gens (s : State) (w : Nat) (x : RegWrite) : (s.putReg w x).gens = s.gens := by cases x <;> rfl
@[simp] theorem unpoison_gens (s : State) (w : Nat) (x : RegWrite) : (s.unpoison w x).gens = s.gens := by cases x <;> rfl
@[simp] theorem applyWrite_gens (s : State) (w : Nat) (x : RegWrite) : (s.applyWrite w x).gens = s.gens := by simp [State.applyWrite]
@[simp] theorem applyWrites_gens (s : State) (w : Nat) (xs : List RegWrite) : (s.applyWrites w xs).gens = s.gens :=
  applyWrites_inv (fun s => s.gens) applyWrite_gens s w xs
@[simp] theorem orFlags_gens (s : State) (w : Nat) (z : FpFlags) : (s.orFlags w z).gens = s.gens := by
  unfold State.orFlags; split <;> rfl
@[simp] theorem advance_gens (s p : State) (h : Hdr) (w : Nat) (pc : Word) (m o : Mask) : (s.advance p h w pc m o).gens = s.gens := by
  unfold State.advance; split <;> simp

@[simp] theorem putReg_holds (s : State) (w : Nat) (x : RegWrite) : (s.putReg w x).holds = s.holds := by cases x <;> rfl
@[simp] theorem unpoison_holds (s : State) (w : Nat) (x : RegWrite) : (s.unpoison w x).holds = s.holds := by cases x <;> rfl
@[simp] theorem applyWrite_holds (s : State) (w : Nat) (x : RegWrite) : (s.applyWrite w x).holds = s.holds := by simp [State.applyWrite]
@[simp] theorem applyWrites_holds (s : State) (w : Nat) (xs : List RegWrite) : (s.applyWrites w xs).holds = s.holds :=
  applyWrites_inv (fun s => s.holds) applyWrite_holds s w xs
@[simp] theorem orFlags_holds (s : State) (w : Nat) (z : FpFlags) : (s.orFlags w z).holds = s.holds := by
  unfold State.orFlags; split <;> rfl
@[simp] theorem advance_holds (s p : State) (h : Hdr) (w : Nat) (pc : Word) (m o : Mask) : (s.advance p h w pc m o).holds = s.holds := by
  unfold State.advance; split <;> simp

@[simp] theorem putReg_jobs (s : State) (w : Nat) (x : RegWrite) : (s.putReg w x).jobs = s.jobs := by cases x <;> rfl
@[simp] theorem unpoison_jobs (s : State) (w : Nat) (x : RegWrite) : (s.unpoison w x).jobs = s.jobs := by cases x <;> rfl
@[simp] theorem applyWrite_jobs (s : State) (w : Nat) (x : RegWrite) : (s.applyWrite w x).jobs = s.jobs := by simp [State.applyWrite]
@[simp] theorem applyWrites_jobs (s : State) (w : Nat) (xs : List RegWrite) : (s.applyWrites w xs).jobs = s.jobs :=
  applyWrites_inv (fun s => s.jobs) applyWrite_jobs s w xs
@[simp] theorem orFlags_jobs (s : State) (w : Nat) (z : FpFlags) : (s.orFlags w z).jobs = s.jobs := by
  unfold State.orFlags; split <;> rfl
@[simp] theorem advance_jobs (s p : State) (h : Hdr) (w : Nat) (pc : Word) (m o : Mask) : (s.advance p h w pc m o).jobs = s.jobs := by
  unfold State.advance; split <;> simp

@[simp] theorem putReg_cuts (s : State) (w : Nat) (x : RegWrite) : (s.putReg w x).cuts = s.cuts := by cases x <;> rfl
@[simp] theorem unpoison_cuts (s : State) (w : Nat) (x : RegWrite) : (s.unpoison w x).cuts = s.cuts := by cases x <;> rfl
@[simp] theorem applyWrite_cuts (s : State) (w : Nat) (x : RegWrite) : (s.applyWrite w x).cuts = s.cuts := by simp [State.applyWrite]
@[simp] theorem applyWrites_cuts (s : State) (w : Nat) (xs : List RegWrite) : (s.applyWrites w xs).cuts = s.cuts :=
  applyWrites_inv (fun s => s.cuts) applyWrite_cuts s w xs
@[simp] theorem orFlags_cuts (s : State) (w : Nat) (z : FpFlags) : (s.orFlags w z).cuts = s.cuts := by
  unfold State.orFlags; split <;> rfl
@[simp] theorem advance_cuts (s p : State) (h : Hdr) (w : Nat) (pc : Word) (m o : Mask) : (s.advance p h w pc m o).cuts = s.cuts := by
  unfold State.advance; split <;> simp

@[simp] theorem putReg_graphs (s : State) (w : Nat) (x : RegWrite) : (s.putReg w x).graphs = s.graphs := by cases x <;> rfl
@[simp] theorem unpoison_graphs (s : State) (w : Nat) (x : RegWrite) : (s.unpoison w x).graphs = s.graphs := by cases x <;> rfl
@[simp] theorem applyWrite_graphs (s : State) (w : Nat) (x : RegWrite) : (s.applyWrite w x).graphs = s.graphs := by simp [State.applyWrite]
@[simp] theorem applyWrites_graphs (s : State) (w : Nat) (xs : List RegWrite) : (s.applyWrites w xs).graphs = s.graphs :=
  applyWrites_inv (fun s => s.graphs) applyWrite_graphs s w xs
@[simp] theorem orFlags_graphs (s : State) (w : Nat) (z : FpFlags) : (s.orFlags w z).graphs = s.graphs := by
  unfold State.orFlags; split <;> rfl
@[simp] theorem advance_graphs (s p : State) (h : Hdr) (w : Nat) (pc : Word) (m o : Mask) : (s.advance p h w pc m o).graphs = s.graphs := by
  unfold State.advance; split <;> simp

@[simp] theorem putReg_adms (s : State) (w : Nat) (x : RegWrite) : (s.putReg w x).adms = s.adms := by cases x <;> rfl
@[simp] theorem unpoison_adms (s : State) (w : Nat) (x : RegWrite) : (s.unpoison w x).adms = s.adms := by cases x <;> rfl
@[simp] theorem applyWrite_adms (s : State) (w : Nat) (x : RegWrite) : (s.applyWrite w x).adms = s.adms := by simp [State.applyWrite]
@[simp] theorem applyWrites_adms (s : State) (w : Nat) (xs : List RegWrite) : (s.applyWrites w xs).adms = s.adms :=
  applyWrites_inv (fun s => s.adms) applyWrite_adms s w xs
@[simp] theorem orFlags_adms (s : State) (w : Nat) (z : FpFlags) : (s.orFlags w z).adms = s.adms := by
  unfold State.orFlags; split <;> rfl
@[simp] theorem advance_adms (s p : State) (h : Hdr) (w : Nat) (pc : Word) (m o : Mask) : (s.advance p h w pc m o).adms = s.adms := by
  unfold State.advance; split <;> simp

@[simp] theorem putReg_setup (s : State) (w : Nat) (x : RegWrite) : (s.putReg w x).setup = s.setup := by cases x <;> rfl
@[simp] theorem unpoison_setup (s : State) (w : Nat) (x : RegWrite) : (s.unpoison w x).setup = s.setup := by cases x <;> rfl
@[simp] theorem applyWrite_setup (s : State) (w : Nat) (x : RegWrite) : (s.applyWrite w x).setup = s.setup := by simp [State.applyWrite]
@[simp] theorem applyWrites_setup (s : State) (w : Nat) (xs : List RegWrite) : (s.applyWrites w xs).setup = s.setup :=
  applyWrites_inv (fun s => s.setup) applyWrite_setup s w xs
@[simp] theorem orFlags_setup (s : State) (w : Nat) (z : FpFlags) : (s.orFlags w z).setup = s.setup := by
  unfold State.orFlags; split <;> rfl
@[simp] theorem advance_setup (s p : State) (h : Hdr) (w : Nat) (pc : Word) (m o : Mask) : (s.advance p h w pc m o).setup = s.setup := by
  unfold State.advance; split <;> simp

@[simp] theorem putReg_entries (s : State) (w : Nat) (x : RegWrite) : (s.putReg w x).entries = s.entries := by cases x <;> rfl
@[simp] theorem unpoison_entries (s : State) (w : Nat) (x : RegWrite) : (s.unpoison w x).entries = s.entries := by cases x <;> rfl
@[simp] theorem applyWrite_entries (s : State) (w : Nat) (x : RegWrite) : (s.applyWrite w x).entries = s.entries := by simp [State.applyWrite]
@[simp] theorem applyWrites_entries (s : State) (w : Nat) (xs : List RegWrite) : (s.applyWrites w xs).entries = s.entries :=
  applyWrites_inv (fun s => s.entries) applyWrite_entries s w xs
@[simp] theorem orFlags_entries (s : State) (w : Nat) (z : FpFlags) : (s.orFlags w z).entries = s.entries := by
  unfold State.orFlags; split <;> rfl
@[simp] theorem advance_entries (s p : State) (h : Hdr) (w : Nat) (pc : Word) (m o : Mask) : (s.advance p h w pc m o).entries = s.entries := by
  unfold State.advance; split <;> simp

@[simp] theorem putReg_lists (s : State) (w : Nat) (x : RegWrite) : (s.putReg w x).lists = s.lists := by cases x <;> rfl
@[simp] theorem unpoison_lists (s : State) (w : Nat) (x : RegWrite) : (s.unpoison w x).lists = s.lists := by cases x <;> rfl
@[simp] theorem applyWrite_lists (s : State) (w : Nat) (x : RegWrite) : (s.applyWrite w x).lists = s.lists := by simp [State.applyWrite]
@[simp] theorem applyWrites_lists (s : State) (w : Nat) (xs : List RegWrite) : (s.applyWrites w xs).lists = s.lists :=
  applyWrites_inv (fun s => s.lists) applyWrite_lists s w xs
@[simp] theorem orFlags_lists (s : State) (w : Nat) (z : FpFlags) : (s.orFlags w z).lists = s.lists := by
  unfold State.orFlags; split <;> rfl
@[simp] theorem advance_lists (s p : State) (h : Hdr) (w : Nat) (pc : Word) (m o : Mask) : (s.advance p h w pc m o).lists = s.lists := by
  unfold State.advance; split <;> simp

@[simp] theorem putReg_draining (s : State) (w : Nat) (x : RegWrite) : (s.putReg w x).draining = s.draining := by cases x <;> rfl
@[simp] theorem unpoison_draining (s : State) (w : Nat) (x : RegWrite) : (s.unpoison w x).draining = s.draining := by cases x <;> rfl
@[simp] theorem applyWrite_draining (s : State) (w : Nat) (x : RegWrite) : (s.applyWrite w x).draining = s.draining := by simp [State.applyWrite]
@[simp] theorem applyWrites_draining (s : State) (w : Nat) (xs : List RegWrite) : (s.applyWrites w xs).draining = s.draining :=
  applyWrites_inv (fun s => s.draining) applyWrite_draining s w xs
@[simp] theorem orFlags_draining (s : State) (w : Nat) (z : FpFlags) : (s.orFlags w z).draining = s.draining := by
  unfold State.orFlags; split <;> rfl
@[simp] theorem advance_draining (s p : State) (h : Hdr) (w : Nat) (pc : Word) (m o : Mask) : (s.advance p h w pc m o).draining = s.draining := by
  unfold State.advance; split <;> simp

@[simp] theorem putReg_lastPass (s : State) (w : Nat) (x : RegWrite) : (s.putReg w x).lastPass = s.lastPass := by cases x <;> rfl
@[simp] theorem unpoison_lastPass (s : State) (w : Nat) (x : RegWrite) : (s.unpoison w x).lastPass = s.lastPass := by cases x <;> rfl
@[simp] theorem applyWrite_lastPass (s : State) (w : Nat) (x : RegWrite) : (s.applyWrite w x).lastPass = s.lastPass := by simp [State.applyWrite]
@[simp] theorem applyWrites_lastPass (s : State) (w : Nat) (xs : List RegWrite) : (s.applyWrites w xs).lastPass = s.lastPass :=
  applyWrites_inv (fun s => s.lastPass) applyWrite_lastPass s w xs
@[simp] theorem orFlags_lastPass (s : State) (w : Nat) (z : FpFlags) : (s.orFlags w z).lastPass = s.lastPass := by
  unfold State.orFlags; split <;> rfl
@[simp] theorem advance_lastPass (s p : State) (h : Hdr) (w : Nat) (pc : Word) (m o : Mask) : (s.advance p h w pc m o).lastPass = s.lastPass := by
  unfold State.advance; split <;> simp

@[simp] theorem putReg_ctxs (s : State) (w : Nat) (x : RegWrite) : (s.putReg w x).ctxs = s.ctxs := by cases x <;> rfl
@[simp] theorem unpoison_ctxs (s : State) (w : Nat) (x : RegWrite) : (s.unpoison w x).ctxs = s.ctxs := by cases x <;> rfl
@[simp] theorem applyWrite_ctxs (s : State) (w : Nat) (x : RegWrite) : (s.applyWrite w x).ctxs = s.ctxs := by simp [State.applyWrite]
@[simp] theorem applyWrites_ctxs (s : State) (w : Nat) (xs : List RegWrite) : (s.applyWrites w xs).ctxs = s.ctxs :=
  applyWrites_inv (fun s => s.ctxs) applyWrite_ctxs s w xs
@[simp] theorem orFlags_ctxs (s : State) (w : Nat) (z : FpFlags) : (s.orFlags w z).ctxs = s.ctxs := by
  unfold State.orFlags; split <;> rfl
@[simp] theorem advance_ctxs (s p : State) (h : Hdr) (w : Nat) (pc : Word) (m o : Mask) : (s.advance p h w pc m o).ctxs = s.ctxs := by
  unfold State.advance; split <;> simp

@[simp] theorem putReg_saved (s : State) (w : Nat) (x : RegWrite) : (s.putReg w x).saved = s.saved := by cases x <;> rfl
@[simp] theorem unpoison_saved (s : State) (w : Nat) (x : RegWrite) : (s.unpoison w x).saved = s.saved := by cases x <;> rfl
@[simp] theorem applyWrite_saved (s : State) (w : Nat) (x : RegWrite) : (s.applyWrite w x).saved = s.saved := by simp [State.applyWrite]
@[simp] theorem applyWrites_saved (s : State) (w : Nat) (xs : List RegWrite) : (s.applyWrites w xs).saved = s.saved :=
  applyWrites_inv (fun s => s.saved) applyWrite_saved s w xs
@[simp] theorem orFlags_saved (s : State) (w : Nat) (z : FpFlags) : (s.orFlags w z).saved = s.saved := by
  unfold State.orFlags; split <;> rfl
@[simp] theorem advance_saved (s p : State) (h : Hdr) (w : Nat) (pc : Word) (m o : Mask) : (s.advance p h w pc m o).saved = s.saved := by
  unfold State.advance; split <;> simp

@[simp] theorem putReg_queues (s : State) (w : Nat) (x : RegWrite) : (s.putReg w x).queues = s.queues := by cases x <;> rfl
@[simp] theorem unpoison_queues (s : State) (w : Nat) (x : RegWrite) : (s.unpoison w x).queues = s.queues := by cases x <;> rfl
@[simp] theorem applyWrite_queues (s : State) (w : Nat) (x : RegWrite) : (s.applyWrite w x).queues = s.queues := by simp [State.applyWrite]
@[simp] theorem applyWrites_queues (s : State) (w : Nat) (xs : List RegWrite) : (s.applyWrites w xs).queues = s.queues :=
  applyWrites_inv (fun s => s.queues) applyWrite_queues s w xs
@[simp] theorem orFlags_queues (s : State) (w : Nat) (z : FpFlags) : (s.orFlags w z).queues = s.queues := by
  unfold State.orFlags; split <;> rfl
@[simp] theorem advance_queues (s p : State) (h : Hdr) (w : Nat) (pc : Word) (m o : Mask) : (s.advance p h w pc m o).queues = s.queues := by
  unfold State.advance; split <;> simp

@[simp] theorem putReg_planes (s : State) (w : Nat) (x : RegWrite) : (s.putReg w x).planes = s.planes := by cases x <;> rfl
@[simp] theorem unpoison_planes (s : State) (w : Nat) (x : RegWrite) : (s.unpoison w x).planes = s.planes := by cases x <;> rfl
@[simp] theorem applyWrite_planes (s : State) (w : Nat) (x : RegWrite) : (s.applyWrite w x).planes = s.planes := by simp [State.applyWrite]
@[simp] theorem applyWrites_planes (s : State) (w : Nat) (xs : List RegWrite) : (s.applyWrites w xs).planes = s.planes :=
  applyWrites_inv (fun s => s.planes) applyWrite_planes s w xs
@[simp] theorem orFlags_planes (s : State) (w : Nat) (z : FpFlags) : (s.orFlags w z).planes = s.planes := by
  unfold State.orFlags; split <;> rfl
@[simp] theorem advance_planes (s p : State) (h : Hdr) (w : Nat) (pc : Word) (m o : Mask) : (s.advance p h w pc m o).planes = s.planes := by
  unfold State.advance; split <;> simp

@[simp] theorem putReg_card (s : State) (w : Nat) (x : RegWrite) : (s.putReg w x).card = s.card := by cases x <;> rfl
@[simp] theorem unpoison_card (s : State) (w : Nat) (x : RegWrite) : (s.unpoison w x).card = s.card := by cases x <;> rfl
@[simp] theorem applyWrite_card (s : State) (w : Nat) (x : RegWrite) : (s.applyWrite w x).card = s.card := by simp [State.applyWrite]
@[simp] theorem applyWrites_card (s : State) (w : Nat) (xs : List RegWrite) : (s.applyWrites w xs).card = s.card :=
  applyWrites_inv (fun s => s.card) applyWrite_card s w xs
@[simp] theorem orFlags_card (s : State) (w : Nat) (z : FpFlags) : (s.orFlags w z).card = s.card := by
  unfold State.orFlags; split <;> rfl
@[simp] theorem advance_card (s p : State) (h : Hdr) (w : Nat) (pc : Word) (m o : Mask) : (s.advance p h w pc m o).card = s.card := by
  unfold State.advance; split <;> simp

@[simp] theorem putReg_stackRegs (s : State) (w : Nat) (x : RegWrite) : (s.putReg w x).stackRegs = s.stackRegs := by cases x <;> rfl
@[simp] theorem unpoison_stackRegs (s : State) (w : Nat) (x : RegWrite) : (s.unpoison w x).stackRegs = s.stackRegs := by cases x <;> rfl
@[simp] theorem applyWrite_stackRegs (s : State) (w : Nat) (x : RegWrite) : (s.applyWrite w x).stackRegs = s.stackRegs := by simp [State.applyWrite]
@[simp] theorem applyWrites_stackRegs (s : State) (w : Nat) (xs : List RegWrite) : (s.applyWrites w xs).stackRegs = s.stackRegs :=
  applyWrites_inv (fun s => s.stackRegs) applyWrite_stackRegs s w xs
@[simp] theorem orFlags_stackRegs (s : State) (w : Nat) (z : FpFlags) : (s.orFlags w z).stackRegs = s.stackRegs := by
  unfold State.orFlags; split <;> rfl
@[simp] theorem advance_stackRegs (s p : State) (h : Hdr) (w : Nat) (pc : Word) (m o : Mask) : (s.advance p h w pc m o).stackRegs = s.stackRegs := by
  unfold State.advance; split <;> simp

@[simp] theorem putReg_faults (s : State) (w : Nat) (x : RegWrite) : (s.putReg w x).faults = s.faults := by cases x <;> rfl
@[simp] theorem unpoison_faults (s : State) (w : Nat) (x : RegWrite) : (s.unpoison w x).faults = s.faults := by cases x <;> rfl
@[simp] theorem applyWrite_faults (s : State) (w : Nat) (x : RegWrite) : (s.applyWrite w x).faults = s.faults := by simp [State.applyWrite]
@[simp] theorem applyWrites_faults (s : State) (w : Nat) (xs : List RegWrite) : (s.applyWrites w xs).faults = s.faults :=
  applyWrites_inv (fun s => s.faults) applyWrite_faults s w xs
@[simp] theorem orFlags_faults (s : State) (w : Nat) (z : FpFlags) : (s.orFlags w z).faults = s.faults := by
  unfold State.orFlags; split <;> rfl
@[simp] theorem advance_faults (s p : State) (h : Hdr) (w : Nat) (pc : Word) (m o : Mask) : (s.advance p h w pc m o).faults = s.faults := by
  unfold State.advance; split <;> simp

@[simp] theorem putReg_errCounts (s : State) (w : Nat) (x : RegWrite) : (s.putReg w x).errCounts = s.errCounts := by cases x <;> rfl
@[simp] theorem unpoison_errCounts (s : State) (w : Nat) (x : RegWrite) : (s.unpoison w x).errCounts = s.errCounts := by cases x <;> rfl
@[simp] theorem applyWrite_errCounts (s : State) (w : Nat) (x : RegWrite) : (s.applyWrite w x).errCounts = s.errCounts := by simp [State.applyWrite]
@[simp] theorem applyWrites_errCounts (s : State) (w : Nat) (xs : List RegWrite) : (s.applyWrites w xs).errCounts = s.errCounts :=
  applyWrites_inv (fun s => s.errCounts) applyWrite_errCounts s w xs
@[simp] theorem orFlags_errCounts (s : State) (w : Nat) (z : FpFlags) : (s.orFlags w z).errCounts = s.errCounts := by
  unfold State.orFlags; split <;> rfl
@[simp] theorem advance_errCounts (s p : State) (h : Hdr) (w : Nat) (pc : Word) (m o : Mask) : (s.advance p h w pc m o).errCounts = s.errCounts := by
  unfold State.advance; split <;> simp

@[simp] theorem putReg_thermal (s : State) (w : Nat) (x : RegWrite) : (s.putReg w x).thermal = s.thermal := by cases x <;> rfl
@[simp] theorem unpoison_thermal (s : State) (w : Nat) (x : RegWrite) : (s.unpoison w x).thermal = s.thermal := by cases x <;> rfl
@[simp] theorem applyWrite_thermal (s : State) (w : Nat) (x : RegWrite) : (s.applyWrite w x).thermal = s.thermal := by simp [State.applyWrite]
@[simp] theorem applyWrites_thermal (s : State) (w : Nat) (xs : List RegWrite) : (s.applyWrites w xs).thermal = s.thermal :=
  applyWrites_inv (fun s => s.thermal) applyWrite_thermal s w xs
@[simp] theorem orFlags_thermal (s : State) (w : Nat) (z : FpFlags) : (s.orFlags w z).thermal = s.thermal := by
  unfold State.orFlags; split <;> rfl
@[simp] theorem advance_thermal (s p : State) (h : Hdr) (w : Nat) (pc : Word) (m o : Mask) : (s.advance p h w pc m o).thermal = s.thermal := by
  unfold State.advance; split <;> simp

@[simp] theorem putReg_worlds (s : State) (w : Nat) (x : RegWrite) : (s.putReg w x).worlds = s.worlds := by cases x <;> rfl
@[simp] theorem unpoison_worlds (s : State) (w : Nat) (x : RegWrite) : (s.unpoison w x).worlds = s.worlds := by cases x <;> rfl
@[simp] theorem applyWrite_worlds (s : State) (w : Nat) (x : RegWrite) : (s.applyWrite w x).worlds = s.worlds := by simp [State.applyWrite]
@[simp] theorem applyWrites_worlds (s : State) (w : Nat) (xs : List RegWrite) : (s.applyWrites w xs).worlds = s.worlds :=
  applyWrites_inv (fun s => s.worlds) applyWrite_worlds s w xs
@[simp] theorem orFlags_worlds (s : State) (w : Nat) (z : FpFlags) : (s.orFlags w z).worlds = s.worlds := by
  unfold State.orFlags; split <;> rfl
@[simp] theorem advance_worlds (s p : State) (h : Hdr) (w : Nat) (pc : Word) (m o : Mask) : (s.advance p h w pc m o).worlds = s.worlds := by
  unfold State.advance; split <;> simp

@[simp] theorem putReg_hostRead (s : State) (w : Nat) (x : RegWrite) : (s.putReg w x).hostRead = s.hostRead := by cases x <;> rfl
@[simp] theorem unpoison_hostRead (s : State) (w : Nat) (x : RegWrite) : (s.unpoison w x).hostRead = s.hostRead := by cases x <;> rfl
@[simp] theorem applyWrite_hostRead (s : State) (w : Nat) (x : RegWrite) : (s.applyWrite w x).hostRead = s.hostRead := by simp [State.applyWrite]
@[simp] theorem applyWrites_hostRead (s : State) (w : Nat) (xs : List RegWrite) : (s.applyWrites w xs).hostRead = s.hostRead :=
  applyWrites_inv (fun s => s.hostRead) applyWrite_hostRead s w xs
@[simp] theorem orFlags_hostRead (s : State) (w : Nat) (z : FpFlags) : (s.orFlags w z).hostRead = s.hostRead := by
  unfold State.orFlags; split <;> rfl
@[simp] theorem advance_hostRead (s p : State) (h : Hdr) (w : Nat) (pc : Word) (m o : Mask) : (s.advance p h w pc m o).hostRead = s.hostRead := by
  unfold State.advance; split <;> simp

@[simp] theorem putReg_hostEp (s : State) (w : Nat) (x : RegWrite) : (s.putReg w x).hostEp = s.hostEp := by cases x <;> rfl
@[simp] theorem unpoison_hostEp (s : State) (w : Nat) (x : RegWrite) : (s.unpoison w x).hostEp = s.hostEp := by cases x <;> rfl
@[simp] theorem applyWrite_hostEp (s : State) (w : Nat) (x : RegWrite) : (s.applyWrite w x).hostEp = s.hostEp := by simp [State.applyWrite]
@[simp] theorem applyWrites_hostEp (s : State) (w : Nat) (xs : List RegWrite) : (s.applyWrites w xs).hostEp = s.hostEp :=
  applyWrites_inv (fun s => s.hostEp) applyWrite_hostEp s w xs
@[simp] theorem orFlags_hostEp (s : State) (w : Nat) (z : FpFlags) : (s.orFlags w z).hostEp = s.hostEp := by
  unfold State.orFlags; split <;> rfl
@[simp] theorem advance_hostEp (s p : State) (h : Hdr) (w : Nat) (pc : Word) (m o : Mask) : (s.advance p h w pc m o).hostEp = s.hostEp := by
  unfold State.advance; split <;> simp

@[simp] theorem putReg_poll (s : State) (w : Nat) (x : RegWrite) : (s.putReg w x).poll = s.poll := by cases x <;> rfl
@[simp] theorem unpoison_poll (s : State) (w : Nat) (x : RegWrite) : (s.unpoison w x).poll = s.poll := by cases x <;> rfl
@[simp] theorem applyWrite_poll (s : State) (w : Nat) (x : RegWrite) : (s.applyWrite w x).poll = s.poll := by simp [State.applyWrite]
@[simp] theorem applyWrites_poll (s : State) (w : Nat) (xs : List RegWrite) : (s.applyWrites w xs).poll = s.poll :=
  applyWrites_inv (fun s => s.poll) applyWrite_poll s w xs
@[simp] theorem orFlags_poll (s : State) (w : Nat) (z : FpFlags) : (s.orFlags w z).poll = s.poll := by
  unfold State.orFlags; split <;> rfl
@[simp] theorem advance_poll (s p : State) (h : Hdr) (w : Nat) (pc : Word) (m o : Mask) : (s.advance p h w pc m o).poll = s.poll := by
  unfold State.advance; split <;> simp

@[simp] theorem putReg_served (s : State) (w : Nat) (x : RegWrite) : (s.putReg w x).served = s.served := by cases x <;> rfl
@[simp] theorem unpoison_served (s : State) (w : Nat) (x : RegWrite) : (s.unpoison w x).served = s.served := by cases x <;> rfl
@[simp] theorem applyWrite_served (s : State) (w : Nat) (x : RegWrite) : (s.applyWrite w x).served = s.served := by simp [State.applyWrite]
@[simp] theorem applyWrites_served (s : State) (w : Nat) (xs : List RegWrite) : (s.applyWrites w xs).served = s.served :=
  applyWrites_inv (fun s => s.served) applyWrite_served s w xs
@[simp] theorem orFlags_served (s : State) (w : Nat) (z : FpFlags) : (s.orFlags w z).served = s.served := by
  unfold State.orFlags; split <;> rfl
@[simp] theorem advance_served (s p : State) (h : Hdr) (w : Nat) (pc : Word) (m o : Mask) : (s.advance p h w pc m o).served = s.served := by
  unfold State.advance; split <;> simp

@[simp] theorem putReg_ops (s : State) (w : Nat) (x : RegWrite) : (s.putReg w x).ops = s.ops := by cases x <;> rfl
@[simp] theorem unpoison_ops (s : State) (w : Nat) (x : RegWrite) : (s.unpoison w x).ops = s.ops := by cases x <;> rfl
@[simp] theorem applyWrite_ops (s : State) (w : Nat) (x : RegWrite) : (s.applyWrite w x).ops = s.ops := by simp [State.applyWrite]
@[simp] theorem applyWrites_ops (s : State) (w : Nat) (xs : List RegWrite) : (s.applyWrites w xs).ops = s.ops :=
  applyWrites_inv (fun s => s.ops) applyWrite_ops s w xs
@[simp] theorem orFlags_ops (s : State) (w : Nat) (z : FpFlags) : (s.orFlags w z).ops = s.ops := by
  unfold State.orFlags; split <;> rfl

@[simp] theorem putReg_mem_home (s : State) (w : Nat) (x : RegWrite) : (s.putReg w x).mem.home = s.mem.home := by cases x <;> rfl
@[simp] theorem unpoison_mem_home (s : State) (w : Nat) (x : RegWrite) : (s.unpoison w x).mem.home = s.mem.home := by cases x <;> rfl
@[simp] theorem applyWrite_mem_home (s : State) (w : Nat) (x : RegWrite) : (s.applyWrite w x).mem.home = s.mem.home := by simp [State.applyWrite]
@[simp] theorem applyWrites_mem_home (s : State) (w : Nat) (xs : List RegWrite) : (s.applyWrites w xs).mem.home = s.mem.home :=
  applyWrites_inv (fun s => s.mem.home) applyWrite_mem_home s w xs
@[simp] theorem orFlags_mem_home (s : State) (w : Nat) (z : FpFlags) : (s.orFlags w z).mem.home = s.mem.home := by
  unfold State.orFlags; split <;> rfl
@[simp] theorem advance_mem_home (s p : State) (h : Hdr) (w : Nat) (pc : Word) (m o : Mask) : (s.advance p h w pc m o).mem.home = s.mem.home := by
  unfold State.advance; split <;> simp

@[simp] theorem putReg_mem_host (s : State) (w : Nat) (x : RegWrite) : (s.putReg w x).mem.host = s.mem.host := by cases x <;> rfl
@[simp] theorem unpoison_mem_host (s : State) (w : Nat) (x : RegWrite) : (s.unpoison w x).mem.host = s.mem.host := by cases x <;> rfl
@[simp] theorem applyWrite_mem_host (s : State) (w : Nat) (x : RegWrite) : (s.applyWrite w x).mem.host = s.mem.host := by simp [State.applyWrite]
@[simp] theorem applyWrites_mem_host (s : State) (w : Nat) (xs : List RegWrite) : (s.applyWrites w xs).mem.host = s.mem.host :=
  applyWrites_inv (fun s => s.mem.host) applyWrite_mem_host s w xs
@[simp] theorem orFlags_mem_host (s : State) (w : Nat) (z : FpFlags) : (s.orFlags w z).mem.host = s.mem.host := by
  unfold State.orFlags; split <;> rfl
@[simp] theorem advance_mem_host (s p : State) (h : Hdr) (w : Nat) (pc : Word) (m o : Mask) : (s.advance p h w pc m o).mem.host = s.mem.host := by
  unfold State.advance; split <;> simp

@[simp] theorem putReg_mem_l1 (s : State) (w : Nat) (x : RegWrite) : (s.putReg w x).mem.l1 = s.mem.l1 := by cases x <;> rfl
@[simp] theorem unpoison_mem_l1 (s : State) (w : Nat) (x : RegWrite) : (s.unpoison w x).mem.l1 = s.mem.l1 := by cases x <;> rfl
@[simp] theorem applyWrite_mem_l1 (s : State) (w : Nat) (x : RegWrite) : (s.applyWrite w x).mem.l1 = s.mem.l1 := by simp [State.applyWrite]
@[simp] theorem applyWrites_mem_l1 (s : State) (w : Nat) (xs : List RegWrite) : (s.applyWrites w xs).mem.l1 = s.mem.l1 :=
  applyWrites_inv (fun s => s.mem.l1) applyWrite_mem_l1 s w xs
@[simp] theorem orFlags_mem_l1 (s : State) (w : Nat) (z : FpFlags) : (s.orFlags w z).mem.l1 = s.mem.l1 := by
  unfold State.orFlags; split <;> rfl
@[simp] theorem advance_mem_l1 (s p : State) (h : Hdr) (w : Nat) (pc : Word) (m o : Mask) : (s.advance p h w pc m o).mem.l1 = s.mem.l1 := by
  unfold State.advance; split <;> simp

@[simp] theorem putReg_mem_tlb (s : State) (w : Nat) (x : RegWrite) : (s.putReg w x).mem.tlb = s.mem.tlb := by cases x <;> rfl
@[simp] theorem unpoison_mem_tlb (s : State) (w : Nat) (x : RegWrite) : (s.unpoison w x).mem.tlb = s.mem.tlb := by cases x <;> rfl
@[simp] theorem applyWrite_mem_tlb (s : State) (w : Nat) (x : RegWrite) : (s.applyWrite w x).mem.tlb = s.mem.tlb := by simp [State.applyWrite]
@[simp] theorem applyWrites_mem_tlb (s : State) (w : Nat) (xs : List RegWrite) : (s.applyWrites w xs).mem.tlb = s.mem.tlb :=
  applyWrites_inv (fun s => s.mem.tlb) applyWrite_mem_tlb s w xs
@[simp] theorem orFlags_mem_tlb (s : State) (w : Nat) (z : FpFlags) : (s.orFlags w z).mem.tlb = s.mem.tlb := by
  unfold State.orFlags; split <;> rfl
@[simp] theorem advance_mem_tlb (s p : State) (h : Hdr) (w : Nat) (pc : Word) (m o : Mask) : (s.advance p h w pc m o).mem.tlb = s.mem.tlb := by
  unfold State.advance; split <;> simp

@[simp] theorem putReg_mem_moved (s : State) (w : Nat) (x : RegWrite) : (s.putReg w x).mem.moved = s.mem.moved := by cases x <;> rfl
@[simp] theorem unpoison_mem_moved (s : State) (w : Nat) (x : RegWrite) : (s.unpoison w x).mem.moved = s.mem.moved := by cases x <;> rfl
@[simp] theorem applyWrite_mem_moved (s : State) (w : Nat) (x : RegWrite) : (s.applyWrite w x).mem.moved = s.mem.moved := by simp [State.applyWrite]
@[simp] theorem applyWrites_mem_moved (s : State) (w : Nat) (xs : List RegWrite) : (s.applyWrites w xs).mem.moved = s.mem.moved :=
  applyWrites_inv (fun s => s.mem.moved) applyWrite_mem_moved s w xs
@[simp] theorem orFlags_mem_moved (s : State) (w : Nat) (z : FpFlags) : (s.orFlags w z).mem.moved = s.mem.moved := by
  unfold State.orFlags; split <;> rfl
@[simp] theorem advance_mem_moved (s p : State) (h : Hdr) (w : Nat) (pc : Word) (m o : Mask) : (s.advance p h w pc m o).mem.moved = s.mem.moved := by
  unfold State.advance; split <;> simp

@[simp] theorem putReg_mem_promos (s : State) (w : Nat) (x : RegWrite) : (s.putReg w x).mem.promos = s.mem.promos := by cases x <;> rfl
@[simp] theorem unpoison_mem_promos (s : State) (w : Nat) (x : RegWrite) : (s.unpoison w x).mem.promos = s.mem.promos := by cases x <;> rfl
@[simp] theorem applyWrite_mem_promos (s : State) (w : Nat) (x : RegWrite) : (s.applyWrite w x).mem.promos = s.mem.promos := by simp [State.applyWrite]
@[simp] theorem applyWrites_mem_promos (s : State) (w : Nat) (xs : List RegWrite) : (s.applyWrites w xs).mem.promos = s.mem.promos :=
  applyWrites_inv (fun s => s.mem.promos) applyWrite_mem_promos s w xs
@[simp] theorem orFlags_mem_promos (s : State) (w : Nat) (z : FpFlags) : (s.orFlags w z).mem.promos = s.mem.promos := by
  unfold State.orFlags; split <;> rfl
@[simp] theorem advance_mem_promos (s p : State) (h : Hdr) (w : Nat) (pc : Word) (m o : Mask) : (s.advance p h w pc m o).mem.promos = s.mem.promos := by
  unfold State.advance; split <;> simp

@[simp] theorem putReg_mem_icache (s : State) (w : Nat) (x : RegWrite) : (s.putReg w x).mem.icache = s.mem.icache := by cases x <;> rfl
@[simp] theorem unpoison_mem_icache (s : State) (w : Nat) (x : RegWrite) : (s.unpoison w x).mem.icache = s.mem.icache := by cases x <;> rfl
@[simp] theorem applyWrite_mem_icache (s : State) (w : Nat) (x : RegWrite) : (s.applyWrite w x).mem.icache = s.mem.icache := by simp [State.applyWrite]
@[simp] theorem applyWrites_mem_icache (s : State) (w : Nat) (xs : List RegWrite) : (s.applyWrites w xs).mem.icache = s.mem.icache :=
  applyWrites_inv (fun s => s.mem.icache) applyWrite_mem_icache s w xs
@[simp] theorem orFlags_mem_icache (s : State) (w : Nat) (z : FpFlags) : (s.orFlags w z).mem.icache = s.mem.icache := by
  unfold State.orFlags; split <;> rfl
@[simp] theorem advance_mem_icache (s p : State) (h : Hdr) (w : Nat) (pc : Word) (m o : Mask) : (s.advance p h w pc m o).mem.icache = s.mem.icache := by
  unfold State.advance; split <;> simp

@[simp] theorem putReg_cores_scratch (s : State) (w : Nat) (x : RegWrite) : (s.putReg w x).cores.scratch = s.cores.scratch := by cases x <;> rfl
@[simp] theorem unpoison_cores_scratch (s : State) (w : Nat) (x : RegWrite) : (s.unpoison w x).cores.scratch = s.cores.scratch := by cases x <;> rfl
@[simp] theorem applyWrite_cores_scratch (s : State) (w : Nat) (x : RegWrite) : (s.applyWrite w x).cores.scratch = s.cores.scratch := by simp [State.applyWrite]
@[simp] theorem applyWrites_cores_scratch (s : State) (w : Nat) (xs : List RegWrite) : (s.applyWrites w xs).cores.scratch = s.cores.scratch :=
  applyWrites_inv (fun s => s.cores.scratch) applyWrite_cores_scratch s w xs
@[simp] theorem orFlags_cores_scratch (s : State) (w : Nat) (z : FpFlags) : (s.orFlags w z).cores.scratch = s.cores.scratch := by
  unfold State.orFlags; split <;> rfl
@[simp] theorem advance_cores_scratch (s p : State) (h : Hdr) (w : Nat) (pc : Word) (m o : Mask) : (s.advance p h w pc m o).cores.scratch = s.cores.scratch := by
  unfold State.advance; split <;> simp

@[simp] theorem putReg_cores_fe (s : State) (w : Nat) (x : RegWrite) : (s.putReg w x).cores.fe = s.cores.fe := by cases x <;> rfl
@[simp] theorem unpoison_cores_fe (s : State) (w : Nat) (x : RegWrite) : (s.unpoison w x).cores.fe = s.cores.fe := by cases x <;> rfl
@[simp] theorem applyWrite_cores_fe (s : State) (w : Nat) (x : RegWrite) : (s.applyWrite w x).cores.fe = s.cores.fe := by simp [State.applyWrite]
@[simp] theorem applyWrites_cores_fe (s : State) (w : Nat) (xs : List RegWrite) : (s.applyWrites w xs).cores.fe = s.cores.fe :=
  applyWrites_inv (fun s => s.cores.fe) applyWrite_cores_fe s w xs
@[simp] theorem orFlags_cores_fe (s : State) (w : Nat) (z : FpFlags) : (s.orFlags w z).cores.fe = s.cores.fe := by
  unfold State.orFlags; split <;> rfl
@[simp] theorem advance_cores_fe (s p : State) (h : Hdr) (w : Nat) (pc : Word) (m o : Mask) : (s.advance p h w pc m o).cores.fe = s.cores.fe := by
  unfold State.advance; split <;> simp

@[simp] theorem putReg_cores_loft (s : State) (w : Nat) (x : RegWrite) : (s.putReg w x).cores.loft = s.cores.loft := by cases x <;> rfl
@[simp] theorem unpoison_cores_loft (s : State) (w : Nat) (x : RegWrite) : (s.unpoison w x).cores.loft = s.cores.loft := by cases x <;> rfl
@[simp] theorem applyWrite_cores_loft (s : State) (w : Nat) (x : RegWrite) : (s.applyWrite w x).cores.loft = s.cores.loft := by simp [State.applyWrite]
@[simp] theorem applyWrites_cores_loft (s : State) (w : Nat) (xs : List RegWrite) : (s.applyWrites w xs).cores.loft = s.cores.loft :=
  applyWrites_inv (fun s => s.cores.loft) applyWrite_cores_loft s w xs
@[simp] theorem orFlags_cores_loft (s : State) (w : Nat) (z : FpFlags) : (s.orFlags w z).cores.loft = s.cores.loft := by
  unfold State.orFlags; split <;> rfl
@[simp] theorem advance_cores_loft (s p : State) (h : Hdr) (w : Nat) (pc : Word) (m o : Mask) : (s.advance p h w pc m o).cores.loft = s.cores.loft := by
  unfold State.advance; split <;> simp

@[simp] theorem putReg_cores_slices (s : State) (w : Nat) (x : RegWrite) : (s.putReg w x).cores.slices = s.cores.slices := by cases x <;> rfl
@[simp] theorem unpoison_cores_slices (s : State) (w : Nat) (x : RegWrite) : (s.unpoison w x).cores.slices = s.cores.slices := by cases x <;> rfl
@[simp] theorem applyWrite_cores_slices (s : State) (w : Nat) (x : RegWrite) : (s.applyWrite w x).cores.slices = s.cores.slices := by simp [State.applyWrite]
@[simp] theorem applyWrites_cores_slices (s : State) (w : Nat) (xs : List RegWrite) : (s.applyWrites w xs).cores.slices = s.cores.slices :=
  applyWrites_inv (fun s => s.cores.slices) applyWrite_cores_slices s w xs
@[simp] theorem orFlags_cores_slices (s : State) (w : Nat) (z : FpFlags) : (s.orFlags w z).cores.slices = s.cores.slices := by
  unfold State.orFlags; split <;> rfl
@[simp] theorem advance_cores_slices (s p : State) (h : Hdr) (w : Nat) (pc : Word) (m o : Mask) : (s.advance p h w pc m o).cores.slices = s.cores.slices := by
  unfold State.advance; split <;> simp

@[simp] theorem putReg_cores_running (s : State) (w : Nat) (x : RegWrite) : (s.putReg w x).cores.running = s.cores.running := by cases x <;> rfl
@[simp] theorem unpoison_cores_running (s : State) (w : Nat) (x : RegWrite) : (s.unpoison w x).cores.running = s.cores.running := by cases x <;> rfl
@[simp] theorem applyWrite_cores_running (s : State) (w : Nat) (x : RegWrite) : (s.applyWrite w x).cores.running = s.cores.running := by simp [State.applyWrite]
@[simp] theorem applyWrites_cores_running (s : State) (w : Nat) (xs : List RegWrite) : (s.applyWrites w xs).cores.running = s.cores.running :=
  applyWrites_inv (fun s => s.cores.running) applyWrite_cores_running s w xs
@[simp] theorem orFlags_cores_running (s : State) (w : Nat) (z : FpFlags) : (s.orFlags w z).cores.running = s.cores.running := by
  unfold State.orFlags; split <;> rfl
@[simp] theorem advance_cores_running (s p : State) (h : Hdr) (w : Nat) (pc : Word) (m o : Mask) : (s.advance p h w pc m o).cores.running = s.cores.running := by
  unfold State.advance; split <;> simp

@[simp] theorem putReg_cores_links (s : State) (w : Nat) (x : RegWrite) : (s.putReg w x).cores.links = s.cores.links := by cases x <;> rfl
@[simp] theorem unpoison_cores_links (s : State) (w : Nat) (x : RegWrite) : (s.unpoison w x).cores.links = s.cores.links := by cases x <;> rfl
@[simp] theorem applyWrite_cores_links (s : State) (w : Nat) (x : RegWrite) : (s.applyWrite w x).cores.links = s.cores.links := by simp [State.applyWrite]
@[simp] theorem applyWrites_cores_links (s : State) (w : Nat) (xs : List RegWrite) : (s.applyWrites w xs).cores.links = s.cores.links :=
  applyWrites_inv (fun s => s.cores.links) applyWrite_cores_links s w xs
@[simp] theorem orFlags_cores_links (s : State) (w : Nat) (z : FpFlags) : (s.orFlags w z).cores.links = s.cores.links := by
  unfold State.orFlags; split <;> rfl
@[simp] theorem advance_cores_links (s p : State) (h : Hdr) (w : Nat) (pc : Word) (m o : Mask) : (s.advance p h w pc m o).cores.links = s.cores.links := by
  unfold State.advance; split <;> simp

@[simp] theorem putReg_cores_flight (s : State) (w : Nat) (x : RegWrite) : (s.putReg w x).cores.flight = s.cores.flight := by cases x <;> rfl
@[simp] theorem unpoison_cores_flight (s : State) (w : Nat) (x : RegWrite) : (s.unpoison w x).cores.flight = s.cores.flight := by cases x <;> rfl
@[simp] theorem applyWrite_cores_flight (s : State) (w : Nat) (x : RegWrite) : (s.applyWrite w x).cores.flight = s.cores.flight := by simp [State.applyWrite]
@[simp] theorem applyWrites_cores_flight (s : State) (w : Nat) (xs : List RegWrite) : (s.applyWrites w xs).cores.flight = s.cores.flight :=
  applyWrites_inv (fun s => s.cores.flight) applyWrite_cores_flight s w xs
@[simp] theorem orFlags_cores_flight (s : State) (w : Nat) (z : FpFlags) : (s.orFlags w z).cores.flight = s.cores.flight := by
  unfold State.orFlags; split <;> rfl
@[simp] theorem advance_cores_flight (s p : State) (h : Hdr) (w : Nat) (pc : Word) (m o : Mask) : (s.advance p h w pc m o).cores.flight = s.cores.flight := by
  unfold State.advance; split <;> simp

@[simp] theorem putReg_cores_reorder (s : State) (w : Nat) (x : RegWrite) : (s.putReg w x).cores.reorder = s.cores.reorder := by cases x <;> rfl
@[simp] theorem unpoison_cores_reorder (s : State) (w : Nat) (x : RegWrite) : (s.unpoison w x).cores.reorder = s.cores.reorder := by cases x <;> rfl
@[simp] theorem applyWrite_cores_reorder (s : State) (w : Nat) (x : RegWrite) : (s.applyWrite w x).cores.reorder = s.cores.reorder := by simp [State.applyWrite]
@[simp] theorem applyWrites_cores_reorder (s : State) (w : Nat) (xs : List RegWrite) : (s.applyWrites w xs).cores.reorder = s.cores.reorder :=
  applyWrites_inv (fun s => s.cores.reorder) applyWrite_cores_reorder s w xs
@[simp] theorem orFlags_cores_reorder (s : State) (w : Nat) (z : FpFlags) : (s.orFlags w z).cores.reorder = s.cores.reorder := by
  unfold State.orFlags; split <;> rfl
@[simp] theorem advance_cores_reorder (s p : State) (h : Hdr) (w : Nat) (pc : Word) (m o : Mask) : (s.advance p h w pc m o).cores.reorder = s.cores.reorder := by
  unfold State.advance; split <;> simp

end Sys2Proof.Machine
end

