-- ==== Sys2Proof/Laws/Codes.lean ====
section
/-! SUPPORT. Each code of the encoding reads back, and each field of a word stands where the decoder looks (R35, R48, R49, R53, R58, R59). -/

set_option linter.unusedSimpArgs false

namespace Sys2Proof.Laws

open Sys2Proof.Machine (tyOfCode tyCode)

@[simp] theorem nxtOfCode_nxtCode (x : Nxt) : nxtOfCode (nxtCode x) = some x := by cases x <;> rfl
@[simp] theorem rndOfCode_rndCode (x : Rnd) : rndOfCode (rndCode x) = some x := by cases x <;> rfl
@[simp] theorem spaceOfCode_spaceCode (x : Space) : spaceOfCode (spaceCode x) = some x := by cases x <;> rfl
@[simp] theorem widthOfCode_widthCode (x : Width) : widthOfCode (widthCode x) = some x := by cases x <;> rfl
@[simp] theorem cacheOfCode_cacheCode (x : Cache) : cacheOfCode (cacheCode x) = x := by cases x <;> rfl
@[simp] theorem feOfCode_feCode (x : Fe) : feOfCode (feCode x) = x := by cases x <;> rfl
@[simp] theorem ordOfCode_ordCode (x : Ord) : ordOfCode (ordCode x) = x := by cases x <;> rfl
@[simp] theorem scopeOfCode_scopeCode (x : Scope) : scopeOfCode (scopeCode x) = x := by cases x <;> rfl
@[simp] theorem tyOfCode_tyCode (x : Ty) : tyOfCode (BitVec.ofNat 5 (tyCode x)).toNat = some x := by cases x <;> rfl

theorem opndOf_v (n : BitVec 8) : opndOf (opndBits (.v n)) = some (.v n) := by revert n; decide +kernel
theorem opndOf_s (n : BitVec 10) : opndOf (opndBits (.s n)) = some (.s n) := by revert n; decide +kernel
theorem opndOf_sr (n : BitVec 9) : opndOf (opndBits (.sr n)) = some (.sr n) := by revert n; decide +kernel
theorem opndOf_imm (n : BitVec 9) : opndOf (opndBits (.imm n)) = some (.imm n) := by revert n; decide +kernel
theorem opndOf_p (n : BitVec 4) : opndOf (opndBits (.p n)) = some (.p n) := by revert n; decide +kernel
theorem opndOf_bt (n : BitVec 3) : opndOf (opndBits (.bt n)) = some (.bt n) := by revert n; decide +kernel
theorem opndOf_lc (n : BitVec 2) : opndOf (opndBits (.lc n)) = some (.lc n) := by revert n; decide +kernel
theorem opndOf_cv (n : BitVec 3) : opndOf (opndBits (.cv n)) = some (.cv n) := by revert n; decide +kernel
theorem opndOf_acc (n : BitVec 5) : opndOf (opndBits (.acc n)) = some (.acc n) := by revert n; decide +kernel

/-- Every operand's field reads back as the operand. -/
@[simp] theorem opndOf_opndBits (o : Opnd) : opndOf (opndBits o) = some o := by
  cases o with
  | v n => exact opndOf_v n
  | s n => exact opndOf_s n
  | sr n => exact opndOf_sr n
  | imm n => exact opndOf_imm n
  | p n => exact opndOf_p n
  | bt n => exact opndOf_bt n
  | lc n => exact opndOf_lc n
  | cv n => exact opndOf_cv n
  | acc n => exact opndOf_acc n
  | lk => rfl
  | pc => rfl
  | zr => rfl

/-- A bit of a one-bit field. -/
@[simp] theorem getLsbD_ofBool_zero (b : Bool) : (BitVec.ofBool b).getLsbD 0 = b := by cases b <;> rfl

theorem opcOf_encR (opc : BitVec 10) (h : Hdr) (f : RForm) : opcOf (encR opc h f) = opc.toNat := by
  unfold opcOf encR
  simp (disch := decide) only [BitVec.extractLsb'_append_eq_of_le, BitVec.extractLsb'_append_eq_of_add_le, BitVec.extractLsb'_eq_self, BitVec.getLsbD_append, Nat.reduceSub, Nat.reduceLT, if_true, if_false, reduceIte, getLsbD_ofBool_zero,
    nxtOfCode_nxtCode, rndOfCode_rndCode, spaceOfCode_spaceCode, widthOfCode_widthCode, cacheOfCode_cacheCode, feOfCode_feCode, ordOfCode_ordCode, scopeOfCode_scopeCode, tyOfCode_tyCode, opndOf_opndBits]

theorem hdrOf_encR (opc : BitVec 10) (h : Hdr) (f : RForm) : hdrOf (encR opc h f) = some h := by
  unfold hdrOf encR hdrBits
  simp (disch := decide) only [BitVec.extractLsb'_append_eq_of_le, BitVec.extractLsb'_append_eq_of_add_le, BitVec.extractLsb'_eq_self, BitVec.getLsbD_append, Nat.reduceSub, Nat.reduceLT, if_true, if_false, reduceIte, getLsbD_ofBool_zero,
    nxtOfCode_nxtCode, rndOfCode_rndCode, spaceOfCode_spaceCode, widthOfCode_widthCode, cacheOfCode_cacheCode, feOfCode_feCode, ordOfCode_ordCode, scopeOfCode_scopeCode, tyOfCode_tyCode, opndOf_opndBits]
  rfl

theorem rOf_encR (opc : BitVec 10) (h : Hdr) (f : RForm) : rOf (encR opc h f) = some f := by
  unfold rOf encR
  simp (disch := decide) only [BitVec.extractLsb'_append_eq_of_le, BitVec.extractLsb'_append_eq_of_add_le, BitVec.extractLsb'_eq_self, BitVec.getLsbD_append, Nat.reduceSub, Nat.reduceLT, if_true, if_false, reduceIte, getLsbD_ofBool_zero,
    nxtOfCode_nxtCode, rndOfCode_rndCode, spaceOfCode_spaceCode, widthOfCode_widthCode, cacheOfCode_cacheCode, feOfCode_feCode, ordOfCode_ordCode, scopeOfCode_scopeCode, tyOfCode_tyCode, opndOf_opndBits]

theorem opcOf_encI (opc : BitVec 10) (h : Hdr) (f : IForm) : opcOf (encI opc h f) = opc.toNat := by
  unfold opcOf encI
  simp (disch := decide) only [BitVec.extractLsb'_append_eq_of_le, BitVec.extractLsb'_append_eq_of_add_le, BitVec.extractLsb'_eq_self, BitVec.getLsbD_append, Nat.reduceSub, Nat.reduceLT, if_true, if_false, reduceIte, getLsbD_ofBool_zero,
    nxtOfCode_nxtCode, rndOfCode_rndCode, spaceOfCode_spaceCode, widthOfCode_widthCode, cacheOfCode_cacheCode, feOfCode_feCode, ordOfCode_ordCode, scopeOfCode_scopeCode, tyOfCode_tyCode, opndOf_opndBits]

theorem hdrOf_encI (opc : BitVec 10) (h : Hdr) (f : IForm) : hdrOf (encI opc h f) = some h := by
  unfold hdrOf encI hdrBits
  simp (disch := decide) only [BitVec.extractLsb'_append_eq_of_le, BitVec.extractLsb'_append_eq_of_add_le, BitVec.extractLsb'_eq_self, BitVec.getLsbD_append, Nat.reduceSub, Nat.reduceLT, if_true, if_false, reduceIte, getLsbD_ofBool_zero,
    nxtOfCode_nxtCode, rndOfCode_rndCode, spaceOfCode_spaceCode, widthOfCode_widthCode, cacheOfCode_cacheCode, feOfCode_feCode, ordOfCode_ordCode, scopeOfCode_scopeCode, tyOfCode_tyCode, opndOf_opndBits]
  rfl

theorem iOf_encI (opc : BitVec 10) (h : Hdr) (f : IForm) : iOf (encI opc h f) = some f := by
  unfold iOf encI
  simp (disch := decide) only [BitVec.extractLsb'_append_eq_of_le, BitVec.extractLsb'_append_eq_of_add_le, BitVec.extractLsb'_eq_self, BitVec.getLsbD_append, Nat.reduceSub, Nat.reduceLT, if_true, if_false, reduceIte, getLsbD_ofBool_zero,
    nxtOfCode_nxtCode, rndOfCode_rndCode, spaceOfCode_spaceCode, widthOfCode_widthCode, cacheOfCode_cacheCode, feOfCode_feCode, ordOfCode_ordCode, scopeOfCode_scopeCode, tyOfCode_tyCode, opndOf_opndBits]

theorem opcOf_encM (opc : BitVec 10) (h : Hdr) (f : MForm) : opcOf (encM opc h f) = opc.toNat := by
  unfold opcOf encM
  simp (disch := decide) only [BitVec.extractLsb'_append_eq_of_le, BitVec.extractLsb'_append_eq_of_add_le, BitVec.extractLsb'_eq_self, BitVec.getLsbD_append, Nat.reduceSub, Nat.reduceLT, if_true, if_false, reduceIte, getLsbD_ofBool_zero,
    nxtOfCode_nxtCode, rndOfCode_rndCode, spaceOfCode_spaceCode, widthOfCode_widthCode, cacheOfCode_cacheCode, feOfCode_feCode, ordOfCode_ordCode, scopeOfCode_scopeCode, tyOfCode_tyCode, opndOf_opndBits]

theorem hdrOf_encM (opc : BitVec 10) (h : Hdr) (f : MForm) : hdrOf (encM opc h f) = some h := by
  unfold hdrOf encM hdrBits
  simp (disch := decide) only [BitVec.extractLsb'_append_eq_of_le, BitVec.extractLsb'_append_eq_of_add_le, BitVec.extractLsb'_eq_self, BitVec.getLsbD_append, Nat.reduceSub, Nat.reduceLT, if_true, if_false, reduceIte, getLsbD_ofBool_zero,
    nxtOfCode_nxtCode, rndOfCode_rndCode, spaceOfCode_spaceCode, widthOfCode_widthCode, cacheOfCode_cacheCode, feOfCode_feCode, ordOfCode_ordCode, scopeOfCode_scopeCode, tyOfCode_tyCode, opndOf_opndBits]
  rfl

theorem mOf_encM (opc : BitVec 10) (h : Hdr) (f : MForm) : mOf (encM opc h f) = some f := by
  unfold mOf encM
  simp (disch := decide) only [BitVec.extractLsb'_append_eq_of_le, BitVec.extractLsb'_append_eq_of_add_le, BitVec.extractLsb'_eq_self, BitVec.getLsbD_append, Nat.reduceSub, Nat.reduceLT, if_true, if_false, reduceIte, getLsbD_ofBool_zero,
    nxtOfCode_nxtCode, rndOfCode_rndCode, spaceOfCode_spaceCode, widthOfCode_widthCode, cacheOfCode_cacheCode, feOfCode_feCode, ordOfCode_ordCode, scopeOfCode_scopeCode, tyOfCode_tyCode, opndOf_opndBits]

end Sys2Proof.Laws
end

