-- ==== Sys2Proof/Laws/IssueLong.lean ====
section
/-! SUPPORT. What the shared issue of a long-latency instruction leaves, when its parts are performed. -/

namespace Sys2Proof.Machine

/-- How an operation performs a part, without a cause and without a page fault. -/
def goesWell (p : Perf) : Prop :=
  match p with
  | .done _ | .accept | .wait _ _ => True
  | .park _ _ _ _ | .trap _ _ _ => False

/-- One part tried, when the operation performs it as `p` says. -/
theorem performLane_eq {op : LongOp} {id l : Nat} {s s1 : State} {o : Op} {p : Perf} (ho : nmapFind s.ops id = some o)
    (ht : o.todo.getLsbD l = true) (hh : s.partHeld o l = false) (hp : op.perf s o l = (s1, p)) (hg : goesWell p) :
    performLane op id l s = (partLeft op.once id o l p s1, []) := by
  unfold performLane
  simp only [ho, ht, hh, Bool.not_true, Bool.false_eq_true, if_false, hp]
  cases p with
  | done _ => rfl
  | accept => rfl
  | wait _ _ => rfl
  | park _ _ _ _ => exact hg.elim
  | trap _ _ _ => exact hg.elim

/-- Parts in order, when the operation performs each as `part` says. -/
theorem performLanes_eq {op : LongOp} {part : PartSpec} {id : Nat}
    (hpart : ∀ s o l s1 p, part s o l s1 p → op.perf s o l = (s1, p) ∧ goesWell p) (ls : List Nat) (s t : State)
    (h : Performs op.once part id ls s t) : performLanes op id ls s = (t, []) := by
  induction ls generalizing s with
  | nil => simp only [Performs] at h; subst h; rfl
  | cons l rest ih =>
    simp only [Performs] at h
    obtain ⟨o, s1, p, ho, ht, hh, hq, hr⟩ := h
    obtain ⟨h1, h2⟩ := hpart _ _ _ _ _ hq
    simp only [performLanes, performLane_eq ho ht hh h1 h2, ih _ hr, List.append_nil]

/-- What the shared issue of a long-latency instruction can do when nothing holds it back: the record, its parts, and the lanes
move on. -/
theorem issueLong_eq {i : Instr} {h : Hdr} {op : LongOp} {part : PartSpec}
    (hpart : ∀ s o l s1 p, part s o l s1 p → op.perf s o l = (s1, p) ∧ goesWell p) {s t : State} (c : s.CanIssueLong i h op)
    (hp : Performs op.once part (s.serial + 1) (lanesOf (if op.once then bit32 ((leadOf (s.activeSet h)).getD 0) else s.activeSet h))
      (s.issued i h op) t) :
    issueLong i h op s = t.advance s h s.cur.w s.cur.pc (s.activeSet h) (s.offSet h) := by
  have hr : s.readyLanes h (checkOf i) op.pipe s.cur.w s.cur.mask (fun l => op.wait s (s.rdFor 0 l)) = s.cur.mask :=
    readyLanes_eq c.free c.records c.ready c.still
  have hc : s.issueCauses h (checkOf i) (fun l => op.pre s (s.rdFor 0 l)) (fun l => op.cause s (s.rdAt h l)) s.cur.w s.cur.mask = [] :=
    issueCauses_nil c.toCanIssue c.free0 c.sound
  have hq := performLanes_eq hpart _ _ _ hp
  have hm : s.activeSet h ≠ 0 := c.acts
  simp only [State.rdAt, State.rdFor, State.activeSet] at hr hc hq hm
  simp only [issueLong, hr, hc, List.map_nil, maskOf_nil, and_not_zero, hm, if_false]
  have e : newOp i h op s s.cur.w s.cur.pc s.cur.word s.cur.mask (s.guardMask h s.cur.w s.cur.mask) (s.serial + 1)
      = newOp i h op s s.cur.w s.cur.pc s.cur.word s.cur.mask (s.activeSet h) (s.serial + 1) := rfl
  have e2 : (newOp i h op s s.cur.w s.cur.pc s.cur.word s.cur.mask (s.activeSet h) (s.serial + 1)).todo
      = (if op.once then bit32 ((leadOf (s.activeSet h)).getD 0) else s.activeSet h) := rfl
  simp only [e, e2]
  simp only [State.issued, State.activeSet] at hq
  have e3 : inLaneOrder [] = [] := rfl
  simp only [State.activeSet, hq, List.map_nil, maskOf_nil, and_not_zero, List.append_nil, e3, raise_nil]
  rfl

end Sys2Proof.Machine
end

