-- ==== Sys2Proof/Laws/IssueWide.lean ====
section
/-! SUPPORT. What the shared issue of a warp-wide instruction leaves when it completes its round, and of one whose lanes all raise the
same cause. -/

namespace Sys2Proof.Machine

open Sys2Proof.Laws

/-- A register write that is none of a convergence register. -/
def notCv (x : RegWrite) : Prop :=
  match x with
  | .cv _ _ => False
  | _ => True

theorem applyWrite_getCv (s : State) (w : Nat) (x : RegWrite) (h : notCv x) (v k : Nat) :
    (s.applyWrite w x).regs.getCv v k = s.regs.getCv v k := by
  cases x <;> first | exact h.elim | rfl

theorem applyWrites_getCv (s : State) (w : Nat) (xs : List RegWrite) (h : ∀ x ∈ xs, notCv x) (v k : Nat) :
    (s.applyWrites w xs).regs.getCv v k = s.regs.getCv v k := by
  induction xs generalizing s with
  | nil => rfl
  | cons x t ih =>
    exact (ih _ (fun y hy => h y (List.mem_cons_of_mem _ hy))).trans (applyWrite_getCv s w x (h x List.mem_cons_self) v k)

/-- NXT writes lk and lc only. -/
theorem nxt_notCv (s : State) (h : Hdr) (w l : Nat) (pc : Word) : ∀ x ∈ (s.nxt h w l pc).2, notCv x := by
  intro x hx
  simp only [State.nxt] at hx
  split at hx <;> (try split at hx) <;> simp at hx <;> subst hx <;> trivial

theorem foldl_setPc_getCv {α : Type} (xs : List α) (r : RegFile) (w : Nat) (f : α → Nat) (g : α → Word) (v k : Nat) :
    (xs.foldl (fun (r : RegFile) e => r.setPc w (f e) (g e)) r).getCv v k = r.getCv v k := by
  induction xs generalizing r with
  | nil => rfl
  | cons x t ih => exact (ih _).trans (getCv_setPc r w (f x) (g x) v k)

/-- The lanes' moving on leaves the convergence registers alone. -/
@[simp] theorem advance_getCv (s p : State) (h : Hdr) (w : Nat) (pc : Word) (m o : Mask) (v k : Nat) :
    (s.advance p h w pc m o).regs.getCv v k = s.regs.getCv v k := by
  unfold State.advance
  split
  · rfl
  simp only [setWarp_regs]
  rw [foldl_setPc_getCv (lanesOf o) _ w (fun l => l) (fun _ => pc + 1) v k, foldl_setPc_getCv _ _ w _ _ v k]
  apply applyWrites_getCv
  intro x hx
  simp only [List.mem_flatMap, List.mem_map] at hx
  obtain ⟨e, ⟨l, _, rfl⟩, he⟩ := hx
  exact nxt_notCv _ _ _ _ _ x he

@[simp] theorem advance_sign (s p : State) (h : Hdr) (w : Nat) (pc : Word) (m o : Mask) (v k : Nat) :
    (s.advance p h w pc m o).sign v k = s.sign v k := by
  simp [State.sign]

/-- One lane's mask holds that lane alone. -/
theorem lanesOf_bit32 {l : Nat} (hl : l < 32) : lanesOf (bit32 l) = [l] := by
  have : ∀ l : Fin 32, lanesOf (bit32 l.1) = [l.1] := by decide
  exact this ⟨l, hl⟩

theorem lead_lt (m : Mask) : (leadOf m).getD 0 < 32 := by
  unfold leadOf
  cases h : (lanesOf m).head? with
  | none => simp
  | some l =>
    have : l ∈ lanesOf m := List.mem_of_head? h
    simpa using BitVec.lt_of_getLsbD (mem_lanesOf.1 this)

/-- The operand values kept for a trap play no part in an execution. -/
theorem runWide_recs (op : WideOp) (h : Hdr) (w k : Nat) (g : Sign) (r : List LaneRec) (s : State) :
    runWide op h w k { g with recs := r } s = runWide op h w k g s := rfl

/-- The round that the selected set completes executes. -/
theorem issueWide_eq {i : Instr} {h : Hdr} {k : Nat} {op : WideOp} {s : State} (c : s.CanExecute i h k op) :
    issueWide i h k op s = runWide op h s.cur.w k (s.round i h k) (s.outsidersGone h k) := by
  have hr : s.readyLanes h (checkOf i) (if op.long then .x else .c) s.cur.w s.cur.mask (fun l => op.wait s (s.rdFor 0 l)) = s.cur.mask :=
    readyLanes_eq c.free c.records c.ready c.still
  have hc : s.issueCauses h (checkOf i) (fun l => op.pre s (s.rdFor 0 l)) (fun l => op.cause s (s.rdFor s.cur.mask l)) s.cur.w s.cur.mask = [] :=
    issueCauses_nil c.toCanIssue c.free0 c.sound
  have hn := c.signs
  have hs := c.samePc
  have hf := c.complete
  have hy := c.roomy
  simp only [State.rdFor] at hr hc
  simp only [State.newSigners] at hn
  simp only [issueWide, hr, hc, List.map_nil, maskOf_nil, and_not_zero, hn, if_false, raise_nil, List.isEmpty_nil, Bool.true_or, if_true]
  simp only [signWide, State.signEnd, advance_sign, advance_getCv]
  have hp : (decide ((s.sign s.cur.w k).signed ≠ 0) && decide ((s.sign s.cur.w k).pc ≠ s.cur.pc)) = false := by
    by_cases h0 : (s.sign s.cur.w k).signed = 0
    · simp [h0]
    · simp [hs h0]
  simp only [State.round, State.newSigners] at hf
  simp only [State.outsidersGone, State.activeSet] at hy hf
  simp only [hp, Bool.false_eq_true, if_false, hf, if_true, hy, State.outsidersGone, State.round, State.newSigners, State.activeSet]
  simp only [BitVec.or_zero, BitVec.ofNat_eq_ofNat]
  exact runWide_recs op h s.cur.w k
    { signed := (s.sign s.cur.w k).signed ||| s.cur.mask &&& s.regs.getCv s.cur.w k
      guard := (s.sign s.cur.w k).guard &&& ~~~(s.cur.mask &&& s.regs.getCv s.cur.w k) |||
        s.cur.mask &&& s.regs.getCv s.cur.w k &&& s.guardMask h s.cur.w s.cur.mask
      pc := s.cur.pc, word := s.cur.word, instr := some i, count := (s.sign s.cur.w k).count
      passed := (s.sign s.cur.w k).passed &&& ~~~(s.cur.mask &&& s.regs.getCv s.cur.w k), recs := []
      susp := (s.sign s.cur.w k).susp } _ _

/-- A warp-wide instruction of fixed latency. -/
theorem issueWide_landed {i : Instr} {h : Hdr} {k : Nat} {op : WideOp} {out : State → Rd → Nat → LaneOut} {s : State}
    (hop : op.exec = wideOut out) (hl : op.long = false) (c : s.CanExecute i h k op) :
    issueWide i h k op s = s.landedWide i h k out := by
  rw [issueWide_eq c]
  have hlate : (if (s.round i h k).acting = 0 then none else op.late (s.roundOver h k) (s.rdWide (s.round i h k))) = none := by
    split
    · rfl
    · exact c.causeless ‹_›
  simp only [runWide, hl, Bool.false_eq_true, if_false]
  split
  · rename_i heq
    exact absurd (heq.symm.trans hlate) (by simp)
  · rw [hop]
    rfl

/-- A warp-wide long-latency instruction whose part is performed. -/
theorem execWideLong_eq {i : Instr} {h : Hdr} {k : Nat} {wop : WideOp} {op : LongOp} {part : PartSpec} {s t : State}
    (hw : wop.exec = execWideLong i h op) (hl : wop.long = true) (ho : op.once = true)
    (hpart : ∀ s o l s1 p, part s o l s1 p → op.perf s o l = (s1, p) ∧ goesWell p) (c : s.CanExecute i h k wop)
    (ha : (s.round i h k).acting ≠ 0)
    (hp : Performs true part ((s.signersGone i h k).serial + 1) [(leadOf (s.round i h k).acting).getD 0] (s.issuedWide i h k op) t) :
    issueWide i h k wop s = t := by
  rw [issueWide_eq c]
  have hlate : (if (s.round i h k).acting = 0 then none else wop.late (s.roundOver h k) (s.rdWide (s.round i h k))) = none := by
    rw [if_neg ha]; exact c.causeless ha
  have hc : ¬ ((s.round i h k).acting = 0) := ha
  have hrd : (s.round i h k).reader s.cur.w = s.rdWide (s.round i h k) := rfl
  simp only [runWide, hl, if_true, hc, if_false, hw]
  split
  · rename_i heq
    rw [if_neg ha] at hlate
    exact absurd (heq.symm.trans hlate) (by simp)
  · have hq := performLanes_eq (op := op) hpart [(leadOf (s.round i h k).acting).getD 0] (s.issuedWide i h k op) t (by rw [ho]; exact hp)
    have hls : lanesOf (bit32 ((leadOf (s.round i h k).acting).getD 0)) = [(leadOf (s.round i h k).acting).getD 0] :=
      lanesOf_bit32 (lead_lt _)
    show execWideLong i h op (s.signersGone i h k) { s.rdWide (s.round i h k) with
      undo := (s.roundOver h k).undoNxt h s.cur.w (lanesOf ((s.round i h k).waiting &&& (s.round i h k).guard)) } = t
    have key : performLanes op ((s.signersGone i h k).serial + 1)
        (lanesOf (if op.once = true then bit32 ((leadOf (s.round i h k).acting).getD 0) else (s.round i h k).acting))
        (s.issuedWide i h k op) = (t, []) := by rw [ho, if_pos rfl, hls]; exact hq
    refine Eq.trans (if_pos ?_) (congrArg Prod.fst key)
    exact congrArg (fun r => r.2.isEmpty) key

end Sys2Proof.Machine
end

