-- ==== Sys2Proof/Laws/IssueTrap.lean ====
section
/-! SUPPORT. What the shared issue of an instruction leaves when every lane of M raises the same cause and its warp's handler takes it. -/

namespace Sys2Proof.Machine

open Sys2Proof.Laws

/-- Register writes that leave the warps' records alone. -/
def notWarp (x : RegWrite) : Prop :=
  match x with
  | .fpctl _ | .fpflags _ | .trapbase _ | .traphandler _ | .wdog _ => False
  | _ => True

theorem applyWrite_warps (s : State) (w : Nat) (x : RegWrite) (h : notWarp x) : (s.applyWrite w x).warps = s.warps := by
  cases x <;> first | exact h.elim | rfl

theorem applyWrites_warps (s : State) (w : Nat) (xs : List RegWrite) (h : ∀ x ∈ xs, notWarp x) : (s.applyWrites w xs).warps = s.warps := by
  induction xs generalizing s with
  | nil => rfl
  | cons x t ih =>
    exact (ih _ (fun y hy => h y (List.mem_cons_of_mem _ hy))).trans (applyWrite_warps s w x (h x List.mem_cons_self))

theorem nxt_notWarp (s : State) (h : Hdr) (w l : Nat) (pc : Word) : ∀ x ∈ (s.nxt h w l pc).2, notWarp x := by
  intro x hx
  simp only [State.nxt] at hx
  split at hx <;> (try split at hx) <;> simp at hx <;> subst hx <;> trivial

theorem setWarp_warps_congr {s t : State} (h : s.warps = t.warps) (v : Nat) : s.warp v = t.warp v := by simp [State.warp, h]

/-- The record of a warp after its lanes have moved on: only the lanes that leave, the waits of CVSET and the windows may have changed. -/
theorem advance_warp (s p : State) (h : Hdr) (w : Nat) (pc : Word) (m o : Mask) :
    ∃ leaving waits wins, (s.advance p h w pc m o).warp w = { s.warp w with leaving := leaving, cvsetWait := waits, wins := wins } := by
  unfold State.advance
  split
  · exact ⟨_, _, _, rfl⟩
  refine ⟨if h.nxt = .exit then (s.warp w).leaving ||| m else (s.warp w).leaving,
    (s.warp w).cvsetWait.filter (fun e => !(m ||| o).getLsbD e.1), countLeft (s.warp w).wins (m ||| o), ?_⟩
  simp only [setWarp_warp]
  have e : ∀ xs : List RegWrite, (∀ x ∈ xs, notWarp x) → (s.applyWrites w xs).warp w = s.warp w :=
    fun xs hx => setWarp_warps_congr (applyWrites_warps s w xs hx) w
  rw [e]
  intro x hx
  simp only [List.mem_flatMap, List.mem_map] at hx
  obtain ⟨e, ⟨l, _, rfl⟩, he⟩ := hx
  exact nxt_notWarp _ _ _ _ _ x he

theorem advance_ops_w (s p : State) (h : Hdr) (w : Nat) (pc : Word) (m o : Mask) {v : Nat} (hs : ∀ e ∈ s.ops, e.2.w ≠ v) :
    ∀ e ∈ (s.advance p h w pc m o).ops, e.2.w ≠ v := by
  intro e he
  unfold State.advance at he
  split at he
  · exact hs e he
  simp only [setWarp_ops, applyWrites_ops, List.mem_map] at he
  obtain ⟨a, ha, rfl⟩ := he
  have := hs a ha
  simp only [countWindow]
  split <;> exact this

theorem lowestCode_const (rs : List Raised) (k : Nat) (hk : k ≤ 256) (h : ∀ r ∈ rs, r.cause.code = k) (hne : rs ≠ []) :
    lowestCode rs = k := by
  have : ∀ (rs : List Raised) (m : Nat), k ≤ m → (∀ r ∈ rs, r.cause.code = k) → rs.foldl (fun m r => min m r.cause.code) m = if rs = [] then m else k := by
    intro rs
    induction rs with
    | nil => intro m _ _; simp
    | cons r t ih =>
      intro m hm hr
      have h1 := hr r List.mem_cons_self
      rw [List.foldl_cons, ih _ (by rw [h1]; omega) (fun q hq => hr q (List.mem_cons_of_mem _ hq))]
      by_cases ht : t = []
      · simp [ht, h1, hm]
      · simp [ht]
  rw [lowestCode, this rs 256 hk h, if_neg hne]

/-- What raising one cause for some lanes of a warp does, when the warp's handler can take it at once. -/
theorem raise_trap {s s1 : State} {w : Nat} {pc : Word} {word : IWord} {c : Cause} {subs : Nat → Nat} {rc : Nat → LaneRec} {m : Mask}
    (hm : m ≠ 0) (hf : c.fatal = false) (hh : (s.warp w).traphandler ≠ 0xFFFFFFFF#32) (hn : (s.warp w).hmode = 0)
    (h0 : (s.warp w).holds = []) (ho : ∀ e ∈ s.ops, e.2.w ≠ w)
    (t : Trap)
    (ht : t = { cause := c, sub := subs ((leadOf m).getD 0), lanes := m, word := word, fav := causeFav c, repl := false,
                recs := (lanesOf m).map (fun l => { rc l with lane := l, addr := 0 }), op := none })
    (hw : (s.setWarp w { s.warp w with holds := [t] }).writeFrame w t = .ok s1) :
    s.raise w pc word ((lanesOf m).map (fun l => ⟨l, c, subs l, 0⟩)) rc none = s1.enterLanes w t := by
  have hin : ∀ l, s.inHandler w l = false := by intro l; simp [State.inHandler, hn]
  have hfat : ((lanesOf m).map (fun l => (⟨l, c, subs l, 0⟩ : Raised))).filter (s.isFatal w) = [] := by
    rw [List.filter_eq_nil_iff]
    intro r hr
    simp only [List.mem_map] at hr
    obtain ⟨l, _, rfl⟩ := hr
    simp [State.isFatal, hf, hh, hin]
  have hls : lanesOf m ≠ [] := by
    intro h; apply hm; rw [← maskOf_lanesOf m, h]; rfl
  have hcode : lowestCode ((lanesOf m).map (fun l => (⟨l, c, subs l, 0⟩ : Raised))) = c.code := by
    apply lowestCode_const _ _ (by cases c <;> decide)
    · intro r hr
      simp only [List.mem_map] at hr
      obtain ⟨l, _, rfl⟩ := hr
      rfl
    · simpa using hls
  have hfil : ((lanesOf m).map (fun l => (⟨l, c, subs l, 0⟩ : Raised))).filter (fun r => decide (r.cause.code = c.code))
      = (lanesOf m).map (fun l => ⟨l, c, subs l, 0⟩) := by
    rw [List.filter_eq_self]
    intro r hr
    simp only [List.mem_map] at hr
    obtain ⟨l, _, rfl⟩ := hr
    simp
  obtain ⟨a, rest, hcons⟩ : ∃ a rest, lanesOf m = a :: rest := by
    cases hl : lanesOf m with
    | nil => exact absurd hl hls
    | cons a r => exact ⟨a, r, rfl⟩
  have hlead : (leadOf m).getD 0 = a := by simp [leadOf, hcons]
  have hpk : (lanesOf m).any (s.laneParked w) = false := by
    apply none_hits
    intro l _
    rw [State.laneParked]
    apply none_hits
    intro e he
    simp [ho e he]
  have hpres : (nmapFind s.warps w).isNone = false := by
    cases e : nmapFind s.warps w with
    | some _ => rfl
    | none => exact absurd (by rw [State.warp, e]; rfl) hh
  unfold State.raise
  rw [hpres, hfat]
  simp only [hcode, hfil]
  rw [hcons]
  simp only [List.map_cons]
  have hmask : maskOf (a :: List.map (fun r : Raised => r.lane) (List.map (fun l => (⟨l, c, subs l, 0⟩ : Raised)) rest)) = m := by
    have : (a :: List.map (fun r : Raised => r.lane) (List.map (fun l => (⟨l, c, subs l, 0⟩ : Raised)) rest)) = lanesOf m := by
      rw [hcons, List.map_map]; congr 1; exact List.map_id _
    rw [this, maskOf_lanesOf]
  simp only [hmask, hpk, h0, List.nil_append, if_true]
  rw [hcons, hlead] at ht
  simp only [List.map_cons] at ht
  have hq : List.map (fun q : Raised => { rc q.lane with lane := q.lane, addr := q.addr }) (List.map (fun l => (⟨l, c, subs l, 0⟩ : Raised)) rest)
      = List.map (fun l => { rc l with lane := l, addr := 0 }) rest := by rw [List.map_map]; rfl
  rw [hq, ← ht]
  unfold State.enterHandler
  simp only [setWarp_warp]
  have hmay : (s.setWarp w { s.warp w with holds := [t] }).mayEnter w t = true := by
    have h1 : ((s.setWarp w { s.warp w with holds := [t] }).ops.any (fun e => e.2.w = w && !e.2.accepted && t.op ≠ some e.1 &&
        (lanesOf (e.2.lanes &&& t.lanes)).any (fun l => (nmapFind e.2.parked l).isNone))) = false := by
      apply none_hits
      intro e he
      simp [ho e (by simpa using he)]
    rw [State.mayEnter, h1]
    simp [hn]
  have hrep : (s.setWarp w { s.warp w with holds := [t] }).withRepl w t = t := by
    have hp : (lanesOf t.lanes).any ((s.setWarp w { s.warp w with holds := [t] }).laneParked w) = false := by
      apply none_hits
      intro l _
      rw [State.laneParked]
      apply none_hits
      intro e he
      simp [ho e (by simpa using he)]
    rw [State.withRepl, hp, ht]
  rw [hrep, if_pos hmay, hw]
  rfl

/-- What is raised for the lanes that a test picks. -/
theorem filterMap_picked (xs : List Nat) (f : Nat → Option Raised) (p : Nat → Bool) (g : Nat → Raised)
    (h : ∀ l ∈ xs, f l = if p l then some (g l) else none) : xs.filterMap f = (xs.filter p).map g := by
  rw [List.filterMap_congr h]
  clear h
  induction xs with
  | nil => rfl
  | cons l _ ih => cases hp : p l <;> simp [hp, ih]

theorem lanesOf_guardMask (s : State) (h : Hdr) : lanesOf (s.activeSet h) = (lanesOf s.cur.mask).filter (s.guardTrue h s.cur.w) := by
  rw [lanesOf, lanesOf, List.filter_filter]
  congr 1
  funext l
  rw [State.activeSet, guardMask_getLsbD, Bool.and_comm]

/-- What the shared issue of an instruction does when every lane of M raises the cause `c` and nothing else holds it back. -/
theorem issueFixed_trap {s s1 : State} {h : Hdr} {ck : Check} {op : FixedOp} {c : Cause} {subs : Nat → Nat} (ci : s.CanIssue h ck)
    (hpre : ∀ l ∈ lanesOf s.cur.mask, op.pre s (s.rdFor 0 l) = none)
    (hwait : ∀ l ∈ lanesOf s.cur.mask, op.wait s (s.rdFor 0 l) = false)
    (hcause : ∀ l ∈ lanesOf (s.activeSet h), op.cause s (s.rdFor 0 l) = some (c, subs l))
    (ct : s.CanTrap h (s.trapOf h c (subs ((leadOf (s.activeSet h)).getD 0)) op.slots) s1) :
    issueFixed h ck op s = s1.enterLanes s.cur.w (s.trapOf h c (subs ((leadOf (s.activeSet h)).getD 0)) op.slots) := by
  have hr : s.readyLanes h ck .a s.cur.w s.cur.mask (fun l => op.wait s (s.rdFor 0 l)) = s.cur.mask :=
    readyLanes_eq ci.free (fun _ _ => rfl) ci.ready (fun l hl => hwait l (mem_of_guardMask hl))
  have hg : ∀ l, (s.activeSet h).getLsbD l = (s.cur.mask.getLsbD l && s.guardTrue h s.cur.w l) := fun l => guardMask_getLsbD ..
  have hc : s.issueCauses h ck (fun l => op.pre s (s.rdFor 0 l)) (fun l => (op.cause s (s.rdFor 0 l)).map (fun r => (r.1, r.2, 0)))
      s.cur.w s.cur.mask = (lanesOf (s.activeSet h)).map (fun l => ⟨l, c, subs l, 0⟩) := by
    rw [lanesOf_guardMask, State.issueCauses, filterMap_picked]
    · intro l hl
      have he : s.earlyCause h ck none s.cur.w l = none := earlyCause_none ci hl
      rw [hpre l hl, he]
      by_cases hgt : s.guardTrue h s.cur.w l = true
      · have hm : l ∈ lanesOf (s.activeSet h) := by rw [mem_lanesOf, hg, mem_lanesOf.1 hl, hgt]; rfl
        simp only [hcause l hm, hgt, if_true, Option.map_some]
      · simp [hgt]
  have hml : maskOf (((lanesOf (s.activeSet h)).map (fun l => (⟨l, c, subs l, 0⟩ : Raised))).map (·.lane)) = s.activeSet h := by
    rw [List.map_map]; exact (congrArg maskOf (List.map_id _)).trans (maskOf_lanesOf _)
  have h0 : s.guardMask h s.cur.w (s.offSet h) = 0 := by
    apply BitVec.eq_of_getLsbD_eq
    intro l hl
    rw [guardMask_getLsbD, State.offSet, BitVec.getLsbD_and, BitVec.getLsbD_not, hg]
    cases h1 : s.cur.mask.getLsbD l <;> cases h2 : s.guardTrue h s.cur.w l <;> simp
  simp only [State.rdFor] at hr hc
  have hoff : s.cur.mask &&& ~~~s.activeSet h = s.offSet h := rfl
  simp only [issueFixed, hr, hc, hml, hoff, h0]
  have e0 : lanesOf (0 : Mask) = [] := by decide
  simp only [e0, List.map_nil, List.foldl_nil, if_true]
  have e1 : s.applyWrites s.cur.w (laneWrites []) = s := rfl
  have e2 : s.orFlags s.cur.w (0 : FpFlags) = s := by simp [State.orFlags]
  have e3 : s.offSet h &&& ~~~(0 : Mask) = s.offSet h := and_not_zero _
  rw [e1, e2, e3]
  obtain ⟨_, _, _, hx⟩ := advance_warp s s h s.cur.w s.cur.pc 0 (s.offSet h)
  refine raise_trap (m := s.activeSet h) (subs := subs) ct.acts ct.cause ?_ ?_ ?_ (advance_ops_w _ _ _ _ _ _ _ ct.settled) _ rfl ct.frame
  · rw [hx]; exact ct.handler
  · rw [hx]; exact ct.normal
  · rw [hx]; exact ct.none

/-- What raising one cause for every lane of the selected set does, when the warp's handler can take it at once. -/
theorem raise_all {s s1 : State} {h : Hdr} {c : Cause} {slots : State → Rd → LaneRec} (ct : s.CanTrapAll h (s.trapAll c slots) s1) :
    (s.advance s h s.cur.w s.cur.pc 0 0).raise s.cur.w s.cur.pc s.cur.word ((lanesOf s.cur.mask).map (fun l => ⟨l, c, 0, 0⟩))
      (fun l => slots s (s.rdFor 0 l)) none = s1.enterLanes s.cur.w (s.trapAll c slots) := by
  obtain ⟨_, _, _, hx⟩ := advance_warp s s h s.cur.w s.cur.pc 0 0
  refine raise_trap (subs := fun _ => 0) ct.acts ct.cause ?_ ?_ ?_ ?_ _ rfl ?_
  · rw [hx]; exact ct.handler
  · rw [hx]; exact ct.normal
  · rw [hx]; exact ct.none
  · exact advance_ops_w s s h _ _ _ _ ct.settled
  · exact ct.frame

/-- What the shared issue of an instruction of fixed latency does when a cause that comes before the operation applies to every lane. -/
theorem issueFixed_all {s s1 : State} {h : Hdr} {ck : Check} {op : FixedOp} {c : Cause} (hok : ck.ok = true)
    (hw : ∀ l ∈ lanesOf s.cur.mask, ∀ u ∈ (if s.guardTrue h s.cur.w l then ck.uses else guardUses h), s.waitUse s.cur.w l u = false)
    (hw2 : ∀ l ∈ lanesOf s.cur.mask, op.wait s (s.rdFor 0 l) = false)
    (hp : ∀ l ∈ lanesOf s.cur.mask, op.pre s (s.rdFor 0 l) = some c) (hc : c ≠ .poison)
    (ct : s.CanTrapAll h (s.trapAll c op.slots) s1) : issueFixed h ck op s = s1.enterLanes s.cur.w (s.trapAll c op.slots) := by
  have hr : s.readyLanes h ck .a s.cur.w s.cur.mask (fun l => op.wait s (s.rdFor 0 l)) = s.cur.mask :=
    readyLanes_eq ct.free (fun _ _ => rfl) hw (fun l hl => hw2 l (mem_of_guardMask hl))
  have hcs : ∀ own, s.issueCauses h ck (fun l => op.pre s (s.rdFor 0 l)) own s.cur.w s.cur.mask
      = (lanesOf s.cur.mask).map (fun l => ⟨l, c, 0, 0⟩) := by
    intro own
    unfold State.issueCauses
    rw [← List.filterMap_eq_map]
    apply List.filterMap_congr
    intro l hl
    have hp' : op.pre s (s.rdFor 0#32 l) = some c := hp l hl
    simp [State.earlyCause, hok, hp', hc]
  simp only [State.rdFor] at hr hcs
  simp only [issueFixed, hr, hcs]
  have e0 : (s.cur.mask &&& ~~~maskOf (((lanesOf s.cur.mask).map (fun l => (⟨l, c, 0, 0⟩ : Raised))).map (·.lane))) = 0 := by
    rw [List.map_map]
    have : ((fun x : Raised => x.lane) ∘ fun l => (⟨l, c, 0, 0⟩ : Raised)) = id := rfl
    rw [this, List.map_id, maskOf_lanesOf]; simp
  have e1 : s.guardMask h s.cur.w 0 = 0 := rfl
  have e2 : lanesOf 0 = [] := rfl
  have e3 : (s.applyWrites s.cur.w (laneWrites [])).orFlags s.cur.w 0 = s := by simp [laneWrites, State.applyWrites, State.orFlags]
  simp only [e0, e1, e2, List.map_nil, List.foldl_nil, if_true, e3]
  simpa [State.rdFor] using raise_all ct

end Sys2Proof.Machine
end

