-- ==== Sys2Proof/Laws/Landed.lean ====
section
/-! SUPPORT. What registers read after writes, and where lanes stand after they have moved on (R36, R37, R57). -/

namespace Sys2Proof.Machine

open Sys2Proof.Laws

/-- Lane keys name their lane. -/
theorem laneKey_inj {w v l k : Nat} (hl : l < 32) (hk : k < 32) : laneKey v k = laneKey w l ↔ v = w ∧ k = l := by
  unfold laneKey; omega

theorem getPc_setPc (r : RegFile) (w l : Nat) (x : Word) (v k : Nat) (hl : l < 32) (hk : k < 32) :
    (r.setPc w l x).getPc v k = if v = w ∧ k = l then x else r.getPc v k := by
  simp only [RegFile.setPc, RegFile.getPc, dmapGet_set, laneKey_inj hl hk]

/-- The pcs after several lanes of a warp have been sent somewhere. -/
theorem getPc_foldl (w : Nat) (f : Nat → Word) (ls : List Nat) (r : RegFile) (v k : Nat) (hls : ∀ l ∈ ls, l < 32) (hk : k < 32) :
    (ls.foldl (fun (r : RegFile) l => r.setPc w l (f l)) r).getPc v k = if v = w ∧ k ∈ ls then f k else r.getPc v k := by
  induction ls generalizing r with
  | nil => simp
  | cons l t ih =>
    rw [List.foldl_cons, ih _ (fun j hj => hls j (List.mem_cons_of_mem _ hj)), getPc_setPc _ _ _ _ _ _ (hls l List.mem_cons_self) hk]
    by_cases h1 : v = w <;> by_cases h2 : k ∈ t <;> by_cases h3 : k = l <;> simp [h1, h2, h3]

@[simp] theorem putReg_pc (s : State) (w : Nat) (x : RegWrite) : (s.putReg w x).regs.pc = s.regs.pc := by cases x <;> rfl
@[simp] theorem unpoison_regs (s : State) (w : Nat) (x : RegWrite) : (s.unpoison w x).regs = s.regs := by
  unfold State.unpoison; split <;> rfl
@[simp] theorem applyWrite_pc (s : State) (w : Nat) (x : RegWrite) : (s.applyWrite w x).regs.pc = s.regs.pc := by simp [State.applyWrite]
@[simp] theorem applyWrites_pc (s : State) (w : Nat) (xs : List RegWrite) : (s.applyWrites w xs).regs.pc = s.regs.pc :=
  applyWrites_inv (fun s => s.regs.pc) applyWrite_pc s w xs

theorem lanesOf_lt {m : Mask} {l : Nat} (h : l ∈ lanesOf m) : l < 32 := by
  simp only [lanesOf, List.mem_filter, List.mem_range] at h; exact h.1

/-- Where the lanes stand after they have moved on: those with a false guard at pc + 1, those of M where NXT sends them (R36, R37). -/
theorem advance_getPc (s p : State) (h : Hdr) (w : Nat) (pc : Word) (m o : Mask) (v k : Nat) (hk : k < 32)
    (hw : (nmapFind s.warps w).isNone = false) :
    (s.advance p h w pc m o).regs.getPc v k =
      if v = w ∧ o.getLsbD k = true then pc + 1
      else if v = w ∧ m.getLsbD k = true then (p.nxt h w k pc).1
      else s.regs.getPc v k := by
  have e : ∀ xs, (s.applyWrites w xs).regs.getPc v k = s.regs.getPc v k := by
    intro xs; simp [RegFile.getPc]
  simp only [State.advance, hw, Bool.false_eq_true, if_false, setWarp_regs]
  rw [getPc_foldl w (fun _ => pc + 1) _ _ _ _ (fun l hl => lanesOf_lt hl) hk]
  simp only [List.foldl_map]
  rw [getPc_foldl w (fun l => (p.nxt h w l pc).1) _ _ _ _ (fun l hl => lanesOf_lt hl) hk]
  simp only [mem_lanesOf, e]

/-- The parts of the registers that sending lanes somewhere leaves alone. -/
theorem foldl_setPc_inv {α β : Type} (F : RegFile → α) (hF : ∀ (r : RegFile) w l x, F (r.setPc w l x) = F r) (w : Nat) (g : β → Nat)
    (f : β → Word) (ls : List β) (r : RegFile) : F (ls.foldl (fun (r : RegFile) b => r.setPc w (g b) (f b)) r) = F r := by
  induction ls generalizing r with
  | nil => rfl
  | cons l t ih => rw [List.foldl_cons, ih, hF]

/-- A part of the registers, other than pcs, lk and lc, after lanes have moved on. -/
theorem advance_regs_inv {α : Type} (F : RegFile → α) (hF : ∀ (r : RegFile) w l x, F (r.setPc w l x) = F r)
    (hk : ∀ (r : RegFile) w l x, F (r.setLk w l x) = F r) (hc : ∀ (r : RegFile) w l n x, F (r.setLc w l n x) = F r)
    (s p : State) (h : Hdr) (w : Nat) (pc : Word) (m o : Mask) : F (s.advance p h w pc m o).regs = F s.regs := by
  have e : ∀ (xs : List RegWrite) (t : State), (∀ x ∈ xs, (∃ l d, x = .lk l d) ∨ ∃ l n d, x = .lc l n d) → F (t.applyWrites w xs).regs = F t.regs := by
    intro xs
    induction xs with
    | nil => intros; rfl
    | cons x t ih =>
      intro u hx
      have h1 : F (u.applyWrite w x).regs = F u.regs := by
        rcases hx x List.mem_cons_self with ⟨l, d, rfl⟩ | ⟨l, n, d, rfl⟩
        · exact hk _ _ _ _
        · exact hc _ _ _ _ _
      exact (ih _ (fun y hy => hx y (List.mem_cons_of_mem _ hy))).trans h1
  unfold State.advance
  split
  · rfl
  simp only [setWarp_regs]
  rw [foldl_setPc_inv F hF w (fun l : Nat => l) (fun _ => pc + 1), foldl_setPc_inv F hF w (fun e : Nat × Word × List RegWrite => e.1) (fun e => e.2.1)]
  apply e
  intro x hx
  simp only [List.mem_flatMap, List.mem_map] at hx
  obtain ⟨q, ⟨l, _, rfl⟩, hq⟩ := hx
  simp only [State.nxt] at hq
  split at hq <;> (try split at hq) <;> simp at hq <;> subst hq
  · exact .inl ⟨_, _, rfl⟩
  · exact .inr ⟨_, _, _, rfl⟩

@[simp] theorem advance_v (s p : State) (h : Hdr) (w : Nat) (pc : Word) (m o : Mask) : (s.advance p h w pc m o).regs.v = s.regs.v :=
  advance_regs_inv (fun r => r.v) (fun _ _ _ _ => rfl) (fun _ _ _ _ => rfl) (fun _ _ _ _ _ => rfl) s p h w pc m o
@[simp] theorem advance_s (s p : State) (h : Hdr) (w : Nat) (pc : Word) (m o : Mask) : (s.advance p h w pc m o).regs.s = s.regs.s :=
  advance_regs_inv (fun r => r.s) (fun _ _ _ _ => rfl) (fun _ _ _ _ => rfl) (fun _ _ _ _ _ => rfl) s p h w pc m o
@[simp] theorem advance_p (s p : State) (h : Hdr) (w : Nat) (pc : Word) (m o : Mask) : (s.advance p h w pc m o).regs.p = s.regs.p :=
  advance_regs_inv (fun r => r.p) (fun _ _ _ _ => rfl) (fun _ _ _ _ => rfl) (fun _ _ _ _ _ => rfl) s p h w pc m o
@[simp] theorem advance_bt (s p : State) (h : Hdr) (w : Nat) (pc : Word) (m o : Mask) : (s.advance p h w pc m o).regs.bt = s.regs.bt :=
  advance_regs_inv (fun r => r.bt) (fun _ _ _ _ => rfl) (fun _ _ _ _ => rfl) (fun _ _ _ _ _ => rfl) s p h w pc m o
@[simp] theorem advance_cv (s p : State) (h : Hdr) (w : Nat) (pc : Word) (m o : Mask) : (s.advance p h w pc m o).regs.cv = s.regs.cv :=
  advance_regs_inv (fun r => r.cv) (fun _ _ _ _ => rfl) (fun _ _ _ _ => rfl) (fun _ _ _ _ _ => rfl) s p h w pc m o
@[simp] theorem advance_rng (s p : State) (h : Hdr) (w : Nat) (pc : Word) (m o : Mask) : (s.advance p h w pc m o).regs.rng = s.regs.rng :=
  advance_regs_inv (fun r => r.rng) (fun _ _ _ _ => rfl) (fun _ _ _ _ => rfl) (fun _ _ _ _ _ => rfl) s p h w pc m o
@[simp] theorem advance_hv (s p : State) (h : Hdr) (w : Nat) (pc : Word) (m o : Mask) : (s.advance p h w pc m o).regs.hv = s.regs.hv :=
  advance_regs_inv (fun r => r.hv) (fun _ _ _ _ => rfl) (fun _ _ _ _ => rfl) (fun _ _ _ _ _ => rfl) s p h w pc m o
@[simp] theorem advance_hs (s p : State) (h : Hdr) (w : Nat) (pc : Word) (m o : Mask) : (s.advance p h w pc m o).regs.hs = s.regs.hs :=
  advance_regs_inv (fun r => r.hs) (fun _ _ _ _ => rfl) (fun _ _ _ _ => rfl) (fun _ _ _ _ _ => rfl) s p h w pc m o

theorem orFlags_regs (s : State) (w : Nat) (z : FpFlags) : (s.orFlags w z).regs = s.regs := by
  unfold State.orFlags; split <;> rfl

end Sys2Proof.Machine
end

