-- ==== Sys2Proof/Laws/Memory.lean ====
section
/-! SUPPORT. Bytes written and read, and the canonical form of memory under every operation that writes it (R239, R242; log entry 3). -/

namespace Sys2Proof.Laws

open Sys2Proof.Machine

theorem putBytes_wf (m : List Host.Cell) (a : Nat) (bs : List Byte) (h : dmapWf 0 m = true) : dmapWf 0 (putBytes m a bs) = true := by
  induction bs generalizing m a with
  | nil => exact h
  | cons b t ih => exact ih _ _ (dmapWf_set 0 m a b h)

/-- A byte read after a run of bytes was written: the byte of the run, or what was there. -/
theorem get_putBytes (m : List Host.Cell) (a : Nat) (bs : List Byte) (k : Nat) :
    dmapGet 0 (putBytes m a bs) k = if a ≤ k ∧ k < a + bs.length then bs.getD (k - a) 0 else dmapGet 0 m k := by
  induction bs generalizing m a with
  | nil =>
    rw [if_neg (by simp)]; rfl
  | cons b t ih =>
    rw [putBytes, ih, dmapGet_set]
    by_cases h1 : a + 1 ≤ k ∧ k < a + 1 + t.length
    · rw [if_pos h1, if_pos (by simp; omega)]
      obtain ⟨j, rfl⟩ : ∃ j, k = a + 1 + j := ⟨k - (a + 1), by omega⟩
      simp [show a + 1 + j - (a + 1) = j by omega, show a + 1 + j - a = j + 1 by omega]
    · rw [if_neg h1]
      by_cases h2 : k = a
      · rw [if_pos h2, if_pos (by simp; omega)]
        simp [h2]
      · rw [if_neg h2, if_neg (by simp; omega)]

/-- Bytes read outside a written run are those of before. -/
theorem get_putBytes_outside (m : List Host.Cell) (a : Nat) (bs : List Byte) (k : Nat) (h : k < a ∨ a + bs.length ≤ k) :
    dmapGet 0 (putBytes m a bs) k = dmapGet 0 m k := by
  rw [get_putBytes, if_neg (by omega)]

theorem wf_iff (m : Memory) : m.wf = true ↔ dmapWf 0 m.home = true ∧ dmapWf 0 m.host = true := by
  simp [Memory.wf]

theorem writeHome_wf (s : State) (pa : Nat) (bs : List Byte) (h : s.mem.wf = true) : (s.writeHome pa bs).mem.wf = true := by
  rw [wf_iff] at *
  exact ⟨putBytes_wf _ _ _ h.1, h.2⟩

theorem writeHost_wf (s : State) (a : Nat) (bs : List Byte) (h : s.mem.wf = true) : (s.writeHost a bs).mem.wf = true := by
  rw [wf_iff] at *
  exact ⟨h.1, putBytes_wf _ _ _ h.2⟩

/-- A home write leaves every byte outside the run as it was. -/
theorem writeHome_outside (s : State) (pa : Nat) (bs : List Byte) (k : Nat)
    (h : k < s.homePa pa ∨ s.homePa pa + bs.length ≤ k) :
    dmapGet 0 (s.writeHome pa bs).mem.home k = dmapGet 0 s.mem.home k := get_putBytes_outside _ _ _ _ h

theorem reset_wf : State.reset.mem.wf = true := rfl

end Sys2Proof.Laws
end

