-- ==== Sys2Proof/Laws/PerInstr.lean ====
section
/-! SUPPORT. One family of statements about the instructions as syntax: the fields that the encoder writes are those that the decoder reads
(R35, R48, R49, R65). -/

namespace Sys2Proof.Laws

/-- An instruction's word gives back its fields; words of the emulation space and unassigned ones have none. -/
def FieldsKept.Statement (i : Instr) : Prop := hasFields i = true → ∀ w, encode i = some w → decodeFields w = some i

theorem fieldsKept_R (opc : BitVec 10) (i : Instr) (h : Hdr) (f : RForm) (e : encode i = some (encR opc h f))
    (a : isFmtI opc.toNat = false) (b : isFmtM opc.toNat = false) (c : rOfOpc opc.toNat h f = some i) : FieldsKept.Statement i := by
  intro _ w ew
  obtain rfl : encR opc h f = w := by simpa [e] using ew
  simp [decodeFields, hdrOf_encR, opcOf_encR, rOf_encR, a, b, c]

theorem fieldsKept_I (opc : BitVec 10) (i : Instr) (h : Hdr) (f : IForm) (e : encode i = some (encI opc h f))
    (a : isFmtI opc.toNat = true) (c : iOfOpc opc.toNat h f = some i) : FieldsKept.Statement i := by
  intro _ w ew
  obtain rfl : encI opc h f = w := by simpa [e] using ew
  simp [decodeFields, hdrOf_encI, opcOf_encI, iOf_encI, a, c]

theorem fieldsKept_M (opc : BitVec 10) (i : Instr) (h : Hdr) (f : MForm) (e : encode i = some (encM opc h f))
    (a : isFmtI opc.toNat = false) (b : isFmtM opc.toNat = true) (c : mOfOpc opc.toNat h f = some i) : FieldsKept.Statement i := by
  intro _ w ew
  obtain rfl : encM opc h f = w := by simpa [e] using ew
  simp [decodeFields, hdrOf_encM, opcOf_encM, mOf_encM, a, b, c]

theorem fieldsKept_none (i : Instr) (e : encode i = none) : FieldsKept.Statement i := by
  intro _ w ew
  simp [e] at ew

theorem FieldsKept.nop (h : Hdr) (f : RForm) : FieldsKept.Statement (.nop h f) := fieldsKept_R 0x000 _ h f rfl rfl rfl rfl
theorem FieldsKept.mov (h : Hdr) (f : RForm) : FieldsKept.Statement (.mov h f) := fieldsKept_R 0x001 _ h f rfl rfl rfl rfl
theorem FieldsKept.movi (h : Hdr) (f : IForm) : FieldsKept.Statement (.movi h f) := fieldsKept_I 0x002 _ h f rfl rfl rfl
theorem FieldsKept.sel (h : Hdr) (f : RForm) : FieldsKept.Statement (.sel h f) := fieldsKept_R 0x003 _ h f rfl rfl rfl rfl
theorem FieldsKept.add (h : Hdr) (f : RForm) : FieldsKept.Statement (.add h f) := fieldsKept_R 0x004 _ h f rfl rfl rfl rfl
theorem FieldsKept.addi (h : Hdr) (f : IForm) : FieldsKept.Statement (.addi h f) := fieldsKept_I 0x005 _ h f rfl rfl rfl
theorem FieldsKept.subOp (h : Hdr) (f : RForm) : FieldsKept.Statement (.subOp h f) := fieldsKept_R 0x006 _ h f rfl rfl rfl rfl
theorem FieldsKept.mul (h : Hdr) (f : RForm) : FieldsKept.Statement (.mul h f) := fieldsKept_R 0x007 _ h f rfl rfl rfl rfl
theorem FieldsKept.muli (h : Hdr) (f : IForm) : FieldsKept.Statement (.muli h f) := fieldsKept_I 0x008 _ h f rfl rfl rfl
theorem FieldsKept.mulhi (h : Hdr) (f : RForm) : FieldsKept.Statement (.mulhi h f) := fieldsKept_R 0x009 _ h f rfl rfl rfl rfl
theorem FieldsKept.mad (h : Hdr) (f : RForm) : FieldsKept.Statement (.mad h f) := fieldsKept_R 0x00A _ h f rfl rfl rfl rfl
theorem FieldsKept.madw (h : Hdr) (f : RForm) : FieldsKept.Statement (.madw h f) := fieldsKept_R 0x00B _ h f rfl rfl rfl rfl
theorem FieldsKept.absOp (h : Hdr) (f : RForm) : FieldsKept.Statement (.absOp h f) := fieldsKept_R 0x00C _ h f rfl rfl rfl rfl
theorem FieldsKept.minOp (h : Hdr) (f : RForm) : FieldsKept.Statement (.minOp h f) := fieldsKept_R 0x00D _ h f rfl rfl rfl rfl
theorem FieldsKept.maxOp (h : Hdr) (f : RForm) : FieldsKept.Statement (.maxOp h f) := fieldsKept_R 0x00E _ h f rfl rfl rfl rfl
theorem FieldsKept.andOp (h : Hdr) (f : RForm) : FieldsKept.Statement (.andOp h f) := fieldsKept_R 0x010 _ h f rfl rfl rfl rfl
theorem FieldsKept.andi (h : Hdr) (f : IForm) : FieldsKept.Statement (.andi h f) := fieldsKept_I 0x011 _ h f rfl rfl rfl
theorem FieldsKept.orOp (h : Hdr) (f : RForm) : FieldsKept.Statement (.orOp h f) := fieldsKept_R 0x012 _ h f rfl rfl rfl rfl
theorem FieldsKept.ori (h : Hdr) (f : IForm) : FieldsKept.Statement (.ori h f) := fieldsKept_I 0x013 _ h f rfl rfl rfl
theorem FieldsKept.xorOp (h : Hdr) (f : RForm) : FieldsKept.Statement (.xorOp h f) := fieldsKept_R 0x014 _ h f rfl rfl rfl rfl
theorem FieldsKept.xori (h : Hdr) (f : IForm) : FieldsKept.Statement (.xori h f) := fieldsKept_I 0x015 _ h f rfl rfl rfl
theorem FieldsKept.tern (h : Hdr) (f : RForm) : FieldsKept.Statement (.tern h f) := fieldsKept_R 0x016 _ h f rfl rfl rfl rfl
theorem FieldsKept.shl (h : Hdr) (f : RForm) : FieldsKept.Statement (.shl h f) := fieldsKept_R 0x017 _ h f rfl rfl rfl rfl
theorem FieldsKept.shr (h : Hdr) (f : RForm) : FieldsKept.Statement (.shr h f) := fieldsKept_R 0x018 _ h f rfl rfl rfl rfl
theorem FieldsKept.sar (h : Hdr) (f : RForm) : FieldsKept.Statement (.sar h f) := fieldsKept_R 0x019 _ h f rfl rfl rfl rfl
theorem FieldsKept.rot (h : Hdr) (f : RForm) : FieldsKept.Statement (.rot h f) := fieldsKept_R 0x01A _ h f rfl rfl rfl rfl
theorem FieldsKept.fsh (h : Hdr) (f : RForm) : FieldsKept.Statement (.fsh h f) := fieldsKept_R 0x01B _ h f rfl rfl rfl rfl
theorem FieldsKept.bfx (h : Hdr) (f : RForm) : FieldsKept.Statement (.bfx h f) := fieldsKept_R 0x01C _ h f rfl rfl rfl rfl
theorem FieldsKept.bfi (h : Hdr) (f : RForm) : FieldsKept.Statement (.bfi h f) := fieldsKept_R 0x01D _ h f rfl rfl rfl rfl
theorem FieldsKept.popc (h : Hdr) (f : RForm) : FieldsKept.Statement (.popc h f) := fieldsKept_R 0x01E _ h f rfl rfl rfl rfl
theorem FieldsKept.clz (h : Hdr) (f : RForm) : FieldsKept.Statement (.clz h f) := fieldsKept_R 0x01F _ h f rfl rfl rfl rfl
theorem FieldsKept.ctz (h : Hdr) (f : RForm) : FieldsKept.Statement (.ctz h f) := fieldsKept_R 0x020 _ h f rfl rfl rfl rfl
theorem FieldsKept.brev (h : Hdr) (f : RForm) : FieldsKept.Statement (.brev h f) := fieldsKept_R 0x021 _ h f rfl rfl rfl rfl
theorem FieldsKept.bsel (h : Hdr) (f : RForm) : FieldsKept.Statement (.bsel h f) := fieldsKept_R 0x022 _ h f rfl rfl rfl rfl
theorem FieldsKept.lea (h : Hdr) (f : RForm) : FieldsKept.Statement (.lea h f) := fieldsKept_R 0x023 _ h f rfl rfl rfl rfl
theorem FieldsKept.cmp (h : Hdr) (f : RForm) : FieldsKept.Statement (.cmp h f) := fieldsKept_R 0x024 _ h f rfl rfl rfl rfl
theorem FieldsKept.cmpi (h : Hdr) (f : IForm) : FieldsKept.Statement (.cmpi h f) := fieldsKept_I 0x025 _ h f rfl rfl rfl
theorem FieldsKept.plop (h : Hdr) (f : RForm) : FieldsKept.Statement (.plop h f) := fieldsKept_R 0x026 _ h f rfl rfl rfl rfl
theorem FieldsKept.p2v (h : Hdr) (f : RForm) : FieldsKept.Statement (.p2v h f) := fieldsKept_R 0x027 _ h f rfl rfl rfl rfl
theorem FieldsKept.v2p (h : Hdr) (f : RForm) : FieldsKept.Statement (.v2p h f) := fieldsKept_R 0x028 _ h f rfl rfl rfl rfl
theorem FieldsKept.cvti (h : Hdr) (f : RForm) : FieldsKept.Statement (.cvti h f) := fieldsKept_R 0x029 _ h f rfl rfl rfl rfl
theorem FieldsKept.dp4 (h : Hdr) (f : RForm) : FieldsKept.Statement (.dp4 h f) := fieldsKept_R 0x02A _ h f rfl rfl rfl rfl
theorem FieldsKept.tgt (h : Hdr) (f : IForm) : FieldsKept.Statement (.tgt h f) := fieldsKept_I 0x02C _ h f rfl rfl rfl
theorem FieldsKept.movbt (h : Hdr) (f : RForm) : FieldsKept.Statement (.movbt h f) := fieldsKept_R 0x02D _ h f rfl rfl rfl rfl
theorem FieldsKept.setlc (h : Hdr) (f : IForm) : FieldsKept.Statement (.setlc h f) := fieldsKept_I 0x02E _ h f rfl rfl rfl
theorem FieldsKept.brk (h : Hdr) (f : RForm) : FieldsKept.Statement (.brk h f) := fieldsKept_R 0x02F _ h f rfl rfl rfl rfl
theorem FieldsKept.fadd (h : Hdr) (f : RForm) : FieldsKept.Statement (.fadd h f) := fieldsKept_R 0x080 _ h f rfl rfl rfl rfl
theorem FieldsKept.faddi (h : Hdr) (f : IForm) : FieldsKept.Statement (.faddi h f) := fieldsKept_I 0x081 _ h f rfl rfl rfl
theorem FieldsKept.fmul (h : Hdr) (f : RForm) : FieldsKept.Statement (.fmul h f) := fieldsKept_R 0x082 _ h f rfl rfl rfl rfl
theorem FieldsKept.fmuli (h : Hdr) (f : IForm) : FieldsKept.Statement (.fmuli h f) := fieldsKept_I 0x083 _ h f rfl rfl rfl
theorem FieldsKept.fma (h : Hdr) (f : RForm) : FieldsKept.Statement (.fma h f) := fieldsKept_R 0x084 _ h f rfl rfl rfl rfl
theorem FieldsKept.fmin (h : Hdr) (f : RForm) : FieldsKept.Statement (.fmin h f) := fieldsKept_R 0x085 _ h f rfl rfl rfl rfl
theorem FieldsKept.fmax (h : Hdr) (f : RForm) : FieldsKept.Statement (.fmax h f) := fieldsKept_R 0x086 _ h f rfl rfl rfl rfl
theorem FieldsKept.fcmp (h : Hdr) (f : RForm) : FieldsKept.Statement (.fcmp h f) := fieldsKept_R 0x087 _ h f rfl rfl rfl rfl
theorem FieldsKept.fclass (h : Hdr) (f : RForm) : FieldsKept.Statement (.fclass h f) := fieldsKept_R 0x088 _ h f rfl rfl rfl rfl
theorem FieldsKept.frnd (h : Hdr) (f : RForm) : FieldsKept.Statement (.frnd h f) := fieldsKept_R 0x089 _ h f rfl rfl rfl rfl
theorem FieldsKept.fcvt (h : Hdr) (f : RForm) : FieldsKept.Statement (.fcvt h f) := fieldsKept_R 0x08A _ h f rfl rfl rfl rfl
theorem FieldsKept.f2i (h : Hdr) (f : RForm) : FieldsKept.Statement (.f2i h f) := fieldsKept_R 0x08B _ h f rfl rfl rfl rfl
theorem FieldsKept.i2f (h : Hdr) (f : RForm) : FieldsKept.Statement (.i2f h f) := fieldsKept_R 0x08C _ h f rfl rfl rfl rfl
theorem FieldsKept.fscale (h : Hdr) (f : RForm) : FieldsKept.Statement (.fscale h f) := fieldsKept_R 0x08D _ h f rfl rfl rfl rfl
theorem FieldsKept.fdiv (h : Hdr) (f : RForm) : FieldsKept.Statement (.fdiv h f) := fieldsKept_R 0x08E _ h f rfl rfl rfl rfl
theorem FieldsKept.fsqrt (h : Hdr) (f : RForm) : FieldsKept.Statement (.fsqrt h f) := fieldsKept_R 0x08F _ h f rfl rfl rfl rfl
theorem FieldsKept.rcp (h : Hdr) (f : RForm) : FieldsKept.Statement (.rcp h f) := fieldsKept_R 0x090 _ h f rfl rfl rfl rfl
theorem FieldsKept.rsq (h : Hdr) (f : RForm) : FieldsKept.Statement (.rsq h f) := fieldsKept_R 0x091 _ h f rfl rfl rfl rfl
theorem FieldsKept.exp2 (h : Hdr) (f : RForm) : FieldsKept.Statement (.exp2 h f) := fieldsKept_R 0x092 _ h f rfl rfl rfl rfl
theorem FieldsKept.log2 (h : Hdr) (f : RForm) : FieldsKept.Statement (.log2 h f) := fieldsKept_R 0x093 _ h f rfl rfl rfl rfl
theorem FieldsKept.sin (h : Hdr) (f : RForm) : FieldsKept.Statement (.sin h f) := fieldsKept_R 0x094 _ h f rfl rfl rfl rfl
theorem FieldsKept.cos (h : Hdr) (f : RForm) : FieldsKept.Statement (.cos h f) := fieldsKept_R 0x095 _ h f rfl rfl rfl rfl
theorem FieldsKept.tanh (h : Hdr) (f : RForm) : FieldsKept.Statement (.tanh h f) := fieldsKept_R 0x096 _ h f rfl rfl rfl rfl
theorem FieldsKept.fma2 (h : Hdr) (f : RForm) : FieldsKept.Statement (.fma2 h f) := fieldsKept_R 0x097 _ h f rfl rfl rfl rfl
theorem FieldsKept.fadd2 (h : Hdr) (f : RForm) : FieldsKept.Statement (.fadd2 h f) := fieldsKept_R 0x098 _ h f rfl rfl rfl rfl
theorem FieldsKept.fmul2 (h : Hdr) (f : RForm) : FieldsKept.Statement (.fmul2 h f) := fieldsKept_R 0x099 _ h f rfl rfl rfl rfl
theorem FieldsKept.fdot2 (h : Hdr) (f : RForm) : FieldsKept.Statement (.fdot2 h f) := fieldsKept_R 0x09A _ h f rfl rfl rfl rfl
theorem FieldsKept.qnt (h : Hdr) (f : RForm) : FieldsKept.Statement (.qnt h f) := fieldsKept_R 0x100 _ h f rfl rfl rfl rfl
theorem FieldsKept.dqnt (h : Hdr) (f : RForm) : FieldsKept.Statement (.dqnt h f) := fieldsKept_R 0x101 _ h f rfl rfl rfl rfl
theorem FieldsKept.pack (h : Hdr) (f : RForm) : FieldsKept.Statement (.pack h f) := fieldsKept_R 0x102 _ h f rfl rfl rfl rfl
theorem FieldsKept.unpk (h : Hdr) (f : RForm) : FieldsKept.Statement (.unpk h f) := fieldsKept_R 0x103 _ h f rfl rfl rfl rfl
theorem FieldsKept.spx (h : Hdr) (f : RForm) : FieldsKept.Statement (.spx h f) := fieldsKept_R 0x104 _ h f rfl rfl rfl rfl
theorem FieldsKept.spexp (h : Hdr) (f : RForm) : FieldsKept.Statement (.spexp h f) := fieldsKept_R 0x105 _ h f rfl rfl rfl rfl
theorem FieldsKept.cvset (h : Hdr) (f : RForm) : FieldsKept.Statement (.cvset h f) := fieldsKept_R 0x140 _ h f rfl rfl rfl rfl
theorem FieldsKept.cvget (h : Hdr) (f : RForm) : FieldsKept.Statement (.cvget h f) := fieldsKept_R 0x141 _ h f rfl rfl rfl rfl
theorem FieldsKept.shfl (h : Hdr) (f : RForm) : FieldsKept.Statement (.shfl h f) := fieldsKept_R 0x142 _ h f rfl rfl rfl rfl
theorem FieldsKept.vote (h : Hdr) (f : RForm) : FieldsKept.Statement (.vote h f) := fieldsKept_R 0x143 _ h f rfl rfl rfl rfl
theorem FieldsKept.ballot (h : Hdr) (f : RForm) : FieldsKept.Statement (.ballot h f) := fieldsKept_R 0x144 _ h f rfl rfl rfl rfl
theorem FieldsKept.matchOp (h : Hdr) (f : RForm) : FieldsKept.Statement (.matchOp h f) := fieldsKept_R 0x145 _ h f rfl rfl rfl rfl
theorem FieldsKept.redux (h : Hdr) (f : RForm) : FieldsKept.Statement (.redux h f) := fieldsKept_R 0x146 _ h f rfl rfl rfl rfl
theorem FieldsKept.fredux (h : Hdr) (f : RForm) : FieldsKept.Statement (.fredux h f) := fieldsKept_R 0x147 _ h f rfl rfl rfl rfl
theorem FieldsKept.prefixOp (h : Hdr) (f : RForm) : FieldsKept.Statement (.prefixOp h f) := fieldsKept_R 0x148 _ h f rfl rfl rfl rfl
theorem FieldsKept.actmask (h : Hdr) (f : RForm) : FieldsKept.Statement (.actmask h f) := fieldsKept_R 0x149 _ h f rfl rfl rfl rfl
theorem FieldsKept.yield (h : Hdr) (f : RForm) : FieldsKept.Statement (.yield h f) := fieldsKept_R 0x14A _ h f rfl rfl rfl rfl
theorem FieldsKept.pause (h : Hdr) (f : RForm) : FieldsKept.Statement (.pause h f) := fieldsKept_R 0x14B _ h f rfl rfl rfl rfl
theorem FieldsKept.nnsend (h : Hdr) (f : RForm) : FieldsKept.Statement (.nnsend h f) := fieldsKept_R 0x14C _ h f rfl rfl rfl rfl
theorem FieldsKept.nnrecv (h : Hdr) (f : RForm) : FieldsKept.Statement (.nnrecv h f) := fieldsKept_R 0x14D _ h f rfl rfl rfl rfl
theorem FieldsKept.lres (h : Hdr) (f : RForm) : FieldsKept.Statement (.lres h f) := fieldsKept_R 0x180 _ h f rfl rfl rfl rfl
theorem FieldsKept.lrel (h : Hdr) (f : RForm) : FieldsKept.Statement (.lrel h f) := fieldsKept_R 0x181 _ h f rfl rfl rfl rfl
theorem FieldsKept.lld (h : Hdr) (f : RForm) : FieldsKept.Statement (.lld h f) := fieldsKept_R 0x182 _ h f rfl rfl rfl rfl
theorem FieldsKept.ldt4 (h : Hdr) (f : RForm) : FieldsKept.Statement (.ldt4 h f) := fieldsKept_R 0x183 _ h f rfl rfl rfl rfl
theorem FieldsKept.mma (h : Hdr) (f : RForm) : FieldsKept.Statement (.mma h f) := fieldsKept_R 0x184 _ h f rfl rfl rfl rfl
theorem FieldsKept.mmaq (h : Hdr) (f : RForm) : FieldsKept.Statement (.mmaq h f) := fieldsKept_R 0x185 _ h f rfl rfl rfl rfl
theorem FieldsKept.accz (h : Hdr) (f : RForm) : FieldsKept.Statement (.accz h f) := fieldsKept_R 0x186 _ h f rfl rfl rfl rfl
theorem FieldsKept.accrd (h : Hdr) (f : RForm) : FieldsKept.Statement (.accrd h f) := fieldsKept_R 0x187 _ h f rfl rfl rfl rfl
theorem FieldsKept.accwr (h : Hdr) (f : RForm) : FieldsKept.Statement (.accwr h f) := fieldsKept_R 0x188 _ h f rfl rfl rfl rfl
theorem FieldsKept.accout (h : Hdr) (f : RForm) : FieldsKept.Statement (.accout h f) := fieldsKept_R 0x189 _ h f rfl rfl rfl rfl
theorem FieldsKept.accin (h : Hdr) (f : RForm) : FieldsKept.Statement (.accin h f) := fieldsKept_R 0x18A _ h f rfl rfl rfl rfl
theorem FieldsKept.lstat (h : Hdr) (f : RForm) : FieldsKept.Statement (.lstat h f) := fieldsKept_R 0x18B _ h f rfl rfl rfl rfl
theorem FieldsKept.ld (h : Hdr) (f : MForm) : FieldsKept.Statement (.ld h f) := fieldsKept_M 0x1C0 _ h f rfl rfl rfl rfl
theorem FieldsKept.st (h : Hdr) (f : MForm) : FieldsKept.Statement (.st h f) := fieldsKept_M 0x1C1 _ h f rfl rfl rfl rfl
theorem FieldsKept.ldmc (h : Hdr) (f : MForm) : FieldsKept.Statement (.ldmc h f) := fieldsKept_M 0x1C2 _ h f rfl rfl rfl rfl
theorem FieldsKept.atom (h : Hdr) (f : RForm) : FieldsKept.Statement (.atom h f) := fieldsKept_R 0x1C3 _ h f rfl rfl rfl rfl
theorem FieldsKept.red (h : Hdr) (f : RForm) : FieldsKept.Statement (.red h f) := fieldsKept_R 0x1C4 _ h f rfl rfl rfl rfl
theorem FieldsKept.cas (h : Hdr) (f : RForm) : FieldsKept.Statement (.cas h f) := fieldsKept_R 0x1C5 _ h f rfl rfl rfl rfl
theorem FieldsKept.fence (h : Hdr) (f : RForm) : FieldsKept.Statement (.fence h f) := fieldsKept_R 0x1C6 _ h f rfl rfl rfl rfl
theorem FieldsKept.prfm (h : Hdr) (f : MForm) : FieldsKept.Statement (.prfm h f) := fieldsKept_M 0x1C7 _ h f rfl rfl rfl rfl
theorem FieldsKept.cctl (h : Hdr) (f : RForm) : FieldsKept.Statement (.cctl h f) := fieldsKept_R 0x1C8 _ h f rfl rfl rfl rfl
theorem FieldsKept.feset (h : Hdr) (f : RForm) : FieldsKept.Statement (.feset h f) := fieldsKept_R 0x1C9 _ h f rfl rfl rfl rfl
theorem FieldsKept.feqry (h : Hdr) (f : RForm) : FieldsKept.Statement (.feqry h f) := fieldsKept_R 0x1CA _ h f rfl rfl rfl rfl
theorem FieldsKept.mcjoin (h : Hdr) (f : RForm) : FieldsKept.Statement (.mcjoin h f) := fieldsKept_R 0x1CB _ h f rfl rfl rfl rfl
theorem FieldsKept.mcleave (h : Hdr) (f : RForm) : FieldsKept.Statement (.mcleave h f) := fieldsKept_R 0x1CC _ h f rfl rfl rfl rfl
theorem FieldsKept.acinit (h : Hdr) (f : RForm) : FieldsKept.Statement (.acinit h f) := fieldsKept_R 0x1CD _ h f rfl rfl rfl rfl
theorem FieldsKept.arrive (h : Hdr) (f : RForm) : FieldsKept.Statement (.arrive h f) := fieldsKept_R 0x1CE _ h f rfl rfl rfl rfl
theorem FieldsKept.acfree (h : Hdr) (f : RForm) : FieldsKept.Statement (.acfree h f) := fieldsKept_R 0x1CF _ h f rfl rfl rfl rfl
theorem FieldsKept.cpy (h : Hdr) (f : RForm) : FieldsKept.Statement (.cpy h f) := fieldsKept_R 0x1D0 _ h f rfl rfl rfl rfl
theorem FieldsKept.xform (h : Hdr) (f : RForm) : FieldsKept.Statement (.xform h f) := fieldsKept_R 0x1D1 _ h f rfl rfl rfl rfl
theorem FieldsKept.tld (h : Hdr) (f : RForm) : FieldsKept.Statement (.tld h f) := fieldsKept_R 0x1D2 _ h f rfl rfl rfl rfl
theorem FieldsKept.tst (h : Hdr) (f : RForm) : FieldsKept.Statement (.tst h f) := fieldsKept_R 0x1D3 _ h f rfl rfl rfl rfl
theorem FieldsKept.pkld (h : Hdr) (f : RForm) : FieldsKept.Statement (.pkld h f) := fieldsKept_R 0x1D4 _ h f rfl rfl rfl rfl
theorem FieldsKept.pkst (h : Hdr) (f : RForm) : FieldsKept.Statement (.pkst h f) := fieldsKept_R 0x1D5 _ h f rfl rfl rfl rfl
theorem FieldsKept.glaunch (h : Hdr) (f : RForm) : FieldsKept.Statement (.glaunch h f) := fieldsKept_R 0x240 _ h f rfl rfl rfl rfl
theorem FieldsKept.tdone (h : Hdr) (f : RForm) : FieldsKept.Statement (.tdone h f) := fieldsKept_R 0x241 _ h f rfl rfl rfl rfl
theorem FieldsKept.racq (h : Hdr) (f : RForm) : FieldsKept.Statement (.racq h f) := fieldsKept_R 0x242 _ h f rfl rfl rfl rfl
theorem FieldsKept.rfill (h : Hdr) (f : RForm) : FieldsKept.Statement (.rfill h f) := fieldsKept_R 0x243 _ h f rfl rfl rfl rfl
theorem FieldsKept.rtake (h : Hdr) (f : RForm) : FieldsKept.Statement (.rtake h f) := fieldsKept_R 0x244 _ h f rfl rfl rfl rfl
theorem FieldsKept.rfree (h : Hdr) (f : RForm) : FieldsKept.Statement (.rfree h f) := fieldsKept_R 0x245 _ h f rfl rfl rfl rfl
theorem FieldsKept.reord (h : Hdr) (f : RForm) : FieldsKept.Statement (.reord h f) := fieldsKept_R 0x246 _ h f rfl rfl rfl rfl
theorem FieldsKept.rtnext (h : Hdr) (f : RForm) : FieldsKept.Statement (.rtnext h f) := fieldsKept_R 0x247 _ h f rfl rfl rfl rfl
theorem FieldsKept.cutsel (h : Hdr) (f : RForm) : FieldsKept.Statement (.cutsel h f) := fieldsKept_R 0x280 _ h f rfl rfl rfl rfl
theorem FieldsKept.shdec (h : Hdr) (f : RForm) : FieldsKept.Statement (.shdec h f) := fieldsKept_R 0x281 _ h f rfl rfl rfl rfl
theorem FieldsKept.tex (h : Hdr) (f : RForm) : FieldsKept.Statement (.tex h f) := fieldsKept_R 0x282 _ h f rfl rfl rfl rfl
theorem FieldsKept.texg (h : Hdr) (f : RForm) : FieldsKept.Statement (.texg h f) := fieldsKept_R 0x283 _ h f rfl rfl rfl rfl
theorem FieldsKept.texq (h : Hdr) (f : RForm) : FieldsKept.Statement (.texq h f) := fieldsKept_R 0x284 _ h f rfl rfl rfl rfl
theorem FieldsKept.texld (h : Hdr) (f : RForm) : FieldsKept.Statement (.texld h f) := fieldsKept_R 0x285 _ h f rfl rfl rfl rfl
theorem FieldsKept.iattr (h : Hdr) (f : RForm) : FieldsKept.Statement (.iattr h f) := fieldsKept_R 0x286 _ h f rfl rfl rfl rfl
theorem FieldsKept.fout (h : Hdr) (f : RForm) : FieldsKept.Statement (.fout h f) := fieldsKept_R 0x287 _ h f rfl rfl rfl rfl
theorem FieldsKept.rayq (h : Hdr) (f : RForm) : FieldsKept.Statement (.rayq h f) := fieldsKept_R 0x288 _ h f rfl rfl rfl rfl
theorem FieldsKept.primemit (h : Hdr) (f : RForm) : FieldsKept.Statement (.primemit h f) := fieldsKept_R 0x289 _ h f rfl rfl rfl rfl
theorem FieldsKept.rdsr (h : Hdr) (f : RForm) : FieldsKept.Statement (.rdsr h f) := fieldsKept_R 0x2C0 _ h f rfl rfl rfl rfl
theorem FieldsKept.wrsr (h : Hdr) (f : RForm) : FieldsKept.Statement (.wrsr h f) := fieldsKept_R 0x2C1 _ h f rfl rfl rfl rfl
theorem FieldsKept.trap (h : Hdr) (f : RForm) : FieldsKept.Statement (.trap h f) := fieldsKept_R 0x2C2 _ h f rfl rfl rfl rfl
theorem FieldsKept.rft (h : Hdr) (f : RForm) : FieldsKept.Statement (.rft h f) := fieldsKept_R 0x2C3 _ h f rfl rfl rfl rfl
theorem FieldsKept.wrir (h : Hdr) (f : RForm) : FieldsKept.Statement (.wrir h f) := fieldsKept_R 0x2C4 _ h f rfl rfl rfl rfl
theorem FieldsKept.rdir (h : Hdr) (f : RForm) : FieldsKept.Statement (.rdir h f) := fieldsKept_R 0x2C5 _ h f rfl rfl rfl rfl
theorem FieldsKept.idiv (w : IWord) : FieldsKept.Statement (.idiv w) := fun e => nomatch e
theorem FieldsKept.irem (w : IWord) : FieldsKept.Statement (.irem w) := fun e => nomatch e
theorem FieldsKept.unassignedOpcode (w : IWord) : FieldsKept.Statement (.unassignedOpcode w) := fun e => nomatch e
theorem FieldsKept.rotationSlot (w : Nat) : FieldsKept.Statement (.rotationSlot w) := fieldsKept_none _ rfl
theorem FieldsKept.warpAged (w : Nat) : FieldsKept.Statement (.warpAged w) := fieldsKept_none _ rfl
theorem FieldsKept.yieldPeriodEnd (w : Nat) : FieldsKept.Statement (.yieldPeriodEnd w) := fieldsKept_none _ rfl
theorem FieldsKept.demotionEnd (w : Nat) : FieldsKept.Statement (.demotionEnd w) := fieldsKept_none _ rfl
theorem FieldsKept.laneExit (w : Nat) (l : Nat) : FieldsKept.Statement (.laneExit w l) := fieldsKept_none _ rfl
theorem FieldsKept.loadCompletion (op : Nat) : FieldsKept.Statement (.loadCompletion op) := fieldsKept_none _ rfl
theorem FieldsKept.fullEmptyWaitEnd (op : Nat) (l : Nat) : FieldsKept.Statement (.fullEmptyWaitEnd op l) := fieldsKept_none _ rfl
theorem FieldsKept.lldCompletion (op : Nat) : FieldsKept.Statement (.lldCompletion op) := fieldsKept_none _ rfl
theorem FieldsKept.matrixSliceStart (cid : Nat) (q : Nat) : FieldsKept.Statement (.matrixSliceStart cid q) := fieldsKept_none _ rfl
theorem FieldsKept.mmaCompletion (cid : Nat) (q : Nat) : FieldsKept.Statement (.mmaCompletion cid q) := fieldsKept_none _ rfl
theorem FieldsKept.ringWaitEnd (op : Nat) : FieldsKept.Statement (.ringWaitEnd op) := fieldsKept_none _ rfl
theorem FieldsKept.tileIndexTake (op : Nat) : FieldsKept.Statement (.tileIndexTake op) := fieldsKept_none _ rfl
theorem FieldsKept.engineJobAccept (op : Nat) : FieldsKept.Statement (.engineJobAccept op) := fieldsKept_none _ rfl
theorem FieldsKept.engineLineWrite (job : Nat) : FieldsKept.Statement (.engineLineWrite job) := fieldsKept_none _ rfl
theorem FieldsKept.engineJobCompletion (job : Nat) : FieldsKept.Statement (.engineJobCompletion job) := fieldsKept_none _ rfl
theorem FieldsKept.collectiveReduction (ctx : Nat) (gid : Nat) : FieldsKept.Statement (.collectiveReduction ctx gid) := fieldsKept_none _ rfl
theorem FieldsKept.cutselJobAccept (op : Nat) : FieldsKept.Statement (.cutselJobAccept op) := fieldsKept_none _ rfl
theorem FieldsKept.cutselJobEnd (job : Nat) : FieldsKept.Statement (.cutselJobEnd job) := fieldsKept_none _ rfl
theorem FieldsKept.rayQueryCompletion (op : Nat) (l : Nat) : FieldsKept.Statement (.rayQueryCompletion op l) := fieldsKept_none _ rfl
theorem FieldsKept.multicastAsk (op : Nat) (l : Nat) : FieldsKept.Statement (.multicastAsk op l) := fieldsKept_none _ rfl
theorem FieldsKept.holdTimerExpiry (rec : Nat) : FieldsKept.Statement (.holdTimerExpiry rec) := fieldsKept_none _ rfl
theorem FieldsKept.multicastHeldPartLand (rec : Nat) : FieldsKept.Statement (.multicastHeldPartLand rec) := fieldsKept_none _ rfl
theorem FieldsKept.mcjoinDrainEnd (op : Nat) : FieldsKept.Statement (.mcjoinDrainEnd op) := fieldsKept_none _ rfl
theorem FieldsKept.neighbourEntryArrival (cid : Nat) (dir : Nat) : FieldsKept.Statement (.neighbourEntryArrival cid dir) := fieldsKept_none _ rfl
theorem FieldsKept.reorderDrain (cid : Nat) : FieldsKept.Statement (.reorderDrain cid) := fieldsKept_none _ rfl
theorem FieldsKept.reorderTimerExpiry (cid : Nat) : FieldsKept.Statement (.reorderTimerExpiry cid) := fieldsKept_none _ rfl
theorem FieldsKept.triangleSetup (stack : Nat) : FieldsKept.Statement (.triangleSetup stack) := fieldsKept_none _ rfl
theorem FieldsKept.tileListEntry (q : Nat) : FieldsKept.Statement (.tileListEntry q) := fieldsKept_none _ rfl
theorem FieldsKept.rasterTileProcess (graph : Nat) (pass : Nat) (tile : Nat) : FieldsKept.Statement (.rasterTileProcess graph pass tile) := fieldsKept_none _ rfl
theorem FieldsKept.colourTileWriteback (graph : Nat) (pass : Nat) (tile : Nat) : FieldsKept.Statement (.colourTileWriteback graph pass tile) := fieldsKept_none _ rfl
theorem FieldsKept.displayDeadline (plane : Nat) : FieldsKept.Statement (.displayDeadline plane) := fieldsKept_none _ rfl
theorem FieldsKept.queueNop (q : Nat) : FieldsKept.Statement (.queueNop q) := fieldsKept_none _ rfl
theorem FieldsKept.queueSubmit (q : Nat) : FieldsKept.Statement (.queueSubmit q) := fieldsKept_none _ rfl
theorem FieldsKept.queueWait (q : Nat) : FieldsKept.Statement (.queueWait q) := fieldsKept_none _ rfl
theorem FieldsKept.queueSignal (q : Nat) : FieldsKept.Statement (.queueSignal q) := fieldsKept_none _ rfl
theorem FieldsKept.graphAdmission (adm : Nat) : FieldsKept.Statement (.graphAdmission adm) := fieldsKept_none _ rfl
theorem FieldsKept.launchQueueAccept (op : Nat) : FieldsKept.Statement (.launchQueueAccept op) := fieldsKept_none _ rfl
theorem FieldsKept.queueDoorbell (q : Nat) (v : Word) : FieldsKept.Statement (.queueDoorbell q v) := fieldsKept_none _ rfl
theorem FieldsKept.queueEnable (q : Nat) (v : Word) : FieldsKept.Statement (.queueEnable q v) := fieldsKept_none _ rfl
theorem FieldsKept.queueDisable (q : Nat) (v : Word) : FieldsKept.Statement (.queueDisable q v) := fieldsKept_none _ rfl
theorem FieldsKept.contextCreate (c : Nat) (v : Word) : FieldsKept.Statement (.contextCreate c v) := fieldsKept_none _ rfl
theorem FieldsKept.contextEnd (c : Nat) (v : Word) : FieldsKept.Statement (.contextEnd c v) := fieldsKept_none _ rfl
theorem FieldsKept.contextTeardownComplete (c : Nat) : FieldsKept.Statement (.contextTeardownComplete c) := fieldsKept_none _ rfl
theorem FieldsKept.invalidationStart (serial : Word) : FieldsKept.Statement (.invalidationStart serial) := fieldsKept_none _ rfl
theorem FieldsKept.invalidationComplete : FieldsKept.Statement (.invalidationComplete) := fieldsKept_none _ rfl
theorem FieldsKept.pageWalk (ctx : Nat) (va : Nat) (acc : AccKind) : FieldsKept.Statement (.pageWalk ctx va acc) := fieldsKept_none _ rfl
theorem FieldsKept.faultRecordWrite : FieldsKept.Statement (.faultRecordWrite) := fieldsKept_none _ rfl
theorem FieldsKept.faultBufferTail (v : Word) : FieldsKept.Statement (.faultBufferTail v) := fieldsKept_none _ rfl
theorem FieldsKept.replayRetry (v : BitVec 64) : FieldsKept.Statement (.replayRetry v) := fieldsKept_none _ rfl
theorem FieldsKept.replayFail (v : BitVec 64) : FieldsKept.Statement (.replayFail v) := fieldsKept_none _ rfl
theorem FieldsKept.errorBufferTail (v : Word) : FieldsKept.Statement (.errorBufferTail v) := fieldsKept_none _ rfl
theorem FieldsKept.correctableError (e : ErrSite) : FieldsKept.Statement (.correctableError e) := fieldsKept_none _ rfl
theorem FieldsKept.uncorrectableError (e : ErrSite) : FieldsKept.Statement (.uncorrectableError e) := fieldsKept_none _ rfl
theorem FieldsKept.trapEntry (w : Nat) : FieldsKept.Statement (.trapEntry w) := fieldsKept_none _ rfl
theorem FieldsKept.waitWatchdogFire (w : Nat) : FieldsKept.Statement (.waitWatchdogFire w) := fieldsKept_none _ rfl
theorem FieldsKept.preemptRequest (v : Word) : FieldsKept.Statement (.preemptRequest v) := fieldsKept_none _ rfl
theorem FieldsKept.resumeRequest (v : Word) : FieldsKept.Statement (.resumeRequest v) := fieldsKept_none _ rfl
theorem FieldsKept.preemptHalt (c : Nat) : FieldsKept.Statement (.preemptHalt c) := fieldsKept_none _ rfl
theorem FieldsKept.mailboxReport : FieldsKept.Statement (.mailboxReport) := fieldsKept_none _ rfl
theorem FieldsKept.mailboxIdentityKey : FieldsKept.Statement (.mailboxIdentityKey) := fieldsKept_none _ rfl
theorem FieldsKept.mailboxRetirementList : FieldsKept.Statement (.mailboxRetirementList) := fieldsKept_none _ rfl
theorem FieldsKept.mailboxProceed (env : BootEnv) : FieldsKept.Statement (.mailboxProceed env) := fieldsKept_none _ rfl
theorem FieldsKept.powerOn (images : List (List Byte)) : FieldsKept.Statement (.powerOn images) := fieldsKept_none _ rfl
theorem FieldsKept.configurationTimeout (env : BootEnv) : FieldsKept.Statement (.configurationTimeout env) := fieldsKept_none _ rfl
theorem FieldsKept.fundamentalReset : FieldsKept.Statement (.fundamentalReset) := fieldsKept_none _ rfl
theorem FieldsKept.functionLevelReset : FieldsKept.Statement (.functionLevelReset) := fieldsKept_none _ rfl
theorem FieldsKept.modebootWrite (v : Word) : FieldsKept.Statement (.modebootWrite v) := fieldsKept_none _ rfl
theorem FieldsKept.moderunWrite (v : Word) : FieldsKept.Statement (.moderunWrite v) := fieldsKept_none _ rfl
theorem FieldsKept.linkDrop (port : Nat) : FieldsKept.Statement (.linkDrop port) := fieldsKept_none _ rfl
theorem FieldsKept.linkRetrain (port : Nat) : FieldsKept.Statement (.linkRetrain port) := fieldsKept_none _ rfl
theorem FieldsKept.bankSensorRead (stack : Nat) (reads : List BankReading) : FieldsKept.Statement (.bankSensorRead stack reads) := fieldsKept_none _ rfl
theorem FieldsKept.hotspotSensorRead (stack : Nat) (reads : List (Nat × Int)) : FieldsKept.Statement (.hotspotSensorRead stack reads) := fieldsKept_none _ rfl
theorem FieldsKept.powerLoss : FieldsKept.Statement (.powerLoss) := fieldsKept_none _ rfl
theorem FieldsKept.bankRefresh (cid : Nat) (bank : Nat) : FieldsKept.Statement (.bankRefresh cid bank) := fieldsKept_none _ rfl
theorem FieldsKept.refreshEnd (cid : Nat) (bank : Nat) : FieldsKept.Statement (.refreshEnd cid bank) := fieldsKept_none _ rfl
theorem FieldsKept.governorStep (watts : Nat) : FieldsKept.Statement (.governorStep watts) := fieldsKept_none _ rfl
theorem FieldsKept.promotionEpochEnd (stack : Nat) : FieldsKept.Statement (.promotionEpochEnd stack) := fieldsKept_none _ rfl
theorem FieldsKept.pagePromotion (stack : Nat) (frame : Nat) : FieldsKept.Statement (.pagePromotion stack frame) := fieldsKept_none _ rfl
theorem FieldsKept.promotionSwitch (stack : Nat) (frame : Nat) : FieldsKept.Statement (.promotionSwitch stack frame) := fieldsKept_none _ rfl
theorem FieldsKept.pageDemotion (stack : Nat) (frame : Nat) : FieldsKept.Statement (.pageDemotion stack frame) := fieldsKept_none _ rfl
theorem FieldsKept.blockWorldChange (b : BlockId) (secure : Bool) : FieldsKept.Statement (.blockWorldChange b secure) := fieldsKept_none _ rfl
theorem FieldsKept.hostBar2Access (write : Bool) (addr : Nat) (n : Nat) (data : List Byte) : FieldsKept.Statement (.hostBar2Access write addr n data) := fieldsKept_none _ rfl
theorem FieldsKept.l1Eviction (cid : Nat) (line : Nat) : FieldsKept.Statement (.l1Eviction cid line) := fieldsKept_none _ rfl
theorem FieldsKept.registerWrite (off : Nat) (v : BitVec 64) (wide : Bool) : FieldsKept.Statement (.registerWrite off v wide) := fieldsKept_none _ rfl
theorem FieldsKept.fetchBeyondCodeSegment : FieldsKept.Statement (.fetchBeyondCodeSegment) := fieldsKept_none _ rfl

end Sys2Proof.Laws
end

