-- ==== Sys2Proof/Laws/Save.lean ====
section
/-! SUPPORT. What the writing of a save area and the saving of a context leave as they were (R386, R390). -/

namespace Sys2Proof.Laws

open Sys2Proof.Machine

/-- A long write changes memory only. -/
theorem writeLong_eq (n : Nat) (s : State) (pa : Nat) (bs : List Byte) : ∃ m, s.writeLong pa n bs = { s with mem := m } := by
  induction n generalizing s pa bs with
  | zero => exact ⟨s.mem, rfl⟩
  | succ k ih =>
    simp only [State.writeLong]
    split
    · exact ⟨s.mem, rfl⟩
    · obtain ⟨m, h⟩ := ih (s.writeHome pa (bs.take (32 - pa % 32))) (pa + (32 - pa % 32)) (bs.drop (32 - pa % 32))
      exact ⟨m, h⟩

/-- An image written changes memory and the counter of the free values only. -/
theorem putImage_eq (s : State) (pa n : Nat) : ∃ m, s.putImage pa n = { s with mem := m, free := s.free + 1 } := by
  unfold State.putImage
  generalize (Config.saveImage s.free).take (16 * n) = bs
  obtain ⟨m, h⟩ := writeLong_eq n s pa bs
  exact ⟨m, by rw [h]⟩

/-- The writing of a save area changes memory and the counter of the free values only. -/
theorem writeSave_eq (s : State) (c : Nat) : ∃ m n, s.writeSave c = { s with mem := m, free := n } := by
  have each (f : Nat → Nat) (n : Nat) (ks : List Nat) :
      ∀ t : State, ∃ m k, ks.foldl (fun (t : State) k => t.putImage (f k) n) t = { t with mem := m, free := k } := by
    induction ks with
    | nil => exact fun t => ⟨t.mem, t.free, rfl⟩
    | cons k rest ih =>
      intro t
      obtain ⟨m, e⟩ := putImage_eq t (f k) n
      obtain ⟨m', k', e'⟩ := ih (t.putImage (f k) n)
      exact ⟨m', k', by rw [List.foldl_cons, e', e]⟩
  unfold State.writeSave
  obtain ⟨m, n, e⟩ := each (fun k => s.cardNo * 2 ^ 50 + (s.ctx c).savebase.toNat + 2 ^ 22 * k) (2 ^ 18)
    (dedupNat ((partsOf (s.wgs.filter (fun e => e.2.ctx = c))).map (·.cid))) s
  simp only at e ⊢
  rw [e]
  obtain ⟨m', h⟩ := putImage_eq { s with mem := m, free := n } (s.cardNo * 2 ^ 50 + (s.ctx c).savebase.toNat + 768 * 2 ^ 20) (2 ^ 22)
  exact ⟨m', n + 1, h⟩

/-- Saving a context leaves the card's registers as they were. -/
@[simp] theorem saveCtx_card (s : State) (c : Nat) : (s.saveCtx c).card = s.card := by
  obtain ⟨m, n, e⟩ := writeSave_eq s c
  simp only [State.saveCtx, e]

end Sys2Proof.Laws
end

