-- ==== Sys2Proof/Laws/Units.lean ====
section
/-! SUPPORT. One lemma for each field of State under the updates of jobs, cut selections, graphs, queues and worlds. -/

namespace Sys2Proof.Laws

open Sys2Proof.Machine

@[simp] theorem setJob_agenda (s : State) (id : Nat) (j : Job) : (s.setJob id j).agenda = s.agenda := rfl
@[simp] theorem setJob_free (s : State) (id : Nat) (j : Job) : (s.setJob id j).free = s.free := rfl
@[simp] theorem setJob_cur (s : State) (id : Nat) (j : Job) : (s.setJob id j).cur = s.cur := rfl
@[simp] theorem setJob_serial (s : State) (id : Nat) (j : Job) : (s.setJob id j).serial = s.serial := rfl
@[simp] theorem setJob_regs (s : State) (id : Nat) (j : Job) : (s.setJob id j).regs = s.regs := rfl
@[simp] theorem setJob_warps (s : State) (id : Nat) (j : Job) : (s.setJob id j).warps = s.warps := rfl
@[simp] theorem setJob_signs (s : State) (id : Nat) (j : Job) : (s.setJob id j).signs = s.signs := rfl
@[simp] theorem setJob_ops (s : State) (id : Nat) (j : Job) : (s.setJob id j).ops = s.ops := rfl
@[simp] theorem setJob_wgs (s : State) (id : Nat) (j : Job) : (s.setJob id j).wgs = s.wgs := rfl
@[simp] theorem setJob_cores (s : State) (id : Nat) (j : Job) : (s.setJob id j).cores = s.cores := rfl
@[simp] theorem setJob_mem (s : State) (id : Nat) (j : Job) : (s.setJob id j).mem = s.mem := rfl
@[simp] theorem setJob_counters (s : State) (id : Nat) (j : Job) : (s.setJob id j).counters = s.counters := rfl
@[simp] theorem setJob_ctrSerials (s : State) (id : Nat) (j : Job) : (s.setJob id j).ctrSerials = s.ctrSerials := rfl
@[simp] theorem setJob_groups (s : State) (id : Nat) (j : Job) : (s.setJob id j).groups = s.groups := rfl
@[simp] theorem setJob_gens (s : State) (id : Nat) (j : Job) : (s.setJob id j).gens = s.gens := rfl
@[simp] theorem setJob_holds (s : State) (id : Nat) (j : Job) : (s.setJob id j).holds = s.holds := rfl
@[simp] theorem setJob_cuts (s : State) (id : Nat) (j : Job) : (s.setJob id j).cuts = s.cuts := rfl
@[simp] theorem setJob_graphs (s : State) (id : Nat) (j : Job) : (s.setJob id j).graphs = s.graphs := rfl
@[simp] theorem setJob_adms (s : State) (id : Nat) (j : Job) : (s.setJob id j).adms = s.adms := rfl
@[simp] theorem setJob_setup (s : State) (id : Nat) (j : Job) : (s.setJob id j).setup = s.setup := rfl
@[simp] theorem setJob_entries (s : State) (id : Nat) (j : Job) : (s.setJob id j).entries = s.entries := rfl
@[simp] theorem setJob_lists (s : State) (id : Nat) (j : Job) : (s.setJob id j).lists = s.lists := rfl
@[simp] theorem setJob_draining (s : State) (id : Nat) (j : Job) : (s.setJob id j).draining = s.draining := rfl
@[simp] theorem setJob_lastPass (s : State) (id : Nat) (j : Job) : (s.setJob id j).lastPass = s.lastPass := rfl
@[simp] theorem setJob_ctxs (s : State) (id : Nat) (j : Job) : (s.setJob id j).ctxs = s.ctxs := rfl
@[simp] theorem setJob_saved (s : State) (id : Nat) (j : Job) : (s.setJob id j).saved = s.saved := rfl
@[simp] theorem setJob_queues (s : State) (id : Nat) (j : Job) : (s.setJob id j).queues = s.queues := rfl
@[simp] theorem setJob_planes (s : State) (id : Nat) (j : Job) : (s.setJob id j).planes = s.planes := rfl
@[simp] theorem setJob_card (s : State) (id : Nat) (j : Job) : (s.setJob id j).card = s.card := rfl
@[simp] theorem setJob_stackRegs (s : State) (id : Nat) (j : Job) : (s.setJob id j).stackRegs = s.stackRegs := rfl
@[simp] theorem setJob_faults (s : State) (id : Nat) (j : Job) : (s.setJob id j).faults = s.faults := rfl
@[simp] theorem setJob_errCounts (s : State) (id : Nat) (j : Job) : (s.setJob id j).errCounts = s.errCounts := rfl
@[simp] theorem setJob_thermal (s : State) (id : Nat) (j : Job) : (s.setJob id j).thermal = s.thermal := rfl
@[simp] theorem setJob_worlds (s : State) (id : Nat) (j : Job) : (s.setJob id j).worlds = s.worlds := rfl
@[simp] theorem setJob_hostRead (s : State) (id : Nat) (j : Job) : (s.setJob id j).hostRead = s.hostRead := rfl
@[simp] theorem setJob_hostEp (s : State) (id : Nat) (j : Job) : (s.setJob id j).hostEp = s.hostEp := rfl
@[simp] theorem setJob_poll (s : State) (id : Nat) (j : Job) : (s.setJob id j).poll = s.poll := rfl
@[simp] theorem setJob_served (s : State) (id : Nat) (j : Job) : (s.setJob id j).served = s.served := rfl
theorem setJob_find (s : State) (id : Nat) (j : Job) (i : Nat) :
    nmapFind (s.setJob id j).jobs i = if i = id then some j else nmapFind s.jobs i := by
  simp [State.setJob, nmapFind_set]

@[simp] theorem setCut_agenda (s : State) (id : Nat) (j : CutJob) : (s.setCut id j).agenda = s.agenda := rfl
@[simp] theorem setCut_free (s : State) (id : Nat) (j : CutJob) : (s.setCut id j).free = s.free := rfl
@[simp] theorem setCut_cur (s : State) (id : Nat) (j : CutJob) : (s.setCut id j).cur = s.cur := rfl
@[simp] theorem setCut_serial (s : State) (id : Nat) (j : CutJob) : (s.setCut id j).serial = s.serial := rfl
@[simp] theorem setCut_regs (s : State) (id : Nat) (j : CutJob) : (s.setCut id j).regs = s.regs := rfl
@[simp] theorem setCut_warps (s : State) (id : Nat) (j : CutJob) : (s.setCut id j).warps = s.warps := rfl
@[simp] theorem setCut_signs (s : State) (id : Nat) (j : CutJob) : (s.setCut id j).signs = s.signs := rfl
@[simp] theorem setCut_ops (s : State) (id : Nat) (j : CutJob) : (s.setCut id j).ops = s.ops := rfl
@[simp] theorem setCut_wgs (s : State) (id : Nat) (j : CutJob) : (s.setCut id j).wgs = s.wgs := rfl
@[simp] theorem setCut_cores (s : State) (id : Nat) (j : CutJob) : (s.setCut id j).cores = s.cores := rfl
@[simp] theorem setCut_mem (s : State) (id : Nat) (j : CutJob) : (s.setCut id j).mem = s.mem := rfl
@[simp] theorem setCut_counters (s : State) (id : Nat) (j : CutJob) : (s.setCut id j).counters = s.counters := rfl
@[simp] theorem setCut_ctrSerials (s : State) (id : Nat) (j : CutJob) : (s.setCut id j).ctrSerials = s.ctrSerials := rfl
@[simp] theorem setCut_groups (s : State) (id : Nat) (j : CutJob) : (s.setCut id j).groups = s.groups := rfl
@[simp] theorem setCut_gens (s : State) (id : Nat) (j : CutJob) : (s.setCut id j).gens = s.gens := rfl
@[simp] theorem setCut_holds (s : State) (id : Nat) (j : CutJob) : (s.setCut id j).holds = s.holds := rfl
@[simp] theorem setCut_jobs (s : State) (id : Nat) (j : CutJob) : (s.setCut id j).jobs = s.jobs := rfl
@[simp] theorem setCut_graphs (s : State) (id : Nat) (j : CutJob) : (s.setCut id j).graphs = s.graphs := rfl
@[simp] theorem setCut_adms (s : State) (id : Nat) (j : CutJob) : (s.setCut id j).adms = s.adms := rfl
@[simp] theorem setCut_setup (s : State) (id : Nat) (j : CutJob) : (s.setCut id j).setup = s.setup := rfl
@[simp] theorem setCut_entries (s : State) (id : Nat) (j : CutJob) : (s.setCut id j).entries = s.entries := rfl
@[simp] theorem setCut_lists (s : State) (id : Nat) (j : CutJob) : (s.setCut id j).lists = s.lists := rfl
@[simp] theorem setCut_draining (s : State) (id : Nat) (j : CutJob) : (s.setCut id j).draining = s.draining := rfl
@[simp] theorem setCut_lastPass (s : State) (id : Nat) (j : CutJob) : (s.setCut id j).lastPass = s.lastPass := rfl
@[simp] theorem setCut_ctxs (s : State) (id : Nat) (j : CutJob) : (s.setCut id j).ctxs = s.ctxs := rfl
@[simp] theorem setCut_saved (s : State) (id : Nat) (j : CutJob) : (s.setCut id j).saved = s.saved := rfl
@[simp] theorem setCut_queues (s : State) (id : Nat) (j : CutJob) : (s.setCut id j).queues = s.queues := rfl
@[simp] theorem setCut_planes (s : State) (id : Nat) (j : CutJob) : (s.setCut id j).planes = s.planes := rfl
@[simp] theorem setCut_card (s : State) (id : Nat) (j : CutJob) : (s.setCut id j).card = s.card := rfl
@[simp] theorem setCut_stackRegs (s : State) (id : Nat) (j : CutJob) : (s.setCut id j).stackRegs = s.stackRegs := rfl
@[simp] theorem setCut_faults (s : State) (id : Nat) (j : CutJob) : (s.setCut id j).faults = s.faults := rfl
@[simp] theorem setCut_errCounts (s : State) (id : Nat) (j : CutJob) : (s.setCut id j).errCounts = s.errCounts := rfl
@[simp] theorem setCut_thermal (s : State) (id : Nat) (j : CutJob) : (s.setCut id j).thermal = s.thermal := rfl
@[simp] theorem setCut_worlds (s : State) (id : Nat) (j : CutJob) : (s.setCut id j).worlds = s.worlds := rfl
@[simp] theorem setCut_hostRead (s : State) (id : Nat) (j : CutJob) : (s.setCut id j).hostRead = s.hostRead := rfl
@[simp] theorem setCut_hostEp (s : State) (id : Nat) (j : CutJob) : (s.setCut id j).hostEp = s.hostEp := rfl
@[simp] theorem setCut_poll (s : State) (id : Nat) (j : CutJob) : (s.setCut id j).poll = s.poll := rfl
@[simp] theorem setCut_served (s : State) (id : Nat) (j : CutJob) : (s.setCut id j).served = s.served := rfl
theorem setCut_find (s : State) (id : Nat) (j : CutJob) (i : Nat) :
    nmapFind (s.setCut id j).cuts i = if i = id then some j else nmapFind s.cuts i := by
  simp [State.setCut, nmapFind_set]

@[simp] theorem setGraph_agenda (s : State) (id : Nat) (g : Graph) : (s.setGraph id g).agenda = s.agenda := rfl
@[simp] theorem setGraph_free (s : State) (id : Nat) (g : Graph) : (s.setGraph id g).free = s.free := rfl
@[simp] theorem setGraph_cur (s : State) (id : Nat) (g : Graph) : (s.setGraph id g).cur = s.cur := rfl
@[simp] theorem setGraph_serial (s : State) (id : Nat) (g : Graph) : (s.setGraph id g).serial = s.serial := rfl
@[simp] theorem setGraph_regs (s : State) (id : Nat) (g : Graph) : (s.setGraph id g).regs = s.regs := rfl
@[simp] theorem setGraph_warps (s : State) (id : Nat) (g : Graph) : (s.setGraph id g).warps = s.warps := rfl
@[simp] theorem setGraph_signs (s : State) (id : Nat) (g : Graph) : (s.setGraph id g).signs = s.signs := rfl
@[simp] theorem setGraph_ops (s : State) (id : Nat) (g : Graph) : (s.setGraph id g).ops = s.ops := rfl
@[simp] theorem setGraph_wgs (s : State) (id : Nat) (g : Graph) : (s.setGraph id g).wgs = s.wgs := rfl
@[simp] theorem setGraph_cores (s : State) (id : Nat) (g : Graph) : (s.setGraph id g).cores = s.cores := rfl
@[simp] theorem setGraph_mem (s : State) (id : Nat) (g : Graph) : (s.setGraph id g).mem = s.mem := rfl
@[simp] theorem setGraph_counters (s : State) (id : Nat) (g : Graph) : (s.setGraph id g).counters = s.counters := rfl
@[simp] theorem setGraph_ctrSerials (s : State) (id : Nat) (g : Graph) : (s.setGraph id g).ctrSerials = s.ctrSerials := rfl
@[simp] theorem setGraph_groups (s : State) (id : Nat) (g : Graph) : (s.setGraph id g).groups = s.groups := rfl
@[simp] theorem setGraph_gens (s : State) (id : Nat) (g : Graph) : (s.setGraph id g).gens = s.gens := rfl
@[simp] theorem setGraph_holds (s : State) (id : Nat) (g : Graph) : (s.setGraph id g).holds = s.holds := rfl
@[simp] theorem setGraph_jobs (s : State) (id : Nat) (g : Graph) : (s.setGraph id g).jobs = s.jobs := rfl
@[simp] theorem setGraph_cuts (s : State) (id : Nat) (g : Graph) : (s.setGraph id g).cuts = s.cuts := rfl
@[simp] theorem setGraph_adms (s : State) (id : Nat) (g : Graph) : (s.setGraph id g).adms = s.adms := rfl
@[simp] theorem setGraph_setup (s : State) (id : Nat) (g : Graph) : (s.setGraph id g).setup = s.setup := rfl
@[simp] theorem setGraph_entries (s : State) (id : Nat) (g : Graph) : (s.setGraph id g).entries = s.entries := rfl
@[simp] theorem setGraph_lists (s : State) (id : Nat) (g : Graph) : (s.setGraph id g).lists = s.lists := rfl
@[simp] theorem setGraph_draining (s : State) (id : Nat) (g : Graph) : (s.setGraph id g).draining = s.draining := rfl
@[simp] theorem setGraph_lastPass (s : State) (id : Nat) (g : Graph) : (s.setGraph id g).lastPass = s.lastPass := rfl
@[simp] theorem setGraph_ctxs (s : State) (id : Nat) (g : Graph) : (s.setGraph id g).ctxs = s.ctxs := rfl
@[simp] theorem setGraph_saved (s : State) (id : Nat) (g : Graph) : (s.setGraph id g).saved = s.saved := rfl
@[simp] theorem setGraph_queues (s : State) (id : Nat) (g : Graph) : (s.setGraph id g).queues = s.queues := rfl
@[simp] theorem setGraph_planes (s : State) (id : Nat) (g : Graph) : (s.setGraph id g).planes = s.planes := rfl
@[simp] theorem setGraph_card (s : State) (id : Nat) (g : Graph) : (s.setGraph id g).card = s.card := rfl
@[simp] theorem setGraph_stackRegs (s : State) (id : Nat) (g : Graph) : (s.setGraph id g).stackRegs = s.stackRegs := rfl
@[simp] theorem setGraph_faults (s : State) (id : Nat) (g : Graph) : (s.setGraph id g).faults = s.faults := rfl
@[simp] theorem setGraph_errCounts (s : State) (id : Nat) (g : Graph) : (s.setGraph id g).errCounts = s.errCounts := rfl
@[simp] theorem setGraph_thermal (s : State) (id : Nat) (g : Graph) : (s.setGraph id g).thermal = s.thermal := rfl
@[simp] theorem setGraph_worlds (s : State) (id : Nat) (g : Graph) : (s.setGraph id g).worlds = s.worlds := rfl
@[simp] theorem setGraph_hostRead (s : State) (id : Nat) (g : Graph) : (s.setGraph id g).hostRead = s.hostRead := rfl
@[simp] theorem setGraph_hostEp (s : State) (id : Nat) (g : Graph) : (s.setGraph id g).hostEp = s.hostEp := rfl
@[simp] theorem setGraph_poll (s : State) (id : Nat) (g : Graph) : (s.setGraph id g).poll = s.poll := rfl
@[simp] theorem setGraph_served (s : State) (id : Nat) (g : Graph) : (s.setGraph id g).served = s.served := rfl
theorem setGraph_find (s : State) (id : Nat) (g : Graph) (i : Nat) :
    nmapFind (s.setGraph id g).graphs i = if i = id then some g else nmapFind s.graphs i := by
  simp [State.setGraph, nmapFind_set]

@[simp] theorem setQueue_agenda (s : State) (q : Nat) (x : Queue) : (s.setQueue q x).agenda = s.agenda := rfl
@[simp] theorem setQueue_free (s : State) (q : Nat) (x : Queue) : (s.setQueue q x).free = s.free := rfl
@[simp] theorem setQueue_cur (s : State) (q : Nat) (x : Queue) : (s.setQueue q x).cur = s.cur := rfl
@[simp] theorem setQueue_serial (s : State) (q : Nat) (x : Queue) : (s.setQueue q x).serial = s.serial := rfl
@[simp] theorem setQueue_regs (s : State) (q : Nat) (x : Queue) : (s.setQueue q x).regs = s.regs := rfl
@[simp] theorem setQueue_warps (s : State) (q : Nat) (x : Queue) : (s.setQueue q x).warps = s.warps := rfl
@[simp] theorem setQueue_signs (s : State) (q : Nat) (x : Queue) : (s.setQueue q x).signs = s.signs := rfl
@[simp] theorem setQueue_ops (s : State) (q : Nat) (x : Queue) : (s.setQueue q x).ops = s.ops := rfl
@[simp] theorem setQueue_wgs (s : State) (q : Nat) (x : Queue) : (s.setQueue q x).wgs = s.wgs := rfl
@[simp] theorem setQueue_cores (s : State) (q : Nat) (x : Queue) : (s.setQueue q x).cores = s.cores := rfl
@[simp] theorem setQueue_mem (s : State) (q : Nat) (x : Queue) : (s.setQueue q x).mem = s.mem := rfl
@[simp] theorem setQueue_counters (s : State) (q : Nat) (x : Queue) : (s.setQueue q x).counters = s.counters := rfl
@[simp] theorem setQueue_ctrSerials (s : State) (q : Nat) (x : Queue) : (s.setQueue q x).ctrSerials = s.ctrSerials := rfl
@[simp] theorem setQueue_groups (s : State) (q : Nat) (x : Queue) : (s.setQueue q x).groups = s.groups := rfl
@[simp] theorem setQueue_gens (s : State) (q : Nat) (x : Queue) : (s.setQueue q x).gens = s.gens := rfl
@[simp] theorem setQueue_holds (s : State) (q : Nat) (x : Queue) : (s.setQueue q x).holds = s.holds := rfl
@[simp] theorem setQueue_jobs (s : State) (q : Nat) (x : Queue) : (s.setQueue q x).jobs = s.jobs := rfl
@[simp] theorem setQueue_cuts (s : State) (q : Nat) (x : Queue) : (s.setQueue q x).cuts = s.cuts := rfl
@[simp] theorem setQueue_graphs (s : State) (q : Nat) (x : Queue) : (s.setQueue q x).graphs = s.graphs := rfl
@[simp] theorem setQueue_adms (s : State) (q : Nat) (x : Queue) : (s.setQueue q x).adms = s.adms := rfl
@[simp] theorem setQueue_setup (s : State) (q : Nat) (x : Queue) : (s.setQueue q x).setup = s.setup := rfl
@[simp] theorem setQueue_entries (s : State) (q : Nat) (x : Queue) : (s.setQueue q x).entries = s.entries := rfl
@[simp] theorem setQueue_lists (s : State) (q : Nat) (x : Queue) : (s.setQueue q x).lists = s.lists := rfl
@[simp] theorem setQueue_draining (s : State) (q : Nat) (x : Queue) : (s.setQueue q x).draining = s.draining := rfl
@[simp] theorem setQueue_lastPass (s : State) (q : Nat) (x : Queue) : (s.setQueue q x).lastPass = s.lastPass := rfl
@[simp] theorem setQueue_ctxs (s : State) (q : Nat) (x : Queue) : (s.setQueue q x).ctxs = s.ctxs := rfl
@[simp] theorem setQueue_saved (s : State) (q : Nat) (x : Queue) : (s.setQueue q x).saved = s.saved := rfl
@[simp] theorem setQueue_planes (s : State) (q : Nat) (x : Queue) : (s.setQueue q x).planes = s.planes := rfl
@[simp] theorem setQueue_card (s : State) (q : Nat) (x : Queue) : (s.setQueue q x).card = s.card := rfl
@[simp] theorem setQueue_stackRegs (s : State) (q : Nat) (x : Queue) : (s.setQueue q x).stackRegs = s.stackRegs := rfl
@[simp] theorem setQueue_faults (s : State) (q : Nat) (x : Queue) : (s.setQueue q x).faults = s.faults := rfl
@[simp] theorem setQueue_errCounts (s : State) (q : Nat) (x : Queue) : (s.setQueue q x).errCounts = s.errCounts := rfl
@[simp] theorem setQueue_thermal (s : State) (q : Nat) (x : Queue) : (s.setQueue q x).thermal = s.thermal := rfl
@[simp] theorem setQueue_worlds (s : State) (q : Nat) (x : Queue) : (s.setQueue q x).worlds = s.worlds := rfl
@[simp] theorem setQueue_hostRead (s : State) (q : Nat) (x : Queue) : (s.setQueue q x).hostRead = s.hostRead := rfl
@[simp] theorem setQueue_hostEp (s : State) (q : Nat) (x : Queue) : (s.setQueue q x).hostEp = s.hostEp := rfl
@[simp] theorem setQueue_poll (s : State) (q : Nat) (x : Queue) : (s.setQueue q x).poll = s.poll := rfl
@[simp] theorem setQueue_served (s : State) (q : Nat) (x : Queue) : (s.setQueue q x).served = s.served := rfl
theorem setQueue_find (s : State) (q : Nat) (x : Queue) (i : Nat) :
    nmapFind (s.setQueue q x).queues i = if i = q then some x else nmapFind s.queues i := by
  simp [State.setQueue, nmapFind_set]

@[simp] theorem setPending_agenda (s : State) (b : BlockId) (p : Option Bool) : (s.setPending b p).agenda = s.agenda := rfl
@[simp] theorem setPending_free (s : State) (b : BlockId) (p : Option Bool) : (s.setPending b p).free = s.free := rfl
@[simp] theorem setPending_cur (s : State) (b : BlockId) (p : Option Bool) : (s.setPending b p).cur = s.cur := rfl
@[simp] theorem setPending_serial (s : State) (b : BlockId) (p : Option Bool) : (s.setPending b p).serial = s.serial := rfl
@[simp] theorem setPending_regs (s : State) (b : BlockId) (p : Option Bool) : (s.setPending b p).regs = s.regs := rfl
@[simp] theorem setPending_warps (s : State) (b : BlockId) (p : Option Bool) : (s.setPending b p).warps = s.warps := rfl
@[simp] theorem setPending_signs (s : State) (b : BlockId) (p : Option Bool) : (s.setPending b p).signs = s.signs := rfl
@[simp] theorem setPending_ops (s : State) (b : BlockId) (p : Option Bool) : (s.setPending b p).ops = s.ops := rfl
@[simp] theorem setPending_wgs (s : State) (b : BlockId) (p : Option Bool) : (s.setPending b p).wgs = s.wgs := rfl
@[simp] theorem setPending_cores (s : State) (b : BlockId) (p : Option Bool) : (s.setPending b p).cores = s.cores := rfl
@[simp] theorem setPending_mem (s : State) (b : BlockId) (p : Option Bool) : (s.setPending b p).mem = s.mem := rfl
@[simp] theorem setPending_counters (s : State) (b : BlockId) (p : Option Bool) : (s.setPending b p).counters = s.counters := rfl
@[simp] theorem setPending_ctrSerials (s : State) (b : BlockId) (p : Option Bool) : (s.setPending b p).ctrSerials = s.ctrSerials := rfl
@[simp] theorem setPending_groups (s : State) (b : BlockId) (p : Option Bool) : (s.setPending b p).groups = s.groups := rfl
@[simp] theorem setPending_gens (s : State) (b : BlockId) (p : Option Bool) : (s.setPending b p).gens = s.gens := rfl
@[simp] theorem setPending_holds (s : State) (b : BlockId) (p : Option Bool) : (s.setPending b p).holds = s.holds := rfl
@[simp] theorem setPending_jobs (s : State) (b : BlockId) (p : Option Bool) : (s.setPending b p).jobs = s.jobs := rfl
@[simp] theorem setPending_cuts (s : State) (b : BlockId) (p : Option Bool) : (s.setPending b p).cuts = s.cuts := rfl
@[simp] theorem setPending_graphs (s : State) (b : BlockId) (p : Option Bool) : (s.setPending b p).graphs = s.graphs := rfl
@[simp] theorem setPending_adms (s : State) (b : BlockId) (p : Option Bool) : (s.setPending b p).adms = s.adms := rfl
@[simp] theorem setPending_setup (s : State) (b : BlockId) (p : Option Bool) : (s.setPending b p).setup = s.setup := rfl
@[simp] theorem setPending_entries (s : State) (b : BlockId) (p : Option Bool) : (s.setPending b p).entries = s.entries := rfl
@[simp] theorem setPending_lists (s : State) (b : BlockId) (p : Option Bool) : (s.setPending b p).lists = s.lists := rfl
@[simp] theorem setPending_draining (s : State) (b : BlockId) (p : Option Bool) : (s.setPending b p).draining = s.draining := rfl
@[simp] theorem setPending_lastPass (s : State) (b : BlockId) (p : Option Bool) : (s.setPending b p).lastPass = s.lastPass := rfl
@[simp] theorem setPending_ctxs (s : State) (b : BlockId) (p : Option Bool) : (s.setPending b p).ctxs = s.ctxs := rfl
@[simp] theorem setPending_saved (s : State) (b : BlockId) (p : Option Bool) : (s.setPending b p).saved = s.saved := rfl
@[simp] theorem setPending_queues (s : State) (b : BlockId) (p : Option Bool) : (s.setPending b p).queues = s.queues := rfl
@[simp] theorem setPending_planes (s : State) (b : BlockId) (p : Option Bool) : (s.setPending b p).planes = s.planes := rfl
@[simp] theorem setPending_card (s : State) (b : BlockId) (p : Option Bool) : (s.setPending b p).card = s.card := rfl
@[simp] theorem setPending_stackRegs (s : State) (b : BlockId) (p : Option Bool) : (s.setPending b p).stackRegs = s.stackRegs := rfl
@[simp] theorem setPending_faults (s : State) (b : BlockId) (p : Option Bool) : (s.setPending b p).faults = s.faults := rfl
@[simp] theorem setPending_errCounts (s : State) (b : BlockId) (p : Option Bool) : (s.setPending b p).errCounts = s.errCounts := rfl
@[simp] theorem setPending_thermal (s : State) (b : BlockId) (p : Option Bool) : (s.setPending b p).thermal = s.thermal := rfl
@[simp] theorem setPending_hostRead (s : State) (b : BlockId) (p : Option Bool) : (s.setPending b p).hostRead = s.hostRead := rfl
@[simp] theorem setPending_hostEp (s : State) (b : BlockId) (p : Option Bool) : (s.setPending b p).hostEp = s.hostEp := rfl
@[simp] theorem setPending_poll (s : State) (b : BlockId) (p : Option Bool) : (s.setPending b p).poll = s.poll := rfl
@[simp] theorem setPending_served (s : State) (b : BlockId) (p : Option Bool) : (s.setPending b p).served = s.served := rfl

end Sys2Proof.Laws
end

