-- ==== Sys2Proof/Tests/Slice0.lean ====
section
/-! SUPPORT. Tests: words written out from the encodings of the spec, ill-formed terms that the form check refuses, and single steps whose
results are taken from the rules and worked examples. -/

namespace Sys2Proof.Tests

open Sys2Proof.Machine

set_option Elab.async false

/-! ## Builders -/

/-- The header with no guard, sequential, LA 0. -/
def h0 : Hdr := { g := false, n := false, p := 0, nxt := .seq, t := 0, la := 0 }

/-- Format R with a type and SUB. -/
def rf (d a b c : Opnd) (ty : Ty := .b32) (sub : BitVec 8 := 0) : RForm :=
  { dst := d, sa := a, sb := b, sc := c, ty := ty, rnd := .rne, sat := false, ftz := false, nega := false, negb := false, negc := false,
    absa := false, sub := sub }

/-! ## Words written out from the spec -/

/-- OPC 0x080, guard p3, v4, v2, s40, .f32 with NEGB (R35, R48, R49, R53; the worked word of R35). -/
theorem test_decode_fadd :
    decode 0x20230000100090A3C0160400#96
      = .fadd { h0 with g := true, p := 3 } { rf (.v 4) (.v 2) (.s 40) .zr .f32 with negb := true } := by decide +kernel

theorem test_decode_nop : decode 0x0000003C03C03C03C0000000#96 = .nop h0 (rf .zr .zr .zr .zr) := by decide +kernel

theorem test_decode_rdsr : decode 0xB000000012103C03C0100000#96 = .rdsr h0 (rf (.v 4) (.sr 64) .zr .zr .n64) := by decide +kernel

theorem test_decode_mmaq : decode 0x6140003E08042800031A0000#96 = .mmaq h0 (rf (.acc 2) (.v 16) (.imm 0) (.v 12) .e4m3) := by decide +kernel

theorem test_decode_glaunch : decode 0x900000105105BC03C0000000#96 = .glaunch h0 (rf (.s 20) (.s 22) .zr .zr) := by decide +kernel

theorem test_decode_rtnext : decode 0x91C000101BC03C03C0000000#96 = .rtnext h0 (rf (.s 6) .zr .zr .zr) := by decide +kernel

theorem test_decode_racq : decode 0x9080001051023C03C0000000#96 = .racq h0 (rf (.s 20) (.s 8) .zr .zr) := by decide +kernel

theorem test_decode_reord : decode 0x9180003C0002403320800002#96 = .reord h0 (rf .zr (.v 9) (.v 12) (.bt 2) .b32 2) := by decide +kernel

theorem test_decode_primemit : decode 0xA261003C0002000805000001#96 = .primemit { h0 with g := true, p := 1 } (rf .zr (.v 8) (.v 2) (.v 20) .b32 1) := by decide +kernel

theorem test_decode_xform : decode 0x7440001051013C01020000E7#96 = .xform h0 (rf (.s 20) (.s 4) .zr (.s 8) .b32 0xE7) := by decide +kernel

theorem test_decode_cutsel : decode 0xA000001021029033C0000000#96 = .cutsel h0 (rf (.s 8) (.s 10) (.s 12) .zr) := by decide +kernel

theorem test_decode_shdec : decode 0xA04000805001001BC0000000#96 = .shdec { h0 with la := 2 } (rf (.v 20) (.v 4) (.v 6) .zr) := by decide +kernel

theorem test_decode_trap : decode 0xB080003C0281FC03C0000000#96 = .trap h0 (rf .zr (.imm 7) .zr .zr) := by decide +kernel

theorem test_decode_brk : decode 0x0BC0003C03C03C03C0000000#96 = .brk h0 (rf .zr .zr .zr .zr) := by decide +kernel

theorem test_decode_rft_retry : decode 0xB0C0003C03C03C03C0000001#96 = .rft h0 (rf .zr .zr .zr .zr .b32 1) := by decide +kernel

theorem test_decode_yield : decode 0x5280003C03C03C03C0000000#96 = .yield h0 (rf .zr .zr .zr .zr) := by decide +kernel

theorem test_decode_ldmc :
    decode 0x7080001031013C0080000000#96
      = .ldmc h0 { dst := .s 12, base := .s 4, index := .zr, space := .global, width := .n8, cache := .dflt, fe := .ignore, ord := .plain,
                   scope := .thread, scl := false, ofs := 0 } := by decide +kernel

/-- ADD v5, v6, -1 under !p2, then jmp bt3. -/
theorem test_decode_add :
    decode 0x01322C001401AFFFC00A0000#96
      = .add { h0 with g := true, n := true, p := 2, nxt := .jmp, t := 3 } (rf (.v 5) (.v 6) (.imm (-1)) .zr .i32) := by decide +kernel

/-- CMPI.ge.n32 p4, s9, 0x80000000. -/
theorem test_decode_cmpi :
    decode 0x0940003011024C0580000000#96
      = .cmpi h0 { dst := .p 4, sa := .s 9, ty := .n32, rnd := .rne, sat := false, sub := 5, imm := 0x80000000 } := by decide +kernel

/-- SHFL.xor v3, v4, 1, p7 with cv2. -/
theorem test_decode_shfl :
    decode 0x508000000C01280701C0001A#96
      = .shfl h0 (rf (.v 3) (.v 4) (.imm 1) (.p 7) .b32 0x1A) := by decide +kernel

/-- PACK.e2m1 v1, v2, v3, v1 in fields 6 and 7, to nearest, saturating. -/
theorem test_decode_pack :
    decode 0x408000000400800C00622003#96
      = .pack h0 { rf (.v 1) (.v 2) (.v 3) (.v 1) .e2m1 3 with sat := true } := by decide +kernel

/-- LD.global.b64.nol1.acq.card v8, [v2+v6*8-16], LA 3. -/
theorem test_decode_ld :
    decode 0x700000C020008018B86FFFF0#96
      = .ld { h0 with la := 3 } { dst := .v 8, base := .v 2, index := .v 6, space := .global, width := .b64, cache := .nol1, fe := .ignore, ord := .acq, scope := .card, scl := true, ofs := -16 } := by decide +kernel

/-- FENCE.ar.gang. -/
theorem test_decode_fence :
    decode 0x7180003C03C03C03C000000F#96
      = .fence h0 (rf .zr .zr .zr .zr .b32 0x0F) := by decide +kernel

/-- The three words of R32 stand least significant first. -/
theorem test_bytes_of_word : bytesOfWord 0x0000003C03C03C03C0000000#96 = [0, 0, 0, 0xC0, 3, 0x3C, 0xC0, 3, 0x3C, 0, 0, 0] := by decide +kernel

/-! ## Witnesses: states and operands that meet the hypotheses of the statements -/

/-- The hypotheses of `CanIssue` as a computation. -/
def canIssueB (s : State) (h : Hdr) (ck : Check) : Bool :=
  ck.ok
  && (lanesOf s.cur.mask).all (fun l => !s.laneBlocked s.cur.w l
    && (if s.guardTrue h s.cur.w l then ck.uses else guardUses h).all (fun u => !s.waitUse s.cur.w l u && !s.lavUse s.cur.w l u)
    && ck.uses.all (fun u => !regaUse (s.warp s.cur.w) (s.inHandler s.cur.w l) u))
  && (lanesOf (s.activeSet h)).all (fun l => ck.uses.all (fun u => !poisonUse s.mem.poison s.cur.w l (s.inHandler s.cur.w l) u))

theorem canIssue_of {s : State} {h : Hdr} {ck : Check} (b : canIssueB s h ck = true) : s.CanIssue h ck := by
  simp only [canIssueB, Bool.and_eq_true, List.all_eq_true, Bool.not_eq_true'] at b
  obtain ⟨⟨ok, b⟩, c⟩ := b
  exact ⟨ok, fun l hl => (b l hl).1.1, fun l hl u hu => ((b l hl).1.2 u hu).1, fun l hl u hu => (b l hl).2 u hu,
    fun l hl u hu => ((b l hl).1.2 u hu).2, fun l hl u hu => c l hl u hu⟩

/-- The machine with one warp placed, of which lane 3 is selected at pc 0 (log entry 2). -/
def one : State :=
  let s := State.reset.placeProgram []
  { s with cur := { s.cur with mask := 8#32 } }

/-- Whether a group of instructions can all issue on a state. -/
def allIssue (s : State) (is : List (Hdr × Instr)) : Bool := is.all (fun e => canIssueB s e.1 (checkOf e.2))

theorem allIssue_of {s : State} {is : List (Hdr × Instr)} (b : allIssue s is = true) : ∀ e ∈ is, s.CanIssue e.1 (checkOf e.2) :=
  fun e he => canIssue_of (List.all_eq_true.1 b e he)

/-- Format I with a type and an immediate. -/
def iform (d a : Opnd) (ty : Ty) (imm : Word) (sub : BitVec 5 := 0) : IForm :=
  { dst := d, sa := a, ty := ty, rnd := .rne, sat := false, sub := sub, imm := imm }

theorem witness_MovesReadsComplete : ∀ e ∈ ([
    (h0, .nop h0 (rf .zr .zr .zr .zr)), (h0, .mov h0 (rf (.v 255) (.s 1023) .zr .zr)), (h0, .sel h0 (rf (.v 1) (.v 2) (.v 3) (.p 15))),
    (h0, .movi h0 (iform (.v 1) .zr .b32 0xFFFFFFFF)), (h0, .cvget h0 (rf (.v 1) (.cv 7) .zr .zr)), (h0, .actmask h0 (rf (.v 1) .zr .zr .zr)),
    (h0, .rdsr h0 (rf (.v 4) (.sr 64) .zr .zr .n64))] : List (Hdr × Instr)), one.CanIssue e.1 (checkOf e.2) := allIssue_of (by decide +kernel)

theorem witness_IntegerComplete : ∀ e ∈ ([
    (h0, .add h0 (rf (.v 1) (.v 2) (.v 3) .zr .i8x4)), (h0, .subOp h0 (rf (.s 0) (.s 2) (.s 1022) .zr .n64)),
    (h0, .mul h0 (rf (.v 1) (.v 2) (.v 3) .zr .i16)), (h0, .mulhi h0 (rf (.v 0) (.v 2) (.v 4) .zr .i64)),
    (h0, .mad h0 (rf (.v 1) (.v 2) (.v 3) (.v 4) .i32)), (h0, .madw h0 (rf (.v 6) (.v 2) (.v 3) (.v 4) .n32)),
    (h0, .absOp h0 (rf (.v 1) (.v 2) .zr .zr .i32)), (h0, .minOp h0 (rf (.v 1) (.v 2) (.v 3) .zr .n8)),
    (h0, .maxOp h0 (rf (.v 1) (.v 2) (.v 3) .zr .i32)), (h0, .addi h0 (iform (.v 1) (.v 2) .i32 0xFFFFFFFF)),
    (h0, .muli h0 (iform (.v 2) (.v 4) .n64 0xFFFFFFFF))] : List (Hdr × Instr)), one.CanIssue e.1 (checkOf e.2) := allIssue_of (by decide +kernel)

theorem witness_LogicShiftFieldComplete : ∀ e ∈ ([
    (h0, .andOp h0 (rf (.v 1) (.v 2) (.v 3) .zr .b32 1)), (h0, .orOp h0 (rf (.v 2) (.v 2) (.v 4) .zr .n64)),
    (h0, .xorOp h0 (rf (.v 1) (.v 2) (.v 3) .zr)), (h0, .tern h0 (rf (.v 1) (.v 2) (.v 3) (.v 4) .b32 0xFF)),
    (h0, .andi h0 (iform (.v 1) (.v 2) .b32 0xFFFFFFFF)), (h0, .ori h0 (iform (.v 1) (.v 2) .b32 0)),
    (h0, .xori h0 (iform (.v 1) (.v 2) .b32 1)), (h0, .shl h0 (rf (.v 1) (.v 2) (.imm 32) .zr .n32 1)),
    (h0, .shr h0 (rf (.v 2) (.v 4) (.v 6) .zr .n64)), (h0, .sar h0 (rf (.v 1) (.v 2) (.v 3) .zr .i32)),
    (h0, .rot h0 (rf (.v 1) (.v 2) (.imm 31) .zr .b32 1)), (h0, .fsh h0 (rf (.v 1) (.v 2) (.v 3) (.imm 32) .b32 3)),
    (h0, .bfx h0 (rf (.v 1) (.v 2) (.v 3) .zr .n32)), (h0, .bfi h0 (rf (.v 1) (.v 2) (.v 3) (.v 4))),
    (h0, .popc h0 (rf (.v 1) (.v 2) .zr .zr)), (h0, .clz h0 (rf (.v 1) (.v 2) .zr .zr .n64)),
    (h0, .ctz h0 (rf (.v 1) (.v 2) .zr .zr)), (h0, .brev h0 (rf (.v 1) (.v 2) .zr .zr)),
    (h0, .bsel h0 (rf (.v 1) (.v 2) (.v 3) (.v 4))), (h0, .lea h0 (rf (.v 2) (.v 4) (.v 6) .zr .i64 7))] : List (Hdr × Instr)),
    one.CanIssue e.1 (checkOf e.2) := allIssue_of (by decide +kernel)

theorem witness_CompareConvertNarrowComplete : ∀ e ∈ ([
    (h0, .cmp h0 (rf (.p 15) (.v 2) (.v 3) (.p 1) .i32 0x35)), (h0, .plop h0 (rf (.p 3) (.p 1) (.p 2) .zr)),
    (h0, .p2v h0 (rf (.v 1) .zr .zr .zr)), (h0, .cvti h0 (rf (.v 1) (.v 2) .zr .zr .i8 5)), (h0, .dp4 h0 (rf (.v 1) (.v 2) (.v 3) (.v 4) .i8x4)),
    (h0, .movbt h0 (rf (.bt 7) (.s 1) .zr .zr)), (h0, .cmpi h0 (iform (.p 4) (.s 9) .n32 0x80000000 5)),
    (h0, .tgt h0 (iform (.bt 7) .zr .b32 0xFFFFFFFF)), (h0, .setlc h0 (iform (.lc 3) .zr .b32 0xFFFFFFFF)),
    (h0, .pack h0 (rf (.v 1) (.v 2) (.v 3) (.v 1) .e2m1 3)), (h0, .unpk h0 (rf (.v 1) (.v 2) .zr .zr .e2m1 7)),
    (h0, .spx h0 (rf (.v 2) (.v 4) (.v 5) .zr .f16 1)), (h0, .spexp h0 (rf (.v 1) (.v 2) .zr .zr .i8))] : List (Hdr × Instr)),
    one.CanIssue e.1 (checkOf e.2) := allIssue_of (by decide +kernel)

theorem witness_FloatingComplete : ∀ e ∈ ([
    (h0, .fadd h0 (rf (.v 2) (.v 4) (.v 6) .zr .f64)), (h0, .fmul h0 (rf (.v 1) (.v 2) (.v 3) .zr .f16)),
    (h0, .fma h0 (rf (.v 1) (.v 2) (.v 3) (.v 4) .bf16)), (h0, .fdiv h0 (rf (.v 1) (.v 2) (.v 3) .zr .f32)),
    (h0, .fsqrt h0 (rf (.v 1) (.v 2) .zr .zr .f32)), (h0, .fscale h0 (rf (.v 1) (.v 2) (.v 3) .zr .f32)),
    (h0, .fadd2 h0 (rf (.v 1) (.v 2) (.v 3) .zr .f16x2)), (h0, .fmul2 h0 (rf (.v 1) (.v 2) (.v 3) .zr .bf16x2)),
    (h0, .fma2 h0 (rf (.v 1) (.v 2) (.v 3) (.v 4) .f16x2)), (h0, .fdot2 h0 (rf (.v 1) (.v 2) (.v 3) (.v 4) .f16x2)),
    (h0, .faddi h0 (iform (.v 1) (.v 2) .f32 0x3F800000)), (h0, .fmuli h0 (iform (.v 1) (.v 2) .f32 0x3F800000)),
    (h0, .fmin h0 (rf (.v 1) (.v 2) (.v 3) .zr .f32)), (h0, .fmax h0 (rf (.v 1) (.v 2) (.v 3) .zr .f32 1)),
    (h0, .fcmp h0 (rf (.p 3) (.v 2) (.v 3) .zr .f32)), (h0, .fclass h0 (rf (.v 1) (.v 2) .zr .zr .f64)),
    (h0, .frnd h0 (rf (.v 1) (.v 2) .zr .zr .f32 1)), (h0, .fcvt h0 (rf (.v 1) (.v 2) .zr .zr .e4m3 11)),
    (h0, .f2i h0 (rf (.v 1) (.v 2) .zr .zr .i32 11)), (h0, .i2f h0 (rf (.v 1) (.v 2) .zr .zr .f32 5)),
    (h0, .rcp h0 (rf (.v 1) (.v 2) .zr .zr .f32)), (h0, .rsq h0 (rf (.v 1) (.v 2) .zr .zr .f32)),
    (h0, .exp2 h0 (rf (.v 1) (.v 2) .zr .zr .f32)), (h0, .log2 h0 (rf (.v 1) (.v 2) .zr .zr .f32)),
    (h0, .sin h0 (rf (.v 1) (.v 2) .zr .zr .f32)), (h0, .cos h0 (rf (.v 1) (.v 2) .zr .zr .f32)),
    (h0, .tanh h0 (rf (.v 1) (.v 2) .zr .zr .f32))] : List (Hdr × Instr)), one.CanIssue e.1 (checkOf e.2) := allIssue_of (by decide +kernel)

/-- CVSET without a waiting signer, YIELD and PAUSE of a lane, and V2P at predicates 0 and 15, none of them pending. -/
theorem witness_WarpStateWritesComplete :
    (∀ e ∈ ([(h0, .cvset h0 (rf (.cv 7) .zr .zr .zr .b32 3)), (h0, .yield h0 (rf .zr .zr .zr .zr)), (h0, .pause h0 (rf .zr .zr .zr .zr)),
      (h0, .v2p h0 (rf .zr (.v 1) (.s 5) .zr))] : List (Hdr × Instr)), one.CanIssue e.1 (checkOf e.2)) ∧
    one.cvWaiters one.cur.w 7 = false ∧ one.activeSet h0 ≠ 0 ∧
    (let s := one.applyWrite 0 (.s 5 0x8001)
     s.CanIssue h0 (checkOf (.v2p h0 (rf .zr (.v 1) (.s 5) .zr))) ∧ (s.src (s.rdFor 0 3) .b32 (.s 5)).getLsbD 15 = true ∧
     ∀ l ∈ lanesOf s.cur.mask, ∀ k < 16, (s.src (s.rdFor 0 l) .b32 (.s 5)).getLsbD k = true →
       s.waitUse s.cur.w l ⟨.p (BitVec.ofNat 4 k), 1, true⟩ = false ∧ s.lavUse s.cur.w l ⟨.p (BitVec.ofNat 4 k), 1, true⟩ = false) :=
  ⟨allIssue_of (by decide +kernel), by decide +kernel, by decide +kernel, canIssue_of (by decide +kernel), by decide +kernel, by decide +kernel⟩

/-- The machine of `one` with its lanes in handler mode. -/
def handler : State := one.setWarp 0 { one.warp 0 with hmode := 0xFFFFFFFF#32 }

/-- `one` with a trap handler at pc 5 and room for one frame at the start of the private segments, which lie in host memory. -/
def trapping : State :=
  let s := one.setWarp 0 { one.warp 0 with traphandler := 5, trapbase := 0 }
  { s with wgs := nmapModify s.wgs 0 (fun g => { g with launch := { g.launch with privsize := 2048 } })
           mem := { s.mem with tlb := s.mem.tlb.map (fun t => { t with host := true, frame := 0 }) } }

/-- The state in which a frame is written. -/
def written (r : FrameRes) : State :=
  match r with | .ok t => t | _ => trapping

/-- The frame of a trap that the lanes of M hold, written. -/
def framed (h : Hdr) (t : Trap) : State := written ((trapping.holding h t).writeFrame 0 t)

/-- The frame of a trap that every lane holds, written. -/
def framedAll (h : Hdr) (t : Trap) : State := written ((trapping.holdingAll h t).writeFrame 0 t)

def isOk (r : FrameRes) : Bool :=
  match r with | .ok _ => true | _ => false

theorem written_of {r : FrameRes} (b : isOk r = true) : r = .ok (written r) := by
  cases r <;> simp_all [isOk, written]

/-- The hypotheses of `CanTrap` as a computation. -/
def canTrapB (h : Hdr) (t : Trap) : Bool :=
  !t.cause.fatal && decide (trapping.activeSet h ≠ 0) && isOk ((trapping.holding h t).writeFrame 0 t)

theorem trapping_cur : trapping.cur.w = 0 := by decide +kernel

theorem canTrap_of {h : Hdr} {t : Trap} (b : canTrapB h t = true) : trapping.CanTrap h t (framed h t) := by
  simp only [canTrapB, Bool.and_eq_true, Bool.not_eq_true', decide_eq_true_eq] at b
  exact ⟨b.1.1, b.1.2, by decide +kernel, by decide +kernel, by decide +kernel, by decide +kernel,
    by rw [trapping_cur]; exact written_of b.2⟩

/-- The hypotheses of `CanTrapAll` as a computation. -/
def canTrapAllB (h : Hdr) (t : Trap) : Bool :=
  !t.cause.fatal && (lanesOf trapping.cur.mask).all (fun l => !trapping.laneBlocked 0 l) && isOk ((trapping.holdingAll h t).writeFrame 0 t)

theorem canTrapAll_of {h : Hdr} {t : Trap} (b : canTrapAllB h t = true) : trapping.CanTrapAll h t (framedAll h t) := by
  simp only [canTrapAllB, Bool.and_eq_true, Bool.not_eq_true', List.all_eq_true] at b
  exact ⟨b.1.1, by decide +kernel, by rw [trapping_cur]; exact b.1.2, by decide +kernel, by decide +kernel, by decide +kernel,
    by decide +kernel, by rw [trapping_cur]; exact written_of b.2⟩

/-- BRK and TRAP with sub-cause 255. -/
theorem witness_BreakAndTrapTaken :
    trapping.CanIssue h0 (checkOf (.brk h0 (rf .zr .zr .zr .zr))) ∧ trapping.CanIssue h0 (checkOf (.trap h0 (rf .zr (.imm 255) .zr .zr))) ∧
    (let t := trapping.trapOf h0 .brk 0 (slotsR (rf .zr .zr .zr .zr) .b32 .b32 .b32)
     trapping.CanTrap h0 t (framed h0 t)) ∧
    (let t := trapping.trapOf h0 .swt 255 (slotsR (rf .zr (.imm 255) .zr .zr) .b32 .b32 .b32)
     trapping.CanTrap h0 t (framed h0 t)) ∧
    (trapping.src (trapping.rdFor 0 ((leadOf (trapping.activeSet h0)).getD 0)) .b32 (.imm 255)).toNat % 256 = 255 :=
  ⟨canIssue_of (by decide +kernel), canIssue_of (by decide +kernel), canTrap_of (by decide +kernel), canTrap_of (by decide +kernel),
    by decide +kernel⟩

/-- IDIV.i32 v1, v2, v3 (R144). -/
def idivWord : IWord := 0xF00000000400800FC00A0000#96

theorem witness_EmulationTrapTaken :
    rejectCause idivWord = .emu ∧ trapping.CanIssue (grdHdr idivWord) ⟨true, guardUses (grdHdr idivWord)⟩ ∧
    (let t := trapping.trapOf (grdHdr idivWord) .emu 0 (emuSlots idivWord)
     trapping.CanTrap (grdHdr idivWord) t (framed (grdHdr idivWord) t)) :=
  ⟨by decide +kernel, canIssue_of (by decide +kernel), canTrap_of (by decide +kernel)⟩

theorem witness_PrivRaisedOutsideHandler :
    (∀ l ∈ lanesOf trapping.cur.mask, trapping.recordWaits .m trapping.cur.w l = false) ∧
    (∀ i ∈ ([.rft h0 (rf .zr .zr .zr .zr .b32 1), .wrir h0 (rf .zr (.v 1) (.v 31) .zr), .rdir h0 (rf (.v 1) (.v 31) .zr .zr)] : List Instr),
      (checkOf i).ok = true ∧ ∀ l ∈ lanesOf trapping.cur.mask, ∀ u ∈ (checkOf i).uses, trapping.waitUse trapping.cur.w l u = false) ∧
    (let t := trapping.trapAll .priv (fun _ c => noRec c.l)
     trapping.CanTrapAll h0 t (framedAll h0 t)) ∧
    (let t := trapping.trapAll .priv (slotsR (rf .zr (.v 1) (.v 31) .zr) .b32 .b32 .b32)
     trapping.CanTrapAll h0 t (framedAll h0 t)) ∧
    (∀ l ∈ lanesOf trapping.cur.mask, irWaits (rf .zr (.v 1) (.v 31) .zr) (.v 31) trapping (trapping.rdFor 0 l) = false) ∧
    (∀ l ∈ lanesOf trapping.cur.mask, irWaits (rf (.v 1) (.v 31) .zr .zr) (.v 31) trapping (trapping.rdFor 0 l) = false) :=
  ⟨by decide +kernel, by decide +kernel, canTrapAll_of (by decide +kernel), canTrapAll_of (by decide +kernel), by decide +kernel,
    by decide +kernel⟩

/-- RFT with NXT.OP 101 and REORD with NXT.T 1 (R40). -/
theorem witness_SelfTransferRaisesEnc :
    ∀ x ∈ ([0xB0C0A03C03C03C03C0000001#96, 0x9180043C0002403320800002#96] : List IWord),
      (opcOf x = 0x2C3 ∨ opcOf x = 0x246) ∧ x.extractLsb' 74 6 ≠ 0 ∧
      (∀ l ∈ lanesOf trapping.cur.mask, ∀ u ∈ guardUses (grdHdr x), trapping.waitUse trapping.cur.w l u = false) ∧
      trapping.CanTrapAll (grdHdr x) (trapping.trapAll .enc (emuSlots x)) (framedAll (grdHdr x) (trapping.trapAll .enc (emuSlots x))) := by
  intro x hx
  simp only [List.mem_cons, List.not_mem_nil, or_false] at hx
  rcases hx with rfl | rfl <;> exact ⟨by decide +kernel, by decide +kernel, by decide +kernel, canTrapAll_of (by decide +kernel)⟩

/-- The ends of the unlisted ranges of opcodes (R65). -/
def unlisted : List Nat :=
  [0x00F, 0x02B, 0x030, 0x07F, 0x09B, 0x0FF, 0x106, 0x13F, 0x14E, 0x17F, 0x18C, 0x1BF, 0x1D6, 0x23F, 0x248, 0x27F, 0x28A, 0x2BF, 0x2C6, 0x3BF]

theorem witness_UnlistedOpcodesRaiseResv :
    (∀ n ∈ unlisted, rejectCause (BitVec.ofNat 96 (n * 2 ^ 86)) = .resv) ∧
    ∀ n ∈ ([0x00F, 0x3BF] : List Nat), (let x : IWord := BitVec.ofNat 96 (n * 2 ^ 86)
      (∀ l ∈ lanesOf trapping.cur.mask, ∀ u ∈ guardUses (grdHdr x), trapping.waitUse trapping.cur.w l u = false) ∧
      trapping.CanTrapAll (grdHdr x) (trapping.trapAll .resv (emuSlots x)) (framedAll (grdHdr x) (trapping.trapAll .resv (emuSlots x)))) := by
  refine ⟨by decide +kernel, ?_⟩
  intro n hn
  simp only [List.mem_cons, List.not_mem_nil, or_false] at hn
  rcases hn with rfl | rfl <;> exact ⟨by decide +kernel, canTrapAll_of (by decide +kernel)⟩

/-! ## Long-latency instructions -/

/-- The hypotheses of `CanIssueLong` as a computation. -/
def canLongB (s : State) (i : Instr) (h : Hdr) (op : LongOp) : Bool :=
  canIssueB s h (checkOf i)
  && (lanesOf s.cur.mask).all (fun l => !s.recordWaits op.pipe s.cur.w l && (op.pre s (s.rdFor 0 l)).isNone)
  && (lanesOf (s.activeSet h)).all (fun l => !op.wait s (s.rdFor 0 l) && (op.cause s (s.rdAt h l)).isNone) && decide (s.activeSet h ≠ 0)
  && decide ((lanesOf (if op.once then bit32 ((leadOf (s.activeSet h)).getD 0) else s.activeSet h)) = [3])
  && (if op.once then bit32 ((leadOf (s.activeSet h)).getD 0) else s.activeSet h).getLsbD 3

/-- The record of an instruction issued on a state. -/
def recOf (s : State) (i : Instr) (h : Hdr) (op : LongOp) : Op :=
  newOp i h op s s.cur.w s.cur.pc s.cur.word s.cur.mask (s.activeSet h) (s.serial + 1)

/-- A state and a next one meet the hypotheses under which a long-latency instruction completes. -/
def Met (s : State) (i : Instr) (h : Hdr) (op : LongOp) (part : PartSpec) : Prop :=
  s.CanIssueLong i h op ∧ ∃ t, Performs op.once part (s.serial + 1)
    (lanesOf (if op.once then bit32 ((leadOf (s.activeSet h)).getD 0) else s.activeSet h)) (s.issued i h op) t

theorem met_of {s : State} {i : Instr} {h : Hdr} {op : LongOp} {part : PartSpec} {s1 : State} {p : Perf} (b : canLongB s i h op = true)
    (g : part (s.issued i h op) (recOf s i h op) 3 s1 p) (hh : (s.issued i h op).partHeld (recOf s i h op) 3 = false := by decide +kernel) :
    Met s i h op part := by
  simp only [canLongB, Bool.and_eq_true, Bool.not_eq_true', List.all_eq_true, Option.isNone_iff_eq_none,
    decide_eq_true_eq] at b
  obtain ⟨⟨⟨⟨⟨b0, b2⟩, b3⟩, b4⟩, b5⟩, b6⟩ := b
  refine ⟨{ toCanIssue := canIssue_of b0, records := fun l hl => (b2 l hl).1, still := fun l hl => (b3 l hl).1,
            free0 := fun l hl => (b2 l hl).2, sound := fun l hl => (b3 l hl).2, acts := b4 }, ?_⟩
  rw [b5]
  exact ⟨_, recOf s i h op, s1, p, Sys2Proof.Laws.nmapFind_set_self _ _ _, b6, hh, g, rfl⟩

def isHere (x : Place) : Bool := match x with | .here _ => true | _ => false
def targetOf (x : Place) : Target := match x with | .here t => t | _ => .zero
theorem here_of {x : Place} (b : isHere x = true) : x = .here (targetOf x) := by cases x <;> simp_all [isHere, targetOf]

def isOkAcc (x : Acc) : Bool := match x with | .ok _ => true | _ => false
def accBytes (x : Acc) : List Byte := match x with | .ok b => b | _ => []
theorem okAcc_of {x : State × Acc} (b : isOkAcc x.2 = true) : x = (x.1, .ok (accBytes x.2)) := by
  rcases x with ⟨s, a⟩; cases a <;> simp_all [isOkAcc, accBytes]

def mform (d : Opnd) (sp : Space) (w : Width) : MForm :=
  { dst := d, base := .zr, index := .zr, space := sp, width := w, cache := .dflt, fe := .ignore, ord := .plain, scope := .thread,
    scl := false, ofs := 64 }

theorem witness_ld : Met one (.ld h0 (mform (.v 4) .global .b128)) h0 (opLd (mform (.v 4) .global .b128)) (partLd (mform (.v 4) .global .b128)) :=
  met_of (by decide +kernel)
    ⟨_, _, _, _, here_of (by decide +kernel), .inl rfl, rfl, okAcc_of (by decide +kernel), rfl, rfl⟩

def isOkE {ε α : Type} (x : Except ε α) : Bool := match x with | .ok _ => true | .error _ => false
def valE {ε α : Type} (x : Except ε α) (b : isOkE x = true) : α := match x, b with | .ok v, _ => v
theorem okE_of {σ ε α : Type} {x : σ × Except ε α} (b : isOkE x.2 = true) : x = (x.1, .ok (valE x.2 b)) := by
  rcases x with ⟨s, a⟩
  cases a with
  | ok v => rfl
  | error e => exact absurd b (by simp [isOkE])
theorem okE1_of {ε α : Type} {x : Except ε α} (b : isOkE x = true) : x = .ok (valE x b) := by
  cases x with
  | ok v => rfl
  | error e => exact absurd b (by simp [isOkE])
theorem noneB_of {α : Type} {x : Option α} (b : x.isNone = true) : x = none := by simpa using b
theorem someE_of {α : Type} {x : Option α} (b : x.isSome = true) : x = some (x.get b) := by simp

theorem witness_MemoryInstructionsComplete :
    Met one (.st h0 (mform (.v 4) .global .n8)) h0 (opSt (mform (.v 4) .global .n8)) (partSt (mform (.v 4) .global .n8)) ∧
    Met one (.prfm h0 (mform .zr .global .n8)) h0 (opPrfm (mform .zr .global .n8)) (partPrfm (mform .zr .global .n8)) ∧
    Met one (.cctl h0 (rf .zr .zr .zr .zr .b32 3)) h0 (opCctl (rf .zr .zr .zr .zr .b32 3)) (partCctl (rf .zr .zr .zr .zr .b32 3)) ∧
    Met one (.fence h0 (rf .zr .zr .zr .zr .b32 0x0F)) h0 (opFence (rf .zr .zr .zr .zr .b32 0x0F)) (partFence (rf .zr .zr .zr .zr .b32 0x0F)) :=
  ⟨met_of (by decide +kernel) ⟨_, _, _, here_of (by decide +kernel), .inl rfl, fun e => absurd e (by decide), okAcc_of (by decide +kernel), rfl, rfl⟩,
   met_of (by decide +kernel) ⟨rfl, .inr (.inr ⟨fun e => e.elim (fun a => absurd a (by decide)) (fun a => absurd a.1 (by decide)), 64, _, _, by decide +kernel, Prod.ext rfl (by decide +kernel), rfl⟩)⟩,
   met_of (by decide +kernel) ⟨rfl, .inl ⟨by decide, by decide +kernel, rfl⟩⟩,
   met_of (by decide +kernel) ⟨rfl, fun _ => by decide +kernel, rfl⟩⟩

theorem witness_AtomicFullEmptyComplete :
    (let f := rf (.v 7) (.v 2) (.imm (-1)) .zr .i32 0x80
     Met one (.atom h0 f) h0 (opAtom f false true) (partAtomic f (hostAtomic false (subBits f 2 0) f.ty) (atomWrites f) true)) ∧
    (let f := rf .zr (.v 2) (.imm 1) .zr .i32 0x80
     Met one (.red h0 f) h0 (opAtom f false false) (partAtomic f (hostAtomic false (subBits f 2 0) f.ty) (atomWrites f) false)) ∧
    (let f := rf (.v 7) (.v 2) (.v 4) (.v 6) .b32 0x80
     Met one (.cas h0 f) h0 (opAtom f true true) (partAtomic f true (casWrites f) true)) ∧
    (let f := rf .zr (.v 2) (.imm 1) .zr .b32 1
     Met one (.feset h0 f) h0 (opFeset f) (partFeset f)) ∧
    (let f := rf (.v 1) (.v 2) .zr .zr
     Met one (.feqry h0 f) h0 (opFeqry f) (partFeqry f)) :=
  ⟨met_of (by decide +kernel) ⟨_, _, _, here_of (by decide +kernel), fun e => absurd e (by decide), okE_of (by decide +kernel), rfl, rfl⟩,
   met_of (by decide +kernel) ⟨_, _, _, here_of (by decide +kernel), fun e => absurd e (by decide), okE_of (by decide +kernel), rfl, rfl⟩,
   met_of (by decide +kernel) ⟨_, _, _, here_of (by decide +kernel), fun e => absurd e (by decide), okE_of (by decide +kernel), rfl, rfl⟩,
   met_of (by decide +kernel) ⟨rfl, rfl⟩, met_of (by decide +kernel) ⟨rfl, rfl⟩⟩

/-- `one` with a scalar register. -/
def withS (s : State) (n : Nat) (x : Word) : State := s.applyWrite 0 (.s n x)

/-- A multicast group 0 of one member, core 0, with a slot of one line. -/
def grouped : State :=
  let m : McMember := { rank := 0, wg := 0, cid := 0, live := true }
  let g : McGroup := { gen := 0, n := 2, base := 0, slot := 1, hold := 5, anchor := 0, members := [m], spent := [] }
  { one with groups := [(groupKey 0 0, g)] }

/-- An arrival counter 0 of target 2, whose handle is in s2. -/
def counting : State :=
  let c : Counter :=
    { ctx := 0, serial := 1, count := 0, target := 2, round := 0, cid := 0, granule := 0, addr := 0, wg := 0, exit := false, auto := false,
      complete := false, enrolled := [], arrived := [] }
  let s := { one with counters := [(0, c)] }
  withS s 2 (s.handleOf 0 1)

/-- The workgroup of `one` on core 0 and its east neighbour, with an entry in the east queue. -/
def paired : State :=
  { one with wgs := nmapModify one.wgs 0 (fun g => { g with cores := g.cores ++ (g.cores.map (fun c => { c with cid := 1 })) })
             cores := { one.cores with links := [(1, [⟨0, List.replicate 32 7, false⟩])] } }

/-- MCJOIN makes a group at the largest rank and joins one; LDMC asks; the counters and links of the exchange instructions. -/
theorem witness_ExchangeInstructionsComplete :
    (let f := rf (.v 1) (.s 2) (.s 3) (.s 4)
     let s := withS (withS one 2 0x00FFFF00) 3 0x00100000
     Met s (.mcjoin h0 f) h0 (opMcjoin f) (partMcjoin f)) ∧
    (let f := rf .zr (.s 2) .zr .zr
     Met grouped (.mcleave h0 f) h0 (opMcleave f) partMcleave) ∧
    (let f := rf (.v 1) (.imm 1) (.v 4) .zr .b32 0
     Met (one.applyWrite 0 (.v 3 5 0x00FE0000)) (.acinit h0 f) h0 (opAcinit f) (partAcinit f)) ∧
    (let f := rf (.v 1) (.s 2) .zr .zr .b32 0xE0
     Met counting (.arrive h0 f) h0 (opArrive f) (partArrive f)) ∧
    (let f := rf .zr (.s 2) .zr .zr
     Met counting (.acfree h0 f) h0 (opAcfree f) partAcfree) ∧
    (let f := rf .zr (.v 2) .zr .zr .b32 1
     Met paired (.nnsend h0 f) h0 (opNnsend f) (partNnsend f)) ∧
    (let f := rf (.v 2) .zr .zr .zr .b32 1
     Met paired (.nnrecv h0 f) h0 (opNnrecv f) (partNnrecv f)) :=
  ⟨met_of (by decide +kernel) ⟨by unfold mcArgsOk; decide +kernel, .inl ⟨by decide +kernel, _, rfl, rfl, rfl⟩⟩,
   met_of (by decide +kernel) ⟨_, someE_of (by decide +kernel), by decide +kernel, rfl, rfl⟩,
   met_of (by decide +kernel) ⟨_, _, _, okE1_of (by decide +kernel), by decide +kernel, by decide +kernel, someE_of (by decide +kernel), rfl, rfl⟩,
   met_of (by decide +kernel) ⟨_, _, _, someE_of (by decide +kernel), .inl (by decide +kernel), by decide +kernel, rfl, rfl⟩,
   met_of (by decide +kernel) ⟨_, _, someE_of (by decide +kernel), rfl, rfl⟩,
   met_of (by decide +kernel) ⟨1, _, by decide +kernel, rfl, by decide +kernel, by decide +kernel, rfl, rfl⟩,
   met_of (by decide +kernel) ⟨_, _, _, rfl, by decide +kernel, rfl, someE_of (by decide +kernel), by decide +kernel, rfl, rfl⟩⟩

theorem witness_ldmc :
    (let f : MForm := { dst := .s 12, base := .s 4, index := .zr, space := .global, width := .n8, cache := .dflt, fe := .ignore, ord := .plain,
                        scope := .thread, scl := false, ofs := 0 }
     Met grouped (.ldmc h0 f) h0 (opLdmc f) (partLdmc f)) := by
  refine met_of (by decide +kernel) ⟨_, _, 0, _, _, _, rfl, someE_of (by decide +kernel), rfl, someE_of (by decide +kernel), ?_, ?_,
    here_of (by decide +kernel), ?_, .inr ⟨Prod.ext rfl (by decide +kernel), ?_⟩, fun _ _ => ?_, someE_of (by decide +kernel)⟩
  pick_goal 3
  intro k q e
  have n : State.holdOf grouped 0 0 0 0 = none := by decide +kernel
  exact absurd (n.symm.trans e) (by simp)
  all_goals decide +kernel

/-- Bytes placed in the scratch memory of core 0. -/
def withPad (s : State) (o n x : Nat) : State := s.sramWrite 0 o (bytesOf n x)

/-- Bytes placed in device memory. -/
def withMem (s : State) (a n x : Nat) : State :=
  { s with mem := { s.mem with home := putBytes s.mem.home (s.cardNo * 2 ^ 50 + a) (bytesOf n x) } }

/-- `one` with reservation 15 of 4096 bytes for .i8. -/
def reserved : State :=
  let q : Resv := { offset := 0, size := 16, ty := .i8, blk := 0, sparse := 0, scaleOfs := 0, indexOfs := 0 }
  one.modWgCore 0 (fun c => { c with resv := [(15, q)] })

/-- LRES of a record of one unit, LREL, LSTAT and LLD of reservation 15 up to its last byte, ACCZ of the last tile. -/
theorem witness_LoftInstructionsComplete :
    (let f := rf (.s 2) (.s 4) .zr .zr
     Met (withPad one 0 16 (2 ^ 20 + 2 ^ 32)) (.lres h0 f) h0 (opLres f) (partLres f)) ∧
    (let f := rf .zr (.imm 15) .zr .zr
     Met reserved (.lrel h0 f) h0 (opLrel f) partLrel) ∧
    (let f := rf (.s 2) (.imm 15) .zr .zr
     Met reserved (.lstat h0 f) h0 (opLstat f) (partLstat f)) ∧
    (let f := rf .zr (.s 4) (.imm 15) (.s 7)
     Met (withS reserved 7 0xFF0) (.lld h0 f) h0 (opLld f) (partLld f)) ∧
    (let f := rf (.acc 31) (.imm 1) .zr .zr
     Met one (.accz h0 f) h0 (opAccz f) (partAccz f)) :=
  ⟨met_of (by decide +kernel) ⟨_, _, _, _, by decide +kernel, okE_of (by decide +kernel), okE1_of (by decide +kernel),
      someE_of (by decide +kernel), rfl, rfl⟩,
   met_of (by decide +kernel) ⟨_, someE_of (by decide +kernel), by decide +kernel, rfl, rfl⟩,
   met_of (by decide +kernel) ⟨rfl, rfl⟩,
   met_of (by decide +kernel) ⟨_, _, _, by decide +kernel, by decide +kernel, someE_of (by decide +kernel), by decide +kernel, by decide +kernel, by decide +kernel,
      Prod.ext rfl (Prod.ext rfl (by decide +kernel)), rfl, rfl⟩,
   met_of (by decide +kernel) ⟨by decide +kernel, by decide +kernel, by decide +kernel, rfl, rfl⟩⟩

/-- A layout record: four .i8 elements from 0x100 on in global memory (R292). -/
def layout : Nat := 0x10001000100010000000000000000000000000000000000000000000000000000000100000001000000010000000400000000000001210000000000000100

/-- `one` with a copy of four bytes asked for. -/
def copying : State := withS one 8 4

theorem witness_cpy :
    (let f := rf (.s 2) (.s 4) (.s 6) (.s 8) .b32 0xE0
     Met copying (.cpy h0 f) h0 (opCpy f) (partEngine false f)) :=
  met_of (by decide +kernel) ⟨fun e => absurd e (by decide), by decide +kernel, by decide +kernel, by decide +kernel, rfl, rfl⟩

theorem witness_xform :
    (let f := rf (.s 20) (.s 4) .zr (.s 8) .b32 0xE7
     Met one (.xform h0 f) h0 (opXform f) (partEngine true f)) :=
  met_of (by decide +kernel) ⟨(fun _ => by decide +kernel), by decide +kernel, by decide +kernel, by decide +kernel, rfl, rfl⟩

theorem witness_tld :
    (let f := rf (.v 4) (.s 2) (.v 8) .zr .b32 2
     Met (withMem one 0 64 layout) (.tld h0 f) h0 (opTld f) (partTld f)) :=
  met_of (by decide +kernel) ⟨_, _, _, okE_of (by decide +kernel), okE_of (by decide +kernel), rfl⟩

set_option maxRecDepth 4000 in
theorem witness_tst :
    (let f := rf .zr (.s 2) (.v 8) (.v 4) .b32 2
     Met (withMem one 0 64 layout) (.tst h0 f) h0 (opTst f) (partTst f)) :=
  met_of (by decide +kernel) ⟨_, _, okE_of (by decide +kernel), by decide +kernel, by decide +kernel, okE_of (by decide +kernel), rfl⟩

theorem witness_pkst :
    (let f := rf (.s 1) (.s 2) (.s 3) (.v 4)
     Met one (.pkst h0 f) h0 (opPkst f) (partPkst f)) :=
  met_of (by decide +kernel) ⟨_, _, okE_of (by decide +kernel), by decide +kernel, rfl, rfl⟩

theorem witness_pkld :
    (let f := rf (.v 1) (.s 2) (.s 3) .zr
     Met one (.pkld h0 f) h0 (opPkld f) (partPkld f)) :=
  met_of (by decide +kernel) ⟨_, _, _, okE_of (by decide +kernel), okE_of (by decide +kernel), rfl⟩


/-! ## Graphs, units -/

/-- A pass of a grid of 4 × 1 tiles of one warp, without resources. -/
def pass0 : PassRec :=
  { entry := 0, frag := 0, gw := 4, gh := 1, tlog := 0, grain := 1, vregs := 256, sregs := 1024, scratch := 0, column := 0, loft := 0, acc := 0,
    wgx := 32, wgy := 1, wgz := 1, tlist := 0, depth := 0xFFFF, rvec := 1, rmat := 0, rcpy := 0, dispout := false, gangh := 1, gangw := 1,
    prio := 0, pclass := 0, ins := [], outs := [] }

/-- A graph of that pass with tiles 0 and 1 released and tile 0 taken. -/
def graph0 : Graph :=
  { ctx := 0, stack := 0, prio := 0, disp := false, dplane := 0, dres := 0, submit := 0, tokaddr := 0, tokval := 0, queue := none,
    launch := placedLaunch, passes := [pass0], ress := [], yard := [], released := [(0, ()), (1, ())], taken := [(0, ())], retired := [],
    resRetired := [], counts := [], slots := [], freed := [], ranges := [], serials := [], geomDone := [], raster := [], listBytes := [], tokWait := none, stall := [],
    score := 0, slot := 0 }

/-- The warp of `one` as a warp of pass 0 of that graph at tile 0, with index 1 next in its range. -/
def graphed : State :=
  let s := one.setWarp 0 { one.warp 0 with tile := some 0 }
  { s with graphs := [(5, graph0)]
           wgs := nmapModify s.wgs 0 (fun g => { g with graph := some 5, taken := [0], list := [some 0], range := some ⟨0, 1, 2⟩ }) }

/-- A ring header at scratch offset 0: two slots of 16 bytes at 0x100, FULL as given. -/
def ringed (full : Nat) : State := withPad one 0 32 (0x100 + 2 ^ 20 + 16 * 2 ^ 32 + full * 2 ^ 64)

theorem witness_rings :
    (let f := rf (.s 20) (.s 8) .zr .zr
     Met (ringed 0) (.racq h0 f) h0 (opRacq false f) (partRacq false f)) ∧
    (let f := rf (.s 20) (.s 8) .zr .zr
     Met (ringed 1) (.rtake h0 f) h0 (opRacq true f) (partRacq true f)) ∧
    (let f := rf .zr (.s 8) (.s 9) .zr
     Met (withS (ringed 0) 9 0x00100000) (.rfill h0 f) h0 (opRfill false f) (partRfill false)) ∧
    (let f := rf .zr (.s 8) (.s 9) .zr
     Met (ringed 1) (.rfree h0 f) h0 (opRfill true f) (partRfill true)) :=
  ⟨met_of (by decide +kernel) ⟨_, _, _, okE1_of (by decide +kernel), .inr ⟨rfl, rfl, rfl⟩, by decide +kernel, by decide +kernel, rfl⟩,
   met_of (by decide +kernel) ⟨_, _, _, okE1_of (by decide +kernel), .inr ⟨rfl, rfl, rfl⟩, by decide +kernel, by decide +kernel, rfl⟩,
   met_of (by decide +kernel) ⟨_, _, okE1_of (by decide +kernel), by decide +kernel, by decide +kernel, by decide +kernel, rfl, rfl⟩,
   met_of (by decide +kernel) ⟨_, _, okE1_of (by decide +kernel), by decide +kernel, by decide +kernel, by decide +kernel, rfl, rfl⟩⟩

theorem witness_glaunch : (let f := rf (.s 20) (.s 22) .zr .zr
    Met one (.glaunch h0 f) h0 (opGlaunch f) partGlaunch) :=
  met_of (by decide +kernel) ⟨by decide +kernel, by decide +kernel, by decide +kernel, by decide +kernel, rfl, rfl⟩

theorem witness_tdone : (let f := rf .zr .zr .zr .zr .b32 1
    Met graphed (.tdone h0 f) h0 (opTdone f) (partTdone f)) :=
  met_of (by decide +kernel) ⟨5, _, by decide +kernel, someE_of (by decide +kernel), rfl, fun _ => by decide +kernel, rfl⟩

theorem witness_rtnext : (let f := rf (.s 6) .zr .zr .zr
    Met graphed (.rtnext h0 f) h0 (opRtnext f) (partRtnext f)) :=
  met_of (by decide +kernel) (.inr ⟨by decide +kernel, by decide +kernel, by decide +kernel, _, rfl,
    .inl ⟨1, 1, 5, _, by decide +kernel, by decide +kernel, someE_of (by decide +kernel), by decide +kernel, by decide +kernel, Prod.ext rfl rfl⟩⟩)

theorem witness_reord : (let f := rf .zr (.v 9) (.v 12) (.bt 2) .b32 2
    Met one (.reord h0 f) { h0 with nxt := .exit } (opReord f) (partReord f)) :=
  met_of (by decide +kernel) ⟨by decide +kernel, rfl, rfl⟩

theorem witness_cutsel : (let f := rf (.s 8) (.s 10) (.s 12) .zr
    Met one (.cutsel h0 f) h0 (opCutsel f) (partCutsel f)) :=
  met_of (by decide +kernel) ⟨by decide +kernel, by decide +kernel, by decide +kernel, by decide +kernel, rfl, rfl⟩

theorem witness_shdec : (let f := rf (.v 20) (.v 4) (.v 6) .zr
    Met one (.shdec h0 f) h0 (opShdec f) (partShdec f)) :=
  met_of (by decide +kernel) ⟨_, _, _, okE_of (by decide +kernel), okE_of (by decide +kernel), rfl⟩

theorem witness_tex : (let f := rf (.v 4) (.s 8) (.v 10) .zr
    Met one (.tex h0 f) h0 (opTex f) (partTaps texTaps f)) :=
  met_of (by decide +kernel) ⟨_, _, _, okE_of (by decide +kernel), okE_of (by decide +kernel), rfl⟩

theorem witness_texg : (let f := rf (.v 4) (.s 8) (.v 10) (.v 12)
    Met one (.texg h0 f) h0 (opTexg f) (partTaps texgTaps f)) :=
  met_of (by decide +kernel) ⟨_, _, _, okE_of (by decide +kernel), okE_of (by decide +kernel), rfl⟩

theorem witness_texld : (let f := rf (.v 4) (.s 8) (.v 10) .zr
    Met one (.texld h0 f) h0 (opTexld f) (partTexld f)) :=
  met_of (by decide +kernel) ⟨_, _, okE_of (by decide +kernel), .inr ⟨by decide +kernel, by decide +kernel, by decide +kernel, _,
    okE_of (by decide +kernel), rfl⟩⟩

theorem witness_texq : (let f := rf (.v 4) (.s 8) (.imm 255) .zr
    Met one (.texq h0 f) h0 (opTexq f) (partTexq f)) :=
  met_of (by decide +kernel) ⟨_, okE_of (by decide +kernel), rfl⟩

theorem witness_primemit : (let f := rf .zr (.v 8) (.v 2) (.v 20) .b32 1
    Met one (.primemit h0 f) h0 (opPrimemit f) (partPrimemit f)) :=
  met_of (by decide +kernel) ⟨.inl (by decide +kernel), rfl, rfl⟩

theorem witness_iattr : (let f := rf (.v 4) .zr .zr .zr
    Met one (.iattr h0 f) h0 (opIattr f) (partIattr f)) :=
  met_of (by decide +kernel) ⟨rfl, rfl⟩

/-- A colour target of one tile of 64 × 64, and a raster pass into it. -/
def rasterGraph : Graph :=
  let r : ResRec := { ovbase := 0, mta := 0, base := 0x10000, clear := 0, tbytes := 0, ovslots := 0, lowm := 0, highm := 0, slots := 0, ht := 1, wt := 1,
                      ty := 0, cdc := false, trans := false, kind := 0 }
  { graph0 with ress := [r], passes := [{ pass0 with outs := [(0, 0)] }] }

def rasterPass : PassRec := { pass0 with outs := [(0, 0)] }

/-- A triangle over the whole target. -/
def tri : Tri :=
  { ctx := 0, graph := some 5, pass := 0, stack := 0, key := 7, na := 0, attr := [],
    pos := [0xBF800000, 0xBF800000, 0x3F000000, 0x3F800000, 0x40400000, 0xBF800000, 0x3F000000, 0x3F800000,
            0xBF800000, 0x40400000, 0x3F000000, 0x3F800000] }

/-- The warp of `one` as a fragment warp of that triangle. -/
def fragmented : State :=
  { one.setWarp 0 { one.warp 0 with frag := some { tri := tri, tile := 0, x0 := 0, y0 := 0, covered := 0xFFFFFFFF#32 } } with
    graphs := [(5, rasterGraph)] }

theorem witness_fout : (let f := rf .zr (.v 4) .zr .zr
    Met fragmented (.fout h0 f) h0 (opFout f) (partFout f)) :=
  met_of (by decide +kernel) ⟨rfl, .inr ⟨_, 5, _, _, _, someE_of (by decide +kernel), by decide +kernel, by decide +kernel,
    someE_of (by decide +kernel), someE_of (by decide +kernel), someE_of (by decide +kernel), rfl⟩⟩

theorem witness_rayq : (let f := rf (.v 4) (.s 8) (.v 8) (.v 12)
    Met one (.rayq h0 f) h0 (opRayq f) partRayq) :=
  met_of (by decide +kernel) ⟨by decide +kernel, by decide +kernel, rfl, rfl⟩

/-! ## Warp-wide instructions -/

/-- The hypotheses of `CanExecute` as a computation. -/
def canExecB (s : State) (i : Instr) (h : Hdr) (k : Nat) (op : WideOp) : Bool :=
  canIssueB s h (checkOf i)
  && (lanesOf s.cur.mask).all (fun l => !s.recordWaits (if op.long then .x else .c) s.cur.w l && (op.pre s (s.rdFor 0 l)).isNone)
  && (lanesOf (s.activeSet h)).all (fun l => !op.wait s (s.rdFor 0 l) && (op.cause s (s.rdFor s.cur.mask l)).isNone)
  && decide (s.newSigners k ≠ 0) && decide ((s.sign s.cur.w k).signed = 0)
  && decide (s.regs.getCv s.cur.w k &&& ~~~((s.round i h k).signed &&& ((s.outsidersGone h k).warp s.cur.w).live) = 0)
  && !op.full (s.outsidersGone h k) s.cur.w
  && (op.late (s.roundOver h k) (s.rdWide (s.round i h k))).isNone

theorem canExec_of {s : State} {i : Instr} {h : Hdr} {k : Nat} {op : WideOp} (b : canExecB s i h k op = true) : s.CanExecute i h k op := by
  simp only [canExecB, Bool.and_eq_true, Bool.not_eq_true', List.all_eq_true, Option.isNone_iff_eq_none, decide_eq_true_eq] at b
  obtain ⟨⟨⟨⟨⟨⟨⟨b0, b1⟩, b2⟩, b3⟩, b4⟩, b5⟩, b6⟩, b7⟩ := b
  exact { toCanIssue := canIssue_of b0, records := fun l hl => (b1 l hl).1, still := fun l hl => (b2 l hl).1,
          free0 := fun l hl => (b1 l hl).2, sound := fun l hl => (b2 l hl).2, signs := b3, samePc := fun c => absurd b4 c, complete := b5, roomy := b6,
          causeless := fun _ => b7 }

/-- `one` with cv0 holding its lane. -/
def voting : State := one.applyWrite 0 (.cv 0 8#32)

/-- The warp-wide instructions of fixed latency, each with its convergence register and its operation. -/
def voted : List (Instr × Nat × WideOp) :=
  let x := rf (.v 1) (.v 2) (.imm 255) (.p 7) .b32 0x18
  let r (ty : Ty) : RForm := rf (.v 1) (.v 2) .zr .zr ty
  [(.shfl h0 x, cvOf x, wideShfl x), (.vote h0 (rf (.p 1) (.p 2) .zr .zr), 0, wideVote (rf (.p 1) (.p 2) .zr .zr)),
   (.ballot h0 (rf (.v 1) (.p 2) .zr .zr), 0, wideBallot (rf (.v 1) (.p 2) .zr .zr)), (.matchOp h0 (r .b32), 0, wideMatch (r .b32)),
   (.redux h0 (r .i32), 0, wideRedux (r .i32)), (.prefixOp h0 (r .i32), 0, widePrefix (r .i32)), (.fredux h0 (r .f32), 0, wideFredux (r .f32)),
   (.qnt h0 (r .yk9), 0, wideQnt (r .yk9)), (.dqnt h0 (r .mxi8), 0, wideDqnt (r .mxi8))]

theorem witness_WarpWideComplete : ∀ e ∈ voted, voting.CanExecute e.1 h0 e.2.1 e.2.2 := by
  have b : voted.all (fun e => canExecB voting e.1 h0 e.2.1 e.2.2) = true := by decide +kernel
  exact fun e he => canExec_of (List.all_eq_true.1 b e he)

/-- The hypotheses under which a warp-wide long-latency instruction completes. -/
def MetWide (s : State) (i : Instr) (h : Hdr) (k : Nat) (wop : WideOp) (op : LongOp) (part : PartSpec) : Prop :=
  s.CanExecute i h k wop ∧ (s.round i h k).acting ≠ 0 ∧
    ∃ t, Performs true part ((s.signersGone i h k).serial + 1) [(leadOf (s.round i h k).acting).getD 0] (s.issuedWide i h k op) t

/-- The record of a warp-wide instruction that executes. -/
def recWide (s : State) (i : Instr) (h : Hdr) (k : Nat) (op : LongOp) : Op :=
  let t := s.signersGone i h k
  let g := s.round i h k
  { newOp i h op t s.cur.w s.cur.pc ((encode i).getD 0) g.signed g.acting (t.serial + 1) with
    win := (lanesOf g.acting).map (fun l => (l, h.la.toNat))
    undo := (s.roundOver h k).undoNxt h s.cur.w (lanesOf (g.waiting &&& g.guard)) }

theorem metWide_of {s : State} {i : Instr} {h : Hdr} {k : Nat} {wop : WideOp} {op : LongOp} {part : PartSpec} {s1 : State} {p : Perf}
    (b : canExecB s i h k wop = true) (c : (s.round i h k).acting ≠ 0)
    (d : (recWide s i h k op).todo.getLsbD ((leadOf (s.round i h k).acting).getD 0) = true)
    (g : part (s.issuedWide i h k op) (recWide s i h k op) ((leadOf (s.round i h k).acting).getD 0) s1 p)
    (hh : (s.issuedWide i h k op).partHeld (recWide s i h k op) ((leadOf (s.round i h k).acting).getD 0) = false := by decide +kernel) :
    MetWide s i h k wop op part :=
  ⟨canExec_of b, c, _, recWide s i h k op, s1, p, Sys2Proof.Laws.nmapFind_set_self _ _ _, d, hh, g, rfl⟩

theorem witness_MatrixMovesComplete :
    (let f := rf (.v 4) (.v 2) (.imm 0) .zr
     MetWide voting (.ldt4 h0 f) h0 (cvOf f) (wideLdt4 h0 f) (opLdt4 f) (partLdt4 f)) ∧
    (let f := rf (.v 4) (.acc 31) (.imm 60) .zr
     MetWide voting (.accrd h0 f) h0 (cvOf f) (wideAccrd h0 f) (opAccrd f) (partAccrd f)) ∧
    (let f := rf (.acc 31) (.v 4) (.imm 60) .zr
     MetWide voting (.accwr h0 f) h0 (cvOf f) (wideAccwr h0 f) (opAccwr f) (partAccwr f)) ∧
    (let f := rf (.v 4) (.acc 31) (.imm 0) .zr .f16
     MetWide voting (.accout h0 f) h0 (cvOf f) (wideAccout h0 f) (opAccout f) (partAccout f)) ∧
    (let f := rf (.acc 31) (.v 4) (.imm 0) .zr .f16
     MetWide voting (.accin h0 f) h0 (cvOf f) (wideAccin h0 f) (opAccin f) (partAccin f)) :=
  ⟨metWide_of (by decide +kernel) (by decide +kernel) (by decide +kernel) ⟨_, .inl (by decide +kernel), okE1_of (by decide +kernel), rfl, rfl⟩,
   metWide_of (by decide +kernel) (by decide +kernel) (by decide +kernel) ⟨rfl, rfl⟩,
   metWide_of (by decide +kernel) (by decide +kernel) (by decide +kernel) ⟨rfl, rfl⟩,
   metWide_of (by decide +kernel) (by decide +kernel) (by decide +kernel) ⟨rfl, rfl⟩,
   metWide_of (by decide +kernel) (by decide +kernel) (by decide +kernel) ⟨rfl, rfl⟩⟩

/-- `reserved` with cv0 holding its lane. -/
def multiplying : State := reserved.applyWrite 0 (.cv 0 8#32)

/-- An MMA by reservation 15, over a state. -/
def canMultiply (s : State) : Bool :=
  let f := rf (.acc 31) (.v 4) (.imm 15) .zr .i8
  canExecB s (.mma h0 f) h0 (cvOf f) (wideMma false (.mma h0 f) h0 f) && decide ((s.round (.mma h0 f) h0 (cvOf f)).acting ≠ 0)
  && (((s.signersGone (.mma h0 f) h0 (cvOf f)).wgCoreOf s.cur.w).held
    (((s.signersGone (.mma h0 f) h0 (cvOf f)).src (s.rdWide (s.round (.mma h0 f) h0 (cvOf f))) .n32 f.sb).toNat % 16)).isSome

/-- Its slice is idle and empty, idle with an instruction that waits, or runs one. -/
theorem witness_MatrixMultiplyComplete :
    (∀ s ∈ ([multiplying, { multiplying with cores := { multiplying.cores with slices := [(0, [7])] } },
      { multiplying with cores := { multiplying.cores with running := [(0, 7)] } }] : List State), canMultiply s = true) ∧
    (let i : Instr := .mma h0 (rf (.acc 31) (.v 4) (.imm 15) .zr .i8)
     let t := multiplying.signersGone i h0 0
     nmapFind t.cores.running 0 = none ∧ dmapGet [] t.cores.slices 0 = [] ∧ warpCid multiplying.cur.w * 4 + warpSlot multiplying.cur.w / 16 = 0) := by
  decide +kernel

def multiplyingQ : State :=
  let q : Resv := { offset := 0, size := 16, ty := .e4m3, blk := 2, sparse := 0, scaleOfs := 0, indexOfs := 0 }
  (one.modWgCore 0 (fun c => { c with resv := [(0, q)] })).applyWrite 0 (.cv 0 8#32)

theorem witness_MmaqExecutes :
    (let f := rf (.acc 2) (.v 16) (.imm 0) (.v 12) .e4m3
     let i : Instr := .mmaq h0 f
     multiplyingQ.CanExecute i h0 (cvOf f) (wideMma true i h0 f) ∧ (multiplyingQ.round i h0 (cvOf f)).acting ≠ 0 ∧
     (((multiplyingQ.signersGone i h0 (cvOf f)).wgCoreOf multiplyingQ.cur.w).held
        (((multiplyingQ.signersGone i h0 (cvOf f)).src (multiplyingQ.rdWide (multiplyingQ.round i h0 (cvOf f))) .n32 f.sb).toNat % 16)).isSome = true) :=
  ⟨canExec_of (by decide +kernel), by decide +kernel, by decide +kernel⟩

/-! ## Return from a trap -/

/-- `handler` in which lane 3 has taken a BRK at pc 9. -/
def returning : State :=
  let r : LaneRec := { noRec 3 with rp := 9 }
  let t : Trap := { cause := .brk, sub := 0, lanes := 8, word := 0x0BC0003C03C03C03C0000000#96, fav := false, repl := false, recs := [r], op := none }
  handler.setWarp 0 { handler.warp 0 with latch := some t }

/-- WRSR in each mode, RDIR and WRIR of a register that is neither pending nor poisoned, RFT with .retry and .adv. -/
theorem witness_HandlerInstructionsComplete :
    (∀ e ∈ ([(h0, .wrsr h0 (rf .zr (.imm 0) (.sr 0x30) .zr)), (h0, .wrsr h0 (rf .zr (.imm 6) (.sr 0x31) .zr)),
      (h0, .wrsr h0 (rf .zr (.imm 0) (.sr 0x32) .zr))] : List (Hdr × Instr)), one.CanIssue e.1 (checkOf e.2)) ∧
    (∀ e ∈ ([(h0, .wrsr h0 (rf .zr (.imm 0) (.sr 0x50) .zr .n64)), (h0, .wrsr h0 (rf .zr (.imm 0) (.sr 0x51) .zr)),
      (h0, .wrsr h0 (rf .zr (.imm 0) (.sr 0x52) .zr)), (h0, .rdir h0 (rf (.v 1) (.v 31) .zr .zr)),
      (h0, .wrir h0 (rf .zr (.v 1) (.v 31) .zr))] : List (Hdr × Instr)), handler.CanIssue e.1 (checkOf e.2)) ∧
    (∀ e ∈ ([(h0, .rft h0 (rf .zr .zr .zr .zr .b32 1)), (h0, .rft h0 (rf .zr .zr .zr .zr))] : List (Hdr × Instr)),
      returning.CanIssue e.1 (checkOf e.2)) ∧
    ((∀ l ∈ lanesOf handler.cur.mask, handler.inHandler handler.cur.w l = true ∧
        irWaits (rf (.v 1) (.v 31) .zr .zr) (.v 31) handler (handler.rdFor 0 l) = false ∧
        irWaits (rf .zr (.v 1) (.v 31) .zr) (.v 31) handler (handler.rdFor 0 l) = false) ∧
     (∀ l ∈ lanesOf (handler.activeSet h0), irPoison (rf (.v 1) (.v 31) .zr .zr) handler (handler.rdFor 0 l) = none) ∧
     ∀ l ∈ lanesOf returning.cur.mask, returning.inHandler returning.cur.w l = true ∧ returning.laneBusy returning.cur.w l = false ∧
       returning.recordWaits .m returning.cur.w l = false) :=
  ⟨allIssue_of (by decide +kernel), allIssue_of (by decide +kernel), allIssue_of (by decide +kernel), by decide +kernel⟩

theorem witness_RftResumes :
    (returning.warp returning.cur.w).holds = [] ∧ (returning.latchOf returning.cur.w).cause ≠ .page ∧
    wideOpOf (decode (returning.latchOf returning.cur.w).word) = none ∧ (∀ e ∈ returning.ops, turnLanes e.2 = []) ∧
    (∀ l ∈ lanesOf returning.cur.mask, returning.recordWaits .m returning.cur.w l = false) ∧ (returning.activeSet h0).getLsbD 3 = true ∧
    hdrOf (returning.latchOf returning.cur.w).word = some h0 ∧ h0.nxt = .seq := by
  and_intros <;> first | rfl | decide +kernel

/-! ## Events -/

theorem witness_SchedulingEventsComplete :
    (let s := { one.setWarp 0 { one.warp 0 with slotCount := 15 } with cur := Cur.none }
     (nmapFind s.warps 0).isSome = true ∧ rotationDue (s.warp 0) = true ∧ s.cur.mask = 0) ∧
    (let s := { one.setWarp 0 { one.warp 0 with waited := 64 } with cur := Cur.none }
     64 ≤ (s.warp 0).waited ∧ (s.warp 0).demotedLeft = 0 ∧ (s.warp 0).aged = false ∧ s.ready State.nextWaits 0 = true) ∧
    ((one.setWarp 0 { one.warp 0 with yieldLeft := 1 }).warp 0).yieldLeft = 1 ∧
    ((one.setWarp 0 { one.warp 0 with demotedLeft := 1 }).warp 0).demotedLeft = 1 ∧ (one.warp 0).hmode = 0 :=
  ⟨by decide +kernel, by decide +kernel, by decide +kernel, by decide +kernel, by decide +kernel⟩

/-- A lane that waits at a convergence point beyond %wdog. -/
def overdue : State :=
  let s := (one.setWarp 0 { one.warp 0 with wdog := 1 }).applyWrite 0 (.cv 0 0x18#32)
  s.setSign 0 0 { Sign.none with signed := 8, pc := 4, count := [(3, 2)] }

theorem witness_WatchdogFires :
    (let t := overdue.endWaits 0
     (nmapFind overdue.warps 0).isSome = true ∧ t.overdue 0 = [⟨3, 4, 2, 0⟩] ∧
     sortBy (fun a b => decide (t.whereOf a < t.whereOf b))
       ((t.warps.filter (fun e => e.2.ctx = (t.warp 0).ctx && !(t.overdue e.1).isEmpty)).map (·.1)) = [0]) := by decide +kernel

theorem witness_FetchEvictionWalkComplete :
    (let s := { one with cur := { one.cur with pc := 1 } }
     (s.wgOf s.cur.w).launch.codelen ≤ s.cur.pc.toNat) ∧
    one.ctxLive 0 = true ∧ (one.ctx 0).phase = .running ∧ (one.translate 0 0 .read).2 = .to false 0 := by decide +kernel

theorem wait_of {s : State} {i : Instr} {h : Hdr} {op : LongOp} {part : PartSpec} {ls : List Nat} (m : Met s i h op part)
    (e : lanesOf (if op.once then bit32 ((leadOf (s.activeSet h)).getD 0) else s.activeSet h) = ls) :
    nmapFind (s.issued i h op).ops (s.serial + 1) = some (recOf s i h op) ∧ ∃ t, Performs op.once part (s.serial + 1) ls (s.issued i h op) t :=
  ⟨Sys2Proof.Laws.nmapFind_set_self _ _ _, e ▸ m.2⟩

/-- An instruction of each of the nine kinds that waits, with what it waits for there. -/
def Awaits (s : State) (i : Instr) (h : Hdr) (op : LongOp) (part : PartSpec) (ls : Op → List Nat) : Prop :=
  nmapFind (s.issued i h op).ops (s.serial + 1) = some (recOf s i h op) ∧
    ∃ t, Performs op.once part (s.serial + 1) (ls (recOf s i h op)) (s.issued i h op) t

theorem witness_WaitEndEventsComplete :
    (let f := rf (.s 20) (.s 8) .zr .zr
     Awaits (ringed 0) (.racq h0 f) h0 (opRacq false f) (partRacq false f) (fun o => lanesOf o.todo)) ∧
    (let f := rf (.s 20) (.s 8) .zr .zr
     Awaits (ringed 1) (.rtake h0 f) h0 (opRacq true f) (partRacq true f) (fun o => lanesOf o.todo)) ∧
    (let f := rf (.s 6) .zr .zr .zr
     Awaits graphed (.rtnext h0 f) h0 (opRtnext f) (partRtnext f) (fun o => lanesOf o.todo)) ∧
    (let f := rf (.s 2) (.s 4) (.s 6) (.s 8) .b32 0xE0
     Awaits copying (.cpy h0 f) h0 (opCpy f) (partEngine false f) waitingLanes) ∧
    (let f := rf (.s 20) (.s 4) .zr (.s 8) .b32 0xE7
     Awaits one (.xform h0 f) h0 (opXform f) (partEngine true f) waitingLanes) ∧
    (let f := rf (.s 8) (.s 10) (.s 12) .zr
     Awaits one (.cutsel h0 f) h0 (opCutsel f) (partCutsel f) (fun o => lanesOf o.todo)) ∧
    (let f := rf (.s 20) (.s 22) .zr .zr
     Awaits one (.glaunch h0 f) h0 (opGlaunch f) partGlaunch (fun o => lanesOf o.todo)) ∧
    (let f := rf (.v 1) (.s 2) (.s 3) (.s 4)
     Awaits (withS (withS one 2 0x00FFFF00) 3 0x00100000) (.mcjoin h0 f) h0 (opMcjoin f) (partMcjoin f) waitingLanes) ∧
    (let f : MForm := { dst := .s 12, base := .s 4, index := .zr, space := .global, width := .n8, cache := .dflt, fe := .ignore, ord := .plain,
                        scope := .thread, scl := false, ofs := 0 }
     Awaits grouped (.ldmc h0 f) h0 (opLdmc f) (partLdmc f) (fun o => (waitingLanes o).filter (fun k => k = 3))) :=
  ⟨wait_of witness_rings.1 (by decide +kernel), wait_of witness_rings.2.1 (by decide +kernel), wait_of witness_rtnext (by decide +kernel),
   wait_of witness_cpy (by decide +kernel), wait_of witness_xform (by decide +kernel), wait_of witness_cutsel (by decide +kernel),
   wait_of witness_glaunch (by decide +kernel), wait_of witness_ExchangeInstructionsComplete.1 (by decide +kernel),
   wait_of witness_ldmc (by decide +kernel)⟩

/-- An instruction outstanding as `s` issues it, its record changed. -/
def outstanding (s : State) (i : Instr) (op : LongOp) (g : Op → Op) : State := (s.issued i h0 op).modOp (s.serial + 1) g

def ldFull : MForm := { mform (.v 4) .scratch .b32 with fe := .keep }
def stFull : MForm := { mform (.v 4) .scratch .b32 with fe := .set }

/-- `one` with the granule at scratch offset 64 full. -/
def granuleFull : State := one.setFe 0 64 true

def ldWait : State := outstanding granuleFull (.ld h0 ldFull) (opLd ldFull) (fun o => { o with waits := [(3, .fullEmpty, 64)] })
def ldRec : Op := { recOf granuleFull (.ld h0 ldFull) h0 (opLd ldFull) with waits := [(3, .fullEmpty, 64)] }
def stWait : State := outstanding one (.st h0 stFull) (opSt stFull) (fun o => { o with waits := [(3, .fullEmpty, 64)] })
def stRec : Op := { recOf one (.st h0 stFull) h0 (opSt stFull) with waits := [(3, .fullEmpty, 64)] }

/-- A lane's exit, a load's completion, the ends of full-empty waits, an LLD, the start and the end of an MMA. -/
theorem witness_CompletionEventsComplete :
    (one.setWarp 0 { one.warp 0 with leaving := 8 }).exitDue 0 3 = true ∧
    (let f := mform (.v 4) .global .b32
     let s := outstanding one (.ld h0 f) (opLd f) (fun o => { o with todo := 0 })
     ∃ o, nmapFind s.ops 1 = some o ∧ o.mma = none ∧ o.accepted = false ∧ o.todo = 0) ∧
    (nmapFind ldWait.ops 1 = some ldRec ∧ ldRec.instr = .ld h0 ldFull ∧ (ldRec.waitOf 3).1 = .fullEmpty ∧ ldRec.todo.getLsbD 3 = true ∧
     ∃ t, Performs (opLd ldFull).once (partLd ldFull) 1 [3] ldWait t) ∧
    (nmapFind stWait.ops 1 = some stRec ∧ stRec.instr = .st h0 stFull ∧ (stRec.waitOf 3).1 = .fullEmpty ∧ stRec.todo.getLsbD 3 = true ∧
     ∃ t, Performs (opSt stFull).once (partSt stFull) 1 [3] stWait t) ∧
    (let s := { one with cores := { one.cores with slices := [(3, [1])] } }
     nmapFind s.cores.running (0 * 4 + 3) = none ∧ dmapGet [] s.cores.slices (0 * 4 + 3) = 1 :: []) :=
  ⟨by decide +kernel, ⟨_, someE_of (by decide +kernel), by decide +kernel, by decide +kernel, by decide +kernel⟩,
   ⟨by decide +kernel, rfl, rfl, by decide +kernel, _, ldRec, _, _, by decide +kernel, by decide +kernel, by decide +kernel,
     ⟨_, _, _, _, here_of (by decide +kernel), .inr (by decide +kernel), rfl, okAcc_of (by decide +kernel), rfl, rfl⟩, rfl⟩,
   ⟨by decide +kernel, rfl, rfl, by decide +kernel, _, stRec, _, _, by decide +kernel, by decide +kernel, by decide +kernel,
     ⟨_, _, _, here_of (by decide +kernel), .inr (by decide +kernel), fun e => absurd e (by decide), okAcc_of (by decide +kernel), rfl, rfl⟩, rfl⟩,
   by decide +kernel⟩

/-- An MMA that runs in its slice. -/
def sliced : State :=
  let f := rf (.acc 31) (.v 4) (.imm 15) .zr .i8
  match exec (.mma h0 f) multiplying with | .next t => t | _ => multiplying

theorem witness_mmaCompletion :
    nmapFind sliced.cores.running (0 * 4 + 0) = some 1 ∧ ((nmapFind sliced.ops 1).bind (fun o => o.mma)).isSome = true := by decide +kernel

/-- A job of an accepted CPY with one update of four bytes left. -/
def job0 : Job :=
  let f := rf (.s 2) (.s 4) (.s 6) (.s 8) .b32 0xE0
  { engineJob false f one (recOf one (.cpy h0 f) h0 (opCpy f)) 3 with started := true, out := [(4, [(0x2000, [1, 2, 3, 4])])] }

def ray0 : RForm := rf (.v 4) (.s 8) (.v 8) (.v 12)

/-- A query accepted over a structure without nodes (R225). -/
def queried : State := outstanding (withMem one 0 64 (64 * 2 ^ 64)) (.rayq h0 ray0) (opRayq ray0) (fun o => { o with mark := some 8 })

def rayRec : Op := { recOf (withMem one 0 64 (64 * 2 ^ 64)) (.rayq h0 ray0) h0 (opRayq ray0) with mark := some 8 }

/-- A cut-selection job over no sheet, with the smallest atlas and view (R183, R185). -/
def cut0 : CutJob :=
  { ctx := 0, stack := 0, cid := 0, w := 0, atlas := 0, view := 0, range := some (0, 0),
    words := some (2 ^ 256 + 2 ^ 256 * 2 ^ 32 + 2 ^ 256 * 2 ^ 64, 2 ^ 160), owns := [], fault := none, home := one.wgOf 0, lane := 0,
    order := 0 }

def hold0 : HoldRec :=
  { ctx := 0, gid := 0, gen := 0, ea := 0, pa := 0, ofs := 0, slice := 0, asks := [], timer := some 0, fill := none, bad := [], held := [],
    waiting := false, count := [] }

theorem witness_UnitEventsComplete :
    (let s := { one with jobs := [(1, job0)] }
     s.jobActive job0 = true ∧ s.updateBlocked job0 (4, [(0x2000, [1, 2, 3, 4])]) = false) ∧
    ({ job0 with out := [] } : Job).started = true ∧
    (let s := { one with cuts := [(1, cut0)] }
     cut0.fault = none ∧ s.cutBlocked cut0 = false ∧ s.blockServes (.cutEngine 0) 0 = true ∧ (s.ctx 0).phase = .running ∧
     ∃ ax bx, cut0.words = some (ax, bx) ∧ atlasOk ax = true ∧ viewOk bx = true ∧
       (cut0.range.getD (0, (atlasOf ax).nsheets)).1 ≤ (cut0.range.getD (0, (atlasOf ax).nsheets)).2 ∧
       (cut0.range.getD (0, (atlasOf ax).nsheets)).2 ≤ (atlasOf ax).nsheets ∧
       ∃ x, s.cutOutputs cut0 (atlasOf ax) (viewOf bx) (cut0.range.getD (0, (atlasOf ax).nsheets)).1
         ((cut0.range.getD (0, (atlasOf ax).nsheets)).2 - (cut0.range.getD (0, (atlasOf ax).nsheets)).1) = .ok x) ∧
    (nmapFind queried.ops 1 = some rayRec ∧ (rayAccepted rayRec).getLsbD 3 = true ∧ rayRec.todo.getLsbD 3 = true ∧ queried.partHeld rayRec 3 = false ∧
     ∃ t x, queried.rayQuery rayRec (opRec rayRec 3) (ray0.sub.getLsbD 0) = (t, .ok x)) ∧
    (nmapFind ({ one with holds := [(1, hold0)] } : State).holds 1 = some hold0 ∧ hold0.timer.isSome = true) ∧
    (let s := { one with cores := { one.cores with flight := [(1, [⟨0, List.replicate 32 7, false⟩])] } }
     s.flightQ (0 * 4 + 1) = ⟨0, List.replicate 32 7, false⟩ :: []) ∧
    (let e : ReEntry := { key := 0, target := 0, payload := [], ctx := 0, wg := 0, drain := 0 }
     4096 ≤ ((one.setEntries 0 (List.replicate 4096 e)).entriesAt 0).length ∧
     ((one.setEntries 0 (List.replicate 4096 e)).entriesAt 0).any (fun e => e.drain = 0) = true) ∧
    (let e : ReEntry := { key := 0, target := 0, payload := [], ctx := 0, wg := 0, drain := 0 }
     let s := one.setEntries 0 [e]
     let s := { s with cores := { s.cores with reTimer := [(0, 5)], cycles := [(0, 4101)] } }
     (s.entriesAt 0).any (fun e => e.drain = 0) = true ∧ nmapFind s.cores.reTimer 0 = some 5 ∧ 5 + 4096 ≤ s.cyclesOf 0) :=
  ⟨by decide +kernel, rfl,
   ⟨rfl, by decide +kernel, by decide +kernel, by decide +kernel, _, _, rfl, by decide +kernel, by decide +kernel, by decide +kernel, by decide +kernel, _,
     okE1_of (by decide +kernel)⟩,
   ⟨by decide +kernel, by decide +kernel, by decide +kernel, by decide +kernel, _, _, okE_of (by decide +kernel)⟩,
   ⟨rfl, rfl⟩, by decide +kernel, by simp only [State.setEntries, State.entriesAt]; decide +kernel, by decide +kernel⟩

/-- Two layout records of four .i32 elements, at 0 and 64, for a reduction from 0x100 to 0x200. -/
def layout2 : Nat := 0x1000100010001000000000000000000000000000000000000000000000000000000010000000100000001000000040000000000000125000000000000020000010001000100010000000000000000000000000000000000000000000000000000000100000001000000010000000400000000000001250000000000000100

/-- The job of the one member of `grouped` there, waiting for the reduction. -/
def redJob : Job :=
  { job0 with xform := true, sub := 9, out := [], started := false, red := some (0, 0, 0), src := { noRec 3 with a := 64, b := 0 } }

def reducing : State := { withMem grouped 0 128 layout2 with jobs := [(1, redJob)] }

/-- A combined reduction whose members can all read and write. -/
theorem witness_collectiveReduction :
    ∃ f, nmapFind reducing.groups (groupKey 0 0) = some ((nmapFind reducing.groups (groupKey 0 0)).get (by decide +kernel)) ∧
      reducing.redReady 0 0 = true ∧ redFirst (reducing.redMembers 0 0 0) = some f ∧
      redStop (fun m => m.source reducing) (reducing.redMembers 0 0 0) = none ∧
      redStop (fun m => m.updates reducing (redResult reducing 2 (f.j.param 0 / 2 ^ 8 % 4) f.a.ty f.a.box (reducing.redMembers 0 0 0)))
        (reducing.redMembers 0 0 0) = none :=
  ⟨_, by simp, by decide +kernel, someE_of (by decide +kernel), noneB_of (by decide +kernel), noneB_of (by decide +kernel)⟩

/-- The box of the member is not readable: the reduction stops. -/
theorem witness_reductionStops :
    (let s : State := { reducing with jobs := [(1, { redJob with src := { redJob.src with a := 0x1000000 } })] }
     (redStop (fun m => m.source s) (s.redMembers 0 0 0)).isSome = true ∨ (redFirst (s.redMembers 0 0 0)).isNone = true) := by decide +kernel

/-- A raster pass whose triangle is set up: its entry, its tile and its graph. -/
def rastered : State := { one with graphs := [(5, rasterGraph)] }

def entry0 : TileEntry := { graph := 5, pass := 0, tile := 0, tri := tri }

def adm0 : AdmReq :=
  { ctx := 0, addr := 0, queue := none, op := none, graph := some graph0, since := 0, entry := 0, host := false, status := 0, fault := none }

theorem witness_GraphicsEventsComplete :
    (let s := { one with adms := [(1, adm0)] }
     adm0.fault = none ∧ (s.ctx adm0.ctx).phase = .running ∧ s.admTurn 1 adm0 = true) ∧
    (let s := rastered.setSetup 0 [tri]
     firstRunning s (fun (x : Tri) => x.ctx) (s.setupAt 0) = some (tri, []) ∧ s.triTarget tri = some (5, 1, 1) ∧ (s.geoOf tri).isSome = true) ∧
    (let s := { rastered with entries := [(0, [entry0])] }
     firstRunning s (fun (x : TileEntry) => x.tri.ctx) (dmapGet [] s.entries 0) = some (entry0, []) ∧
     s.blockServes (.rasteriser 0) entry0.tri.ctx = true ∧ nmapFind s.graphs entry0.graph = some rasterGraph ∧
     (rasterGraph.passAt 0).isSome = true ∧ (rasterGraph.rasterTile 0 0).written = false) ∧
    (let g := { rasterGraph with retired := [(0, ()), (1, ()), (2, ()), (3, ())] }
     let s := { one with graphs := [(5, g)] }
     g.passAt 0 = some rasterPass ∧ (s.ctx g.ctx).phase = .running ∧ s.tileServed g rasterPass 0 = true ∧ (g.rasterTile 0 0).written = false ∧
       (g.rasterTile 0 0).processed = false ∧ (g.rasterTiles rasterPass).contains 0 = true ∧ s.geometryDone 5 0 = true ∧ (s.processBin 5 0 0).2 = true) ∧
    (let g := { rasterGraph with retired := [(0, ()), (1, ()), (2, ()), (3, ())],
                                 raster := [(0, { pixels := [], pend := [], processed := true, written := false })] }
     let s := { one with graphs := [(5, g)] }
     g.passAt 0 = some rasterPass ∧ (s.ctx g.ctx).phase = .running ∧ s.tileServed g rasterPass 0 = true ∧ (g.rasterTile 0 0).written = false ∧ (g.rasterTile 0 0).processed = true ∧
       (g.rasterTile 0 0).pend = [] ∧ (nmapFind g.stall (tileKey 0 0)).isSome = false ∧ s.lists.any (fun e => e.2.any (entryIn 5 0 0)) = false ∧ s.geometryDone 5 0 = true ∧
       s.warps.any (fun w => match w.2.frag with | some f => f.tri.graph = some 5 && f.tri.pass = 0 && f.tile = 0 | none => false) = false ∧
       (s.storeTile g rasterPass 0 (g.rasterTile 0 0).pixels).2 = none) ∧
    one.card.stage = 5 := by
  and_intros <;> decide +kernel

/-- A queue of two entries of context 0, enabled, with one entry of the given word at address 0. -/
def queued (x : Nat) : State :=
  let q : Queue := { qbase := 0, qctl := 0x80010000, stat := 0, cause := 0, qhead := 0, qtail := 1, graphs := [], fault := none, fcause := 0 }
  (withMem one 0 64 x).setQueue 0 q

theorem witness_QueuesComplete :
    ((queued 0).queueEntry 0).2 = some { op := 0, graph := 0, tokaddr := 0, tokval := 0 } ∧
    ((queued 1).queueEntry 0).2 = some { op := 1, graph := 0, tokaddr := 0, tokval := 0 } ∧
    (let t := ((queued 1).queueEntry 0).1
     t.adms.any (fun a => a.2.queue = some 0 && a.2.entry = (t.queue 0).qhead) = false) ∧
    (let t := ((queued (2 + 0x100 * 2 ^ 128)).queueEntry 0).1
     ((queued (2 + 0x100 * 2 ^ 128)).queueEntry 0).2 = some { op := 2, graph := 0, tokaddr := 0x100, tokval := 0 } ∧
     isOkE (t.readRecord (t.queue 0).ctx 0x100 8).2 = true) ∧
    (let t := ((queued (3 + 0x100 * 2 ^ 128)).queueEntry 0).1
     ((queued (3 + 0x100 * 2 ^ 128)).queueEntry 0).2 = some { op := 3, graph := 0, tokaddr := 0x100, tokval := 0 } ∧
     (t.queue 0).graphs = [] ∧ 0x100 < 0xFE * 2 ^ 48 ∧ (t.writeToken (t.queue 0).ctx 0x100 0).2 = none) ∧
    one.card.stage = 5 ∧ (one.queue 0).on = false ∧
    (let x := (queued 0).queue 0
     x.on = true ∧ ((2 : Word) - x.qhead).toNat ≤ x.len ∧ (x.qtail - x.qhead).toNat ≤ ((2 : Word) - x.qhead).toNat ∧
     (queued 0).qctlOk x = true ∧ x.qctl.getLsbD 31 = true ∧ x.stat ≠ 3 ∧ x.len < ((3 : Word) - x.qhead).toNat ∧
     ((0 : Word) - x.qhead).toNat < (x.qtail - x.qhead).toNat) ∧
    (let x := one.queue 0
     x.qctl.getLsbD 31 = false ∧
     one.qctlOk { x with qctl := (0x80010000#32) &&& qctlMask, qhead := x.qtail, stat := 0, cause := 0, fault := none } = true) := by
  decide +kernel

theorem witness_ContextEventsComplete :
    one.card.stage = 5 ∧
    (let x := (nmapFind one.ctxs 63).getD Ctx.reset
     x.valid = false ∧ x.live = false) ∧
    (let x := (nmapFind one.ctxs 0).getD Ctx.reset
     x.valid = true ∧ x.live = true ∧ x.phase ≠ .ending) ∧
    (let s := { one with ctxs := nmapSet one.ctxs 0 { Ctx.reset with live := true, phase := .ending } }
     let x := (nmapFind s.ctxs 0).getD Ctx.reset
     x.live = true ∧ x.phase = .ending ∧
     (dedupNat (s.mem.l1.map (fun e => e.1 / 2 ^ 52))).any (fun k => s.dirtyOwned k 0 (2 ^ 52)) = false) := by decide +kernel

/-- A fault that waits to be written, in a buffer of two entries. -/
def fault0 : FaultRec :=
  { serial := 0, ctx := 0, kind := 1, level := 0, agent := .lane, va := 0x1000, entry := 0, ptag := 0, loc := 0, op := 0, lanes := 0, written := false,
    done := false }

theorem witness_TranslationPreemptionEventsComplete :
    one.card.stage = 5 ∧
    (let s := { one with card := { one.card with igo := [(7, 0, 1, 0)] } }
     s.card.igo = (7, 0, 1, 0) :: [] ∧ s.allJobs.any (fun j => j.ctx = 0 && (!j.out.isEmpty || !j.redo.isEmpty)) = false ∧
     s.allHolds.any (fun r => r.unread 0 1 0 && (s.rewalk r).isNone) = false) ∧
    (let s := { one with faults := [fault0], card := { one.card with fbctl := 0x80000001 } }
     s.faults.find? (fun f => !f.written) = some fault0 ∧ s.faultRoom = true) ∧
    one.exposed = true ∧ (0#64).getLsbD 44 = false ∧ (0x100000000000#64).getLsbD 44 = true ∧ one.card.prqueue.length < 64 ∧
    (let s := { one with ctxs := nmapModify one.ctxs 0 (fun c => { c with phase := .halting }), card := { one.card with prqueue := [0] } }
     let id := ctxIdOf 0 ((nmapFind s.ctxs 0).getD Ctx.reset)
     s.haltHeld id = false ∧
     let t := s.quiesce id
     let u := ({ t with warps := t.warps.map (fun (e : Nat × Warp) => if e.2.ctx = id then (e.1, { e.2 with halted := false }) else e) }.saveCtx
       id).setCtx id { t.ctx id with phase := .saved }
     ((nmapFind s.ctxs 0).getD Ctx.reset).phase = .halting ∧ (t.ctx id).phase = .halting ∧ u.card.prqueue = 0 :: []) := by
  simp only [State.setCtx, Sys2Proof.Laws.saveCtx_card]
  decide +kernel

/-- An error of a store class in a unit of a stack. -/
def site0 (cls unit : Nat) (dirty : Bool) : ErrSite := { cls := cls, stack := 3, loc := 0, unit := unit, slot := 0, tag := false, dirty := dirty, ret := .other }

theorem witness_ErrorEventsComplete :
    one.exposed = true ∧
    (let e : ErrSite := siteHome (site0 10 0 false)
     1 ≤ e.cls ∧ e.cls ≤ 10 ∧ e.stack < 4) ∧
    ((siteHome (site0 11 0 false)).cls = 11 ∧ (siteHome (site0 11 0 false)).stack < 4) ∧
    (∀ e ∈ ([siteHome (site0 1 0 false), siteHome (site0 4 0 true), siteHome (site0 12 1 false)] : List ErrSite),
      1 ≤ e.cls ∧ e.cls ≤ 12 ∧ e.cls ≠ 6 ∧ e.cls ≠ 7 ∧ e.stack < 4 ∧ one.refetches e = false) ∧
    isLane (siteHome { site0 0 0 false with ret := .lane 15 }) = true ∧
    (let e : ErrSite := siteHome (site0 4 0 false)
     e.cls = 4 ∧ e.stack < 4 ∧ e.dirty = false) ∧
    (let e : ErrSite := siteHome (site0 3 0 false)
     e.cls = 3 ∧ e.stack < 4 ∧ one.l1Dirty e.unit = false) := by decide +kernel

/-- A card without a mailbox request, one in STAGE 2 with a list of one entry, and a link dropped. -/
theorem witness_BootEventsComplete :
    (let s := { one with card := { one.card with mblen := 65536 } }
     s.mailTakes 1 = true ∧ s.mailTakes 2 = true ∧ s.reportLen ≤ s.card.mblen.toNat ∧ 1793 ≤ s.card.mblen.toNat) ∧
    (let s := { one with card := { one.card with stage := 2, mblen := 4, mbcmd := 3 }, mem := { one.mem with host := [(0, 1)] } }
     s.mailTakes 3 = true ∧ s.card.stage = 2 ∧ s.card.mblen.toNat % 4 = 0 ∧
     ((List.range (s.card.mblen.toNat / 4)).map (fun k => ofBytes (s.readHost (s.card.mbaddr.toNat + 4 * k) 4))).mapM retEntry
       = some [(1, 0, 0)]) ∧
    ({ one with card := { one.card with stage := 2, mbcmd := 4 } } : State).mailTakes 4 = true ∧ one.exposed = true ∧
    ({ one.card with ports := 8 } : CardRegs).ports.getLsbD 3 = true ∧ ({ one.card with dropped := 8 } : CardRegs).dropped.getLsbD 3 = true := by
  decide +kernel

/-- `one` with promotion enabled from the first miss on, in every stack. -/
def promoting : State :=
  let r := { one.errBlock 0 with promctl := 1 }
  { one with stackRegs := [(0, r), (1, r), (2, r), (3, r)] }

theorem most_of_four (n : Nat → Nat) :
    ∃ k < 4, (List.range 4).all (fun j => decide (n j < n k) || (n j = n k && decide (k ≤ j))) = true := by
  have e : List.range 4 = [0, 1, 2, 3] := rfl
  simp only [e, List.all_cons, List.all_nil, Bool.and_eq_true, Bool.or_eq_true, decide_eq_true_eq]
  have h : (∀ j < 4, n j ≤ n 0) ∨ ((∀ j < 4, n j ≤ n 1) ∧ n 0 < n 1) ∨ ((∀ j < 4, n j ≤ n 2) ∧ n 0 < n 2 ∧ n 1 < n 2) ∨
      ((∀ j < 4, n j ≤ n 3) ∧ n 0 < n 3 ∧ n 1 < n 3 ∧ n 2 < n 3) := by
    have a (k : Nat) : (∀ j < 4, n j ≤ n k) ↔ n 0 ≤ n k ∧ n 1 ≤ n k ∧ n 2 ≤ n k ∧ n 3 ≤ n k :=
      ⟨fun h => ⟨h 0 (by omega), h 1 (by omega), h 2 (by omega), h 3 (by omega)⟩, fun h j hj => by
        obtain ⟨h0, h1, h2, h3⟩ := h
        rcases j with _ | _ | _ | _ | j <;> first | assumption | omega⟩
    simp only [a]; omega
  rcases h with h | ⟨h, _⟩ | ⟨h, _⟩ | ⟨h, _⟩
  · exact ⟨0, by omega, by have := h 1 (by omega); have := h 2 (by omega); have := h 3 (by omega); simp; omega⟩
  · exact ⟨1, by omega, by have := h 0 (by omega); have := h 2 (by omega); have := h 3 (by omega); simp; omega⟩
  · exact ⟨2, by omega, by have := h 0 (by omega); have := h 1 (by omega); have := h 3 (by omega); simp; omega⟩
  · exact ⟨3, by omega, by have := h 0 (by omega); have := h 1 (by omega); have := h 2 (by omega); simp; omega⟩

theorem witness_pagePromotion :
    65536 * 0 / 2 ^ 50 = promoting.cardNo ∧ promoting.paKind (65536 * 0) = .gddr ∧ nmapFind promoting.mem.moved 0 = none ∧
    promoting.mem.promos.any (fun p => p.frame = 0) = false ∧
    (∀ k < 4, promoting.hotFrame k 0 = true ∧ (promoting.freeUnit k (promoting.paSecure (65536 * 0))).isSome = true) ∧
    (∃ k < 4, promoting.mostMisses k 0 = true) ∧ (promoting.trigger 0).isSome = true := by
  refine ⟨by decide +kernel, by decide +kernel, by decide +kernel, by decide +kernel, ?_,
    most_of_four (fun k => Config.l2Misses k 0 (promoting.errBlock k).epoch), by decide +kernel⟩
  have h : ∀ k < 4, (promoting.errBlock k).promctl = 1 := by decide +kernel
  have u : ∀ k < 4, (promoting.freeUnit k (promoting.paSecure (65536 * 0))).isSome = true := by decide +kernel
  exact fun k hk => ⟨by simp [State.hotFrame, h k hk], u k hk⟩

def promo0 : Promo := { stack := 0, frame := 2, yard := 0, marked := [], ctx := 0, page := 0x20000 }

theorem witness_CardEventsComplete :
    (let s := { one with mem := { one.mem with promos := [promo0] } }
     s.mem.promos.find? (fun p => p.stack = 0 && p.frame = 2) = some promo0) ∧
    (let s := { one with mem := { one.mem with moved := [(2, 7)] } }
     nmapFind s.mem.moved 2 = some 7 ∧ 7 / 2 ^ 32 = 0) ∧
    (one.blockIdle (.core 191) = true ∧ one.isSecure (.core 191) = !true) ∧
    (let s := { one with worlds := { one.worlds with blocks := [.core 191] } }
     s.blockIdle (.core 191) = true ∧ s.isSecure (.core 191) = !false) ∧
    (one.blockIdle (.core 0) = false ∧ one.isSecure (.core 0) = !true) ∧
    (one.blockIdle (.context 63) = true ∧ one.isSecure (.context 63) = !true) ∧
    (one.blockIdle (.gddr 65535) = true ∧ one.isSecure (.gddr 65535) = !true) ∧
    (one.card.stage = 5 ∧ 0 + 4 ≤ 2 ^ 38 ∧ one.paKind (one.cardNo * 2 ^ 50 + 0) = .gddr ∧ 0 + 4 ≤ one.gddrEnd ∧
     ∀ k < 4, one.paSecure (one.cardNo * 2 ^ 50 + 0 + k) = false) ∧ one.exposed = true ∧
    one.gddrEnd < 2 ^ 38 + 4 ∧
    epochLen ≤ (({ one with stackRegs := [(3, { one.errBlock 3 with sc := epochLen })] } : State).errBlock 3).sc := by decide +kernel

theorem witness_InvalidationAbandonsPromotion :
    (let s := { one with mem := { one.mem with promos := [promo0] }, card := { one.card with iva := 0x20000, inum := 1 } }
     s.card.stage = 5 ∧
     s.mem.promos.filter (fun q => invCovers s.card.iva.toNat s.card.inum.toNat s.card.ictx.toNat q.ctx q.page 4096) = [promo0]) := by
  decide +kernel

/-- A bank in tier 1 whose core has a hotspot reading. -/
theorem witness_SensorSetsTierAndAllowance :
    (let s := { one with thermal := { one.thermal with bankTier := [(bankKey 191 65535, 1)], hot := [(191, 100)] } }
     dmapGet 0 s.thermal.bankTier (bankKey (3 * 48 + 47) 65535) = 1 ∧
     (s.takeReading 3 ⟨47, 65535, 94⟩).hottestBank 191 = some 94 ∧
     nmapFind (s.takeReading 3 ⟨47, 65535, 94⟩).thermal.hot 191 = some 100) := by decide +kernel

/-! ## Results, frames, encoding, the step -/

theorem witness_LeaAddsScaled : one.CanIssue h0 (checkOf (.lea h0 (rf (.v 2) (.v 4) (.v 6) .zr .i64 7))) :=
  witness_LogicShiftFieldComplete (h0, .lea h0 (rf (.v 2) (.v 4) (.v 6) .zr .i64 7)) (by simp)

/-- The seven bitwise instructions, over one register and over pairs. -/
theorem witness_BitwiseResultBits :
    (∀ i ∈ ([.andOp h0 (rf (.v 1) (.v 2) (.v 3) .zr .b32 1), .orOp h0 (rf (.v 2) (.v 2) (.v 4) .zr .n64), .xorOp h0 (rf (.v 1) (.v 2) (.v 3) .zr),
      .tern h0 (rf (.v 1) (.v 2) (.v 3) (.v 4) .b32 0xFF), .andi h0 (iform (.v 1) (.v 2) .b32 0xFFFFFFFF), .ori h0 (iform (.v 1) (.v 2) .b32 0),
      .xori h0 (iform (.v 1) (.v 2) .b32 1)] : List Instr), canIssueB one h0 (checkOf i) = true) := by decide +kernel

theorem witness_DestinationTakesValue : ∀ l ∈ lanesOf one.cur.mask, one.inHandler one.cur.w l = false := by decide +kernel

/-- A lane with a true guard, and one with a false guard. -/
theorem witness_GuardAndNextPc :
    one.cur.mask.getLsbD 3 = true ∧ (one.activeSet h0).getLsbD 3 = true ∧ (one.activeSet { h0 with g := true }).getLsbD 3 = false ∧
    one.regs.getLc 0 3 0 = 0 ∧ (one.applyWrite 0 (.lc 3 0 5)).regs.getLc 0 3 0 ≠ 0 := by decide +kernel

/-- The destinations of the frames at the ends of their ranges: the last pair of each class. -/
theorem witness_RegisterInstructionsKeepTheRest :
    canIssueB one h0 (checkOf (.add h0 (rf (.v 254) (.v 2) (.v 4) .zr .i64))) = true ∧ evenPair (.v 254) = true ∧
    canIssueB one h0 (checkOf (.mov h0 (rf (.s 1022) (.v 2) .zr .zr .n64))) = true ∧ evenPair (.s 1022) = true ∧
    canIssueB one h0 (checkOf (.cmp h0 (rf (.p 15) (.v 2) (.v 3) .zr .i32))) = true ∧
    canIssueB one h0 (checkOf (.rdsr h0 (rf (.v 254) (.sr 64) .zr .zr .n64))) = true ∧
    canIssueB one h0 (checkOf (.fsh h0 (rf (.v 255) (.v 2) (.v 3) (.imm 32) .b32 3))) = true ∧
    canIssueB one h0 (checkOf (.nop h0 (rf .zr .zr .zr .zr))) = true := by decide +kernel

theorem witness_FloatingInstructionsKeepTheRest :
    canIssueB one h0 (checkOf (.fadd h0 (rf (.v 254) (.v 4) (.v 6) .zr .f64))) = true ∧
    canIssueB one h0 (checkOf (.spx h0 (rf (.v 254) (.v 4) (.v 5) .zr .f16))) = true ∧ evenPair (.v 254) = true := by decide +kernel

theorem witness_StoreKeepsTheRest :
    (let f := mform (.v 4) .global .n8
     Met one (.st h0 f) h0 (opSt f) (partSt f) ∧ lanesOf (one.activeSet h0) = [3] ∧ f.ord ≠ .rel ∧ f.fe = .ignore ∧
     (one.issued (.st h0 f) h0 (opSt f)).place one.cur.w (opRec (recOf one (.st h0 f) h0 (opSt f)) 3) f.space
       (opRec (recOf one (.st h0 f) h0 (opSt f)) 3).addr.toNat true = .here (.virt 64)) :=
  ⟨witness_MemoryInstructionsComplete.1, by decide +kernel, by decide, rfl, by decide +kernel⟩

theorem witness_LoadKeepsTheRest :
    (let f := mform (.v 4) .global .b128
     Met one (.ld h0 f) h0 (opLd f) (partLd f) ∧ lanesOf (one.activeSet h0) = [3] ∧ f.ord ≠ .acq ∧ f.fe = .ignore ∧
     (one.issued (.ld h0 f) h0 (opLd f)).place one.cur.w (opRec (recOf one (.ld h0 f) h0 (opLd f)) 3) f.space
       (opRec (recOf one (.ld h0 f) h0 (opLd f)) 3).addr.toNat false = .here (.virt 64)) :=
  ⟨witness_ld, by decide +kernel, by decide, rfl, by decide +kernel⟩

/-- A write and a read of every kind of target, among them the last words of the scratch memory and of the accumulators. -/
theorem witness_AccessKeepsTheRest :
    ∀ tgt ∈ ([.sram 191 0xFFFFC false, .sram 0 0 true, .column 191 0, .phys 0x10000, .virt 64, .view 0 0x100000, .view 191 0x3BFFFC, .zero] : List Target),
      isOkAcc (one.access ⟨0, 0, false⟩ tgt 64 4 (some [1, 2, 3, 4])).2 = true ∧ isOkAcc (one.access ⟨0, 0, true⟩ tgt 64 4 none).2 = true := by
  decide +kernel

/-- A load, a store and an atomic of one lane; a store with a release and .feset; TST and PKST. -/
theorem witness_StoringInstructionsKeepTheRest :
    (let f := mform (.v 4) .global .b128
     Met one (.ld h0 f) h0 (opLd f) (partLd f)) ∧
    (let f : MForm := { mform (.v 4) .scratch .b32 with fe := .set, ord := .rel, scope := .fabric }
     Met one (.st h0 f) h0 (opSt f) (partSt f)) ∧
    (let f := rf (.v 7) (.v 2) (.v 4) (.v 6) .b32 0x80
     Met one (.cas h0 f) h0 (opAtom f true true) (partAtomic f true (casWrites f) true)) ∧
    (let f := rf .zr (.s 2) (.v 8) (.v 4) .b32 2
     Met (withMem one 0 64 layout) (.tst h0 f) h0 (opTst f) (partTst f)) ∧
    (let f := rf (.s 1) (.s 2) (.s 3) (.v 4)
     Met one (.pkst h0 f) h0 (opPkst f) (partPkst f)) :=
  ⟨witness_ld, met_of (by decide +kernel) ⟨_, _, _, here_of (by decide +kernel), .inr (by decide +kernel), fun _ => by decide +kernel,
    okAcc_of (by decide +kernel), rfl, rfl⟩, witness_AtomicFullEmptyComplete.2.2.1, witness_tst, witness_pkst⟩

/-- ACCZ, the accumulator moves, a CPY whose plan works, and an update of a job. -/
theorem witness_TileAndEngineWritesKeepTheRest :
    (let f := rf (.acc 31) (.imm 1) .zr .zr
     Met one (.accz h0 f) h0 (opAccz f) (partAccz f)) ∧
    (let f := rf (.acc 31) (.v 4) (.imm 60) .zr
     MetWide voting (.accwr h0 f) h0 (cvOf f) (wideAccwr h0 f) (opAccwr f) (partAccwr f)) ∧
    (let f := rf (.s 2) (.s 4) (.s 6) (.s 8) .b32 0xE0
     let t := copying.issued (.cpy h0 f) h0 (opCpy f)
     let o := recOf copying (.cpy h0 f) h0 (opCpy f)
     let j := { engineJob false f t o 3 with order := t.serial + 1 }
     let s1 := { (t.releaseAt (warpCid o.w) .fabric).setJob o.seq j with serial := t.serial + 1 }
     Met copying (.cpy h0 f) h0 (opCpy f) (partEngine false f) ∧ isOkE (s1.jobEnv (s1.takeLines j) false).plan = true) ∧
    (let s := { one with jobs := [(1, job0)] }
     nmapFind s.jobs 1 = some job0 ∧ s.jobActive job0 = true ∧ s.updateBlocked job0 (4, [(0x2000, [1, 2, 3, 4])]) = false) :=
  ⟨witness_LoftInstructionsComplete.2.2.2.2, witness_MatrixMovesComplete.2.2.1, ⟨witness_cpy, by decide +kernel⟩, by decide +kernel⟩

theorem witness_StoredBytesAreRead : ∀ j < 4, one.homePa (0x1000 + j) = one.homePa 0x1000 + j := by decide +kernel

theorem witness_AccessesKeepMemoryCanonical : State.reset.Inv := by unfold State.Inv; decide +kernel

theorem witness_GeneratorAndModeWrites :
    one.CanIssue h0 (checkOf (.wrsr h0 (rf .zr (.imm 0) (.sr 0x32) .zr))) ∧ srNum (.sr 0x32) = 0x32 ∧
    one.CanIssue h0 (checkOf (.wrsr h0 (rf .zr (.imm 6) (.sr 0x31) .zr))) ∧ srNum (.sr 0x31) = 0x31 ∧ leadOf (one.activeSet h0) = some 3 ∧
    one.CanIssue h0 (checkOf (.mov h0 (rf (.v 1) (.sr 0x32) .zr .zr))) ∧ one.CanIssue h0 (checkOf (.rdsr h0 (rf (.v 1) (.sr 0x32) .zr .zr))) :=
  ⟨canIssue_of (by decide +kernel), rfl, canIssue_of (by decide +kernel), rfl, by decide +kernel, canIssue_of (by decide +kernel),
    canIssue_of (by decide +kernel)⟩

theorem witness_TrapEntrySavesAndGoes :
    (let t := trapping.trapOf h0 .brk 0 (slotsR (rf .zr .zr .zr .zr) .b32 .b32 .b32)
     trapping.CanIssue h0 (checkOf (.brk h0 (rf .zr .zr .zr .zr))) ∧ trapping.CanTrap h0 t (framed h0 t)) :=
  ⟨witness_BreakAndTrapTaken.1, witness_BreakAndTrapTaken.2.2.1⟩

/-- An instruction of each format. -/
theorem witness_DecodeOfEncode :
    ∀ i ∈ ([.add h0 (rf (.v 1) (.v 2) (.v 3) .zr .i8x4), .addi h0 (iform (.v 1) (.v 2) .i32 0xFFFFFFFF), .ld h0 (mform (.v 4) .global .b128)] : List Instr),
      hasFields i = true ∧ i.wf = true ∧ (encode i).isSome = true := by decide +kernel

theorem witness_EncodeOfDecode : hasFields (decode 0x20230000100090A3C0160400#96) = true := by decide +kernel

theorem witness_StepRunsDecoded :
    (let s := State.reset.withFetchWord 96 0x0000003C03C03C03C0000000
     s.agenda = [] ∧ s.cur.mask ≠ 0 ∧ (s.fetch s.cur.w s.cur.pc).2 = .word 0x0000003C03C03C03C0000000#96) ∧
    (let s := { one with cur := { one.cur with pc := 1 } }
     s.agenda = [] ∧ s.cur.mask ≠ 0 ∧ (s.fetch s.cur.w s.cur.pc).2 = .beyond) := by decide +kernel

/-! ## Results that the rules and worked examples give -/

/-- Register v d of lane 3 after an instruction on `one` with registers written first. -/
def res (ws : List RegWrite) (i : Instr) (d : Nat) : Option Word :=
  match exec i (one.applyWrites 0 ws) with
  | .next t => some (t.rdV 0 3 d)
  | _ => none

/-- Predicate p d of lane 3 after an instruction. -/
def resP (ws : List RegWrite) (i : Instr) (d : Nat) : Option Bool :=
  match exec i (one.applyWrites 0 ws) with
  | .next t => some (t.regs.getP 0 3 d)
  | _ => none

/-- Registers v 1, v 2 and v 3 of lane 3. -/
def abc (a b c : Word) : List RegWrite := [.v 3 1 a, .v 3 2 b, .v 3 3 c]

/-- Format R from v 1, v 2 and v 3 to v 4. -/
def r3 (ty : Ty := .b32) (sub : BitVec 8 := 0) : RForm := rf (.v 4) (.v 1) (.v 2) (.v 3) ty sub
def r2 (ty : Ty := .b32) (sub : BitVec 8 := 0) : RForm := rf (.v 4) (.v 1) (.v 2) .zr ty sub
def r1 (ty : Ty := .b32) (sub : BitVec 8 := 0) : RForm := rf (.v 4) (.v 1) .zr .zr ty sub

/-- R74 and R101: an integer sum wraps, or clamps with SAT. -/
theorem test_add_wraps : res (abc 0xFFFFFFFF 2 0) (.add h0 (r2 .n32)) 4 = some 1 := by decide +kernel
theorem test_add_clamps : res (abc 0xFFFFFFFF 2 0) (.add h0 { r2 .n32 with sat := true }) 4 = some 0xFFFFFFFF := by decide +kernel

/-- R101: elements of a packed type do not carry into each other. -/
theorem test_sub_packed : res (abc 0x00010203 0x01010101 0) (.subOp h0 (r2 .i8x4)) 4 = some 0xFF000102 := by decide +kernel

/-- The high half of a signed product: −1 × 2 = −2. -/
theorem test_mulhi_signed : res (abc 0xFFFFFFFF 2 0) (.mulhi h0 (r2 .i32)) 4 = some 0xFFFFFFFF := by decide +kernel

/-- R112: the tables that the rule works out. -/
theorem test_tern_majority : res (abc 0xF0 0xCC 0xAA) (.tern h0 (r3 .b32 0xE8)) 4 = some 0xE8 := by decide +kernel
theorem test_tern_and_not : res (abc 0xAA 0xCC 0xF0) (.tern h0 (r3 .b32 0x02)) 4 = some 0x02 := by decide +kernel

/-- R113: the count modulo the width, and with .clamp. -/
theorem test_shl_modulo : res (abc 3 33 0) (.shl h0 (r2 .b32)) 4 = some 6 := by decide +kernel
theorem test_sar_clamp : res (abc 0x80000000 99 0) (.sar h0 (r2 .i32 1)) 4 = some 0xFFFFFFFF := by decide +kernel

/-- R114: counts of zero. -/
theorem test_clz_zero : res (abc 0 0 0) (.clz h0 (r1 .b32)) 4 = some 32 := by decide +kernel

/-- R120: −1 × 255, unsigned b. -/
theorem test_dp4 : res (abc 0xFF 0xFF 10) (.dp4 h0 (r3 .i8x4)) 4 = some 0xFFFFFF0B := by decide +kernel

/-- R145, the rule's table. -/
theorem test_emulated_division :
    emulatedDivision .i32 7 (-2) = (-3, 1) ∧ emulatedDivision .i32 (-7) 2 = (-3, -1) ∧ emulatedDivision .i32 5 0 = (-1, 5) ∧
    emulatedDivision .i32 (-5) 0 = (-2 ^ 31, -5) ∧ emulatedDivision .i32 (-2 ^ 31) (-1) = (-2 ^ 31, 0) ∧
    emulatedDivision .n32 0xFFFFFFFF 0 = (0xFFFFFFFF, 0xFFFFFFFF) ∧ emulatedDivision .n32 0xFFFFFFFF 0x10 = (0x0FFFFFFF, 0xF) := by decide +kernel

/-- 1.0 + 2.0. -/
theorem test_fadd : res (abc 0x3F800000 0x40000000 0) (.fadd h0 (r2 .f32)) 4 = some 0x40400000 := by decide +kernel

/-- R82: 2^24 + 1 ties to even. -/
theorem test_fadd_rne : res (abc 0x4B800000 0x3F800000 0) (.fadd h0 (r2 .f32)) 4 = some 0x4B800000 := by decide +kernel

/-- R125: −0 is class 3. -/
theorem test_fclass : res (abc 0x80000000 0 0) (.fclass h0 (r1 .f32)) 4 = some 8 := by decide +kernel

/-- R126: FRND.rne of −0.25 gives −0. -/
theorem test_frnd : res (abc 0xBE800000 0 0) (.frnd h0 (r1 .f32)) 4 = some 0x80000000 := by decide +kernel

/-- R124: +0 and −0 compare equal. -/
theorem test_fcmp_zeros : resP (abc 0 0x80000000 0) (.fcmp h0 (rf (.p 3) (.v 1) (.v 2) .zr .f32 0)) 3 = some true := by decide +kernel

/-- R139: an index that names no member gives 0 and sets q; the lane's own index gives its value. -/
def shflForm : RForm := rf (.v 4) (.v 1) (.v 2) (.p 5)

theorem test_shfl_non_member : resP [.cv 0 8, .v 3 1 77, .v 3 2 4] (.shfl h0 shflForm) 5 = some true := by decide +kernel
theorem test_shfl_self : res [.cv 0 8, .v 3 1 77, .v 3 2 3] (.shfl h0 shflForm) 4 = some 77 := by decide +kernel

/-- R170 with R97: an element of the worked program of spec/17, row 0 of core g = 0, columns 0 to 3: 32 × 2^−2 + 32, 32 × 2^−1 + 32,
64 and 32 × 2 + 32, each as .f32. -/
def workedRow : ARows :=
  { rows := [(0, List.replicate 16 0x38383838)], scales := [(0, [0x7F7F])], ty := .e4m3, block := true }
def workedResv : Resv := { offset := 0, size := 33, ty := .e4m3, blk := 2, sparse := 0, scaleOfs := 0x2000, indexOfs := 0 }
def workedBytes : List Byte × List Byte × List Byte :=
  (List.replicate 4096 0x38, (List.replicate 16 [0x7D, 0x7E, 0x7F, 0x80]).flatten ++ List.replicate 64 0x7F, [])

theorem test_mmaq_worked :
    (List.range 4).map (fun j => mmaElem workedRow workedResv workedBytes 0 j 0) = [0x42200000, 0x42400000, 0x42800000, 0x42C00000] := by
  decide +kernel

/-- R217, the rule's example: metadata 0x92 and the first bytes of the tile. -/
def exampleTile : List Byte :=
  (List.range 64).flatMap (fun p => [BitVec.ofNat 8 (0x40 + p % 8), 0x80, BitVec.ofNat 8 (0x20 + p / 8), 0xFF])

theorem test_colour_delta :
    ((cdcEncode exampleTile 0).1, (cdcEncode exampleTile 0).2.take 16, (cdcEncode exampleTile 0).2.length)
      = (0x92, [0x40, 0x80, 0x20, 0xFF, 1, 1, 1, 1, 1, 1, 1, 0x10, 1, 1, 1, 1], 96) := by decide +kernel
theorem test_colour_delta_decodes : cdcDecode 0x92 (cdcEncode exampleTile 0).2 0 = exampleTile := by decide +kernel

/-- R443, the rule's examples. -/
theorem test_bank_tiers : nextTier 0 97 = 2 ∧ nextTier 2 94 = 1 ∧ nextTier 2 80 = 0 ∧ nextTier 1 85 = 1 := by decide

/-- R444: 16 × (95 − 90) = 80. -/
theorem test_allowance :
    ({ one with thermal := { one.thermal with bankTemp := [(0, 90)], hot := [(0, 100)], b := 255 } } : State).talwNow 0 = 80 := by decide +kernel

/-- R83: a write of 0 to %rng stores 1. -/
theorem test_rng_zero :
    (match exec (.wrsr h0 (rf .zr (.imm 0) (.sr 0x32) .zr)) one with | .next t => t.regs.getRng 0 3 | _ => 0) = 1 := by decide +kernel

/-- The pc of lane 3 after an instruction. -/
def pcAfter (i : Instr) (s : State) : Option Word :=
  match exec i s with
  | .next t => some (t.regs.getPc 0 3)
  | _ => none

/-- R36: sequential, a jump through bt 1, and a loop that goes on while lc 2 is not 0. -/
theorem test_next_pc :
    pcAfter (.nop h0 (rf .zr .zr .zr .zr)) one = some 1 ∧
    pcAfter (.nop { h0 with nxt := .jmp, t := 1 } (rf .zr .zr .zr .zr)) (one.applyWrite 0 (.bt 3 1 40)) = some 40 := by decide +kernel

/-! ## Ill-formed terms -/

/-- R48: a format R whose SUB has a bit that the instruction has not. -/
theorem test_wf_sub : (Instr.nop h0 (rf .zr .zr .zr .zr .b32 1)).wf = false := by decide +kernel
/-- R40: a 64-bit register pair at an odd number. -/
theorem test_wf_pair : (Instr.add h0 (rf (.v 1) (.v 2) (.v 4) .zr .n64)).wf = false := by decide +kernel
/-- A type that the instruction does not have. -/
theorem test_wf_type : (Instr.fadd h0 (rf (.v 1) (.v 2) (.v 3) .zr .i32)).wf = false := by decide +kernel
/-- A modifier that the instruction does not have. -/
theorem test_wf_modifier : (Instr.nop h0 { rf .zr .zr .zr .zr with sat := true }).wf = false := by decide +kernel
/-- An operand of a class that its place does not take. -/
theorem test_wf_operand : (Instr.add h0 (rf (.p 1) (.v 2) (.v 3) .zr .n32)).wf = false := by decide +kernel

end Sys2Proof.Tests
end

section
/-! The decoder and the encoder undo each other (R48 to R59): every code, every operand field and every slice of a word that the decoder
reads is what the encoder writes there. -/

namespace Sys2Proof.Laws

open Sys2Proof.Machine (tyOfCode tyCode)

/-- A field whose every decodable value is the code of what it decodes to. -/
theorem eq_of_all_code {n : Nat} {α : Type} {dec : BitVec n → Option α} {enc : α → BitVec n} {c : BitVec n} {x : α}
    (all : ∀ c, (dec c).all (fun x => enc x = c) = true) (e : dec c = some x) : enc x = c := by
  simpa [e] using all c

theorem nxtCode_of_nxtOfCode {c : BitVec 3} {x : Nxt} (e : nxtOfCode c = some x) : nxtCode x = c :=
  eq_of_all_code (by decide) e

theorem rndCode_of_rndOfCode {c : BitVec 3} {x : Rnd} (e : rndOfCode c = some x) : rndCode x = c :=
  eq_of_all_code (by decide) e

theorem spaceCode_of_spaceOfCode {c : BitVec 3} {x : Space} (e : spaceOfCode c = some x) : spaceCode x = c :=
  eq_of_all_code (by decide) e

theorem widthCode_of_widthOfCode {c : BitVec 3} {x : Width} (e : widthOfCode c = some x) : widthCode x = c :=
  eq_of_all_code (by decide) e

theorem tyCode_of_tyOfCode {c : BitVec 5} {x : Ty} (e : tyOfCode c.toNat = some x) : BitVec.ofNat 5 (tyCode x) = c :=
  eq_of_all_code (dec := fun c => tyOfCode c.toNat) (enc := fun x => BitVec.ofNat 5 (tyCode x)) (by decide) e

theorem opndBits_of_opndOf {c : BitVec 12} {o : Opnd} (e : opndOf c = some o) : opndBits o = c :=
  eq_of_all_code (by decide +kernel) e

@[simp] theorem cacheCode_cacheOfCode (c : BitVec 2) : cacheCode (cacheOfCode c) = c := by revert c; decide
@[simp] theorem feCode_feOfCode (c : BitVec 2) : feCode (feOfCode c) = c := by revert c; decide
@[simp] theorem ordCode_ordOfCode (c : BitVec 2) : ordCode (ordOfCode c) = c := by revert c; decide
@[simp] theorem scopeCode_scopeOfCode (c : BitVec 3) : scopeCode (scopeOfCode c) = c := by revert c; decide

/-- One bit of a word, as the slice of one bit that the encoder puts there. -/
theorem ofBool_getLsbD (x : IWord) (k : Nat) : BitVec.ofBool (x.getLsbD k) = x.extractLsb' k 1 := by
  ext i hi
  obtain rfl : i = 0 := by omega
  simp

/-- The header stands in the sixteen bits under the opcode (R35). -/
theorem hdrBits_of_hdrOf {x : IWord} {h : Hdr} (e : hdrOf x = some h) : hdrBits h = x.extractLsb' 70 16 := by
  unfold hdrOf at e
  split at e
  · cases e
  · next n en =>
    cases e
    simp (disch := decide) only [hdrBits, nxtCode_of_nxtOfCode en, ofBool_getLsbD,
      BitVec.extractLsb'_append_extractLsb'_eq_extractLsb']

theorem encR_of_fields {x : IWord} {h : Hdr} {f : RForm} (eh : hdrOf x = some h) (ef : rOf x = some f) :
    encR (BitVec.ofNat 10 (opcOf x)) h f = x := by
  unfold rOf at ef
  split at ef
  · next d a b c t r ed ea eb ec et er =>
    cases ef
    simp (disch := decide) only [encR, opcOf, BitVec.ofNat_toNat, BitVec.setWidth_eq, hdrBits_of_hdrOf eh,
      opndBits_of_opndOf ed, opndBits_of_opndOf ea, opndBits_of_opndOf eb, opndBits_of_opndOf ec, tyCode_of_tyOfCode et,
      rndCode_of_rndOfCode er, ofBool_getLsbD, BitVec.extractLsb'_append_extractLsb'_eq_extractLsb']
    exact BitVec.extractLsb'_eq_self
  · cases ef

theorem encI_of_fields {x : IWord} {h : Hdr} {f : IForm} (eh : hdrOf x = some h) (ef : iOf x = some f) :
    encI (BitVec.ofNat 10 (opcOf x)) h f = x := by
  unfold iOf at ef
  split at ef
  · next d a t r ed ea et er =>
    cases ef
    simp (disch := decide) only [encI, opcOf, BitVec.ofNat_toNat, BitVec.setWidth_eq, hdrBits_of_hdrOf eh,
      opndBits_of_opndOf ed, opndBits_of_opndOf ea, tyCode_of_tyOfCode et,
      rndCode_of_rndOfCode er, ofBool_getLsbD, BitVec.extractLsb'_append_extractLsb'_eq_extractLsb']
    exact BitVec.extractLsb'_eq_self
  · cases ef

theorem encM_of_fields {x : IWord} {h : Hdr} {f : MForm} (eh : hdrOf x = some h) (ef : mOf x = some f) :
    encM (BitVec.ofNat 10 (opcOf x)) h f = x := by
  unfold mOf at ef
  split at ef
  · next d a b sp wd ed ea eb es ew =>
    cases ef
    simp (disch := decide) only [encM, opcOf, BitVec.ofNat_toNat, BitVec.setWidth_eq, hdrBits_of_hdrOf eh,
      opndBits_of_opndOf ed, opndBits_of_opndOf ea, opndBits_of_opndOf eb, spaceCode_of_spaceOfCode es, widthCode_of_widthOfCode ew,
      cacheCode_cacheOfCode, feCode_feOfCode, ordCode_ordOfCode, scopeCode_scopeOfCode,
      ofBool_getLsbD, BitVec.extractLsb'_append_extractLsb'_eq_extractLsb']
    exact BitVec.extractLsb'_eq_self
  · cases ef

theorem encode_of_rOfOpc {opc : Nat} {h : Hdr} {f : RForm} {i : Instr} (e : rOfOpc opc h f = some i) :
    encode i = some (encR (BitVec.ofNat 10 opc) h f) := by
  unfold rOfOpc at e
  split at e <;> cases e <;> rfl

theorem encode_of_iOfOpc {opc : Nat} {h : Hdr} {f : IForm} {i : Instr} (e : iOfOpc opc h f = some i) :
    encode i = some (encI (BitVec.ofNat 10 opc) h f) := by
  unfold iOfOpc at e
  split at e <;> cases e <;> rfl

theorem encode_of_mOfOpc {opc : Nat} {h : Hdr} {f : MForm} {i : Instr} (e : mOfOpc opc h f = some i) :
    encode i = some (encM (BitVec.ofNat 10 opc) h f) := by
  unfold mOfOpc at e
  split at e <;> cases e <;> rfl

/-- The fields that the decoder reads are the whole word: the encoder puts every bit back. -/
theorem encode_of_decodeFields {x : IWord} {i : Instr} (e : decodeFields x = some i) : encode i = some x := by
  unfold decodeFields at e
  split at e
  · cases e
  · next h eh =>
    split at e
    · obtain ⟨f, ef, eo⟩ := Option.bind_eq_some_iff.mp e
      rw [encode_of_iOfOpc eo, encI_of_fields eh ef]
    · split at e
      · obtain ⟨f, ef, eo⟩ := Option.bind_eq_some_iff.mp e
        rw [encode_of_mOfOpc eo, encM_of_fields eh ef]
      · obtain ⟨f, ef, eo⟩ := Option.bind_eq_some_iff.mp e
        rw [encode_of_rOfOpc eo, encR_of_fields eh ef]

theorem opcAssigned_of_rOfOpc {opc : Nat} {h : Hdr} {f : RForm} {i : Instr} (e : rOfOpc opc h f = some i) : opcAssigned opc = true := by
  unfold rOfOpc at e
  split at e <;> cases e <;> rfl

theorem opcAssigned_of_isFmtI {opc : Nat} (e : isFmtI opc = true) : opcAssigned opc = true := by
  simp only [isFmtI, Bool.or_eq_true, decide_eq_true_eq] at e
  simp only [opcAssigned, Bool.or_eq_true, decide_eq_true_eq]
  omega

theorem opcAssigned_of_isFmtM {opc : Nat} (e : isFmtM opc = true) : opcAssigned opc = true := by
  simp only [isFmtM, Bool.or_eq_true, decide_eq_true_eq] at e
  simp only [opcAssigned, Bool.or_eq_true, decide_eq_true_eq]
  omega

/-- Only the opcodes that the table assigns have fields (R65). -/
theorem opcAssigned_of_decodeFields {x : IWord} {i : Instr} (e : decodeFields x = some i) : opcAssigned (opcOf x) = true := by
  unfold decodeFields at e
  split at e
  · cases e
  · split at e
    · next hI => exact opcAssigned_of_isFmtI hI
    · split at e
      · next hM => exact opcAssigned_of_isFmtM hM
      · obtain ⟨f, _, eo⟩ := Option.bind_eq_some_iff.mp e
        exact opcAssigned_of_rOfOpc eo

theorem lt_of_opcAssigned {opc : Nat} (e : opcAssigned opc = true) : opc < 0x3C0 := by
  simp only [opcAssigned, Bool.or_eq_true, decide_eq_true_eq] at e
  omega

theorem decode_of_fields {x : IWord} {i : Instr} (e : decodeFields x = some i) (wf : i.wf = true) : decode x = i := by
  have hx := lt_of_opcAssigned (opcAssigned_of_decodeFields e)
  have h0 : opcOf x ≠ 0x3C0 := by omega
  have h1 : opcOf x ≠ 0x3C1 := by omega
  simp [decode, h0, h1, e, wf]

/-- A word that decodes to an instruction with fields is one that the fields were read from. -/
theorem decodeFields_of_hasFields {x : IWord} (e : hasFields (decode x) = true) : decodeFields x = some (decode x) := by
  unfold decode at e ⊢
  split at e
  · cases e
  · split at e
    · cases e
    · split at e
      · cases e
      · next i ei =>
        split at e
        · next wf => simp [*]
        · cases e

/-- Every instruction that has fields reads back from its word. -/
theorem fieldsKept (i : Instr) : FieldsKept.Statement i := by
  cases i with
  | nop h f => exact FieldsKept.nop h f
  | mov h f => exact FieldsKept.mov h f
  | movi h f => exact FieldsKept.movi h f
  | sel h f => exact FieldsKept.sel h f
  | add h f => exact FieldsKept.add h f
  | addi h f => exact FieldsKept.addi h f
  | subOp h f => exact FieldsKept.subOp h f
  | mul h f => exact FieldsKept.mul h f
  | muli h f => exact FieldsKept.muli h f
  | mulhi h f => exact FieldsKept.mulhi h f
  | mad h f => exact FieldsKept.mad h f
  | madw h f => exact FieldsKept.madw h f
  | absOp h f => exact FieldsKept.absOp h f
  | minOp h f => exact FieldsKept.minOp h f
  | maxOp h f => exact FieldsKept.maxOp h f
  | andOp h f => exact FieldsKept.andOp h f
  | andi h f => exact FieldsKept.andi h f
  | orOp h f => exact FieldsKept.orOp h f
  | ori h f => exact FieldsKept.ori h f
  | xorOp h f => exact FieldsKept.xorOp h f
  | xori h f => exact FieldsKept.xori h f
  | tern h f => exact FieldsKept.tern h f
  | shl h f => exact FieldsKept.shl h f
  | shr h f => exact FieldsKept.shr h f
  | sar h f => exact FieldsKept.sar h f
  | rot h f => exact FieldsKept.rot h f
  | fsh h f => exact FieldsKept.fsh h f
  | bfx h f => exact FieldsKept.bfx h f
  | bfi h f => exact FieldsKept.bfi h f
  | popc h f => exact FieldsKept.popc h f
  | clz h f => exact FieldsKept.clz h f
  | ctz h f => exact FieldsKept.ctz h f
  | brev h f => exact FieldsKept.brev h f
  | bsel h f => exact FieldsKept.bsel h f
  | lea h f => exact FieldsKept.lea h f
  | cmp h f => exact FieldsKept.cmp h f
  | cmpi h f => exact FieldsKept.cmpi h f
  | plop h f => exact FieldsKept.plop h f
  | p2v h f => exact FieldsKept.p2v h f
  | v2p h f => exact FieldsKept.v2p h f
  | cvti h f => exact FieldsKept.cvti h f
  | dp4 h f => exact FieldsKept.dp4 h f
  | tgt h f => exact FieldsKept.tgt h f
  | movbt h f => exact FieldsKept.movbt h f
  | setlc h f => exact FieldsKept.setlc h f
  | brk h f => exact FieldsKept.brk h f
  | fadd h f => exact FieldsKept.fadd h f
  | faddi h f => exact FieldsKept.faddi h f
  | fmul h f => exact FieldsKept.fmul h f
  | fmuli h f => exact FieldsKept.fmuli h f
  | fma h f => exact FieldsKept.fma h f
  | fmin h f => exact FieldsKept.fmin h f
  | fmax h f => exact FieldsKept.fmax h f
  | fcmp h f => exact FieldsKept.fcmp h f
  | fclass h f => exact FieldsKept.fclass h f
  | frnd h f => exact FieldsKept.frnd h f
  | fcvt h f => exact FieldsKept.fcvt h f
  | f2i h f => exact FieldsKept.f2i h f
  | i2f h f => exact FieldsKept.i2f h f
  | fscale h f => exact FieldsKept.fscale h f
  | fdiv h f => exact FieldsKept.fdiv h f
  | fsqrt h f => exact FieldsKept.fsqrt h f
  | rcp h f => exact FieldsKept.rcp h f
  | rsq h f => exact FieldsKept.rsq h f
  | exp2 h f => exact FieldsKept.exp2 h f
  | log2 h f => exact FieldsKept.log2 h f
  | sin h f => exact FieldsKept.sin h f
  | cos h f => exact FieldsKept.cos h f
  | tanh h f => exact FieldsKept.tanh h f
  | fma2 h f => exact FieldsKept.fma2 h f
  | fadd2 h f => exact FieldsKept.fadd2 h f
  | fmul2 h f => exact FieldsKept.fmul2 h f
  | fdot2 h f => exact FieldsKept.fdot2 h f
  | qnt h f => exact FieldsKept.qnt h f
  | dqnt h f => exact FieldsKept.dqnt h f
  | pack h f => exact FieldsKept.pack h f
  | unpk h f => exact FieldsKept.unpk h f
  | spx h f => exact FieldsKept.spx h f
  | spexp h f => exact FieldsKept.spexp h f
  | cvset h f => exact FieldsKept.cvset h f
  | cvget h f => exact FieldsKept.cvget h f
  | shfl h f => exact FieldsKept.shfl h f
  | vote h f => exact FieldsKept.vote h f
  | ballot h f => exact FieldsKept.ballot h f
  | matchOp h f => exact FieldsKept.matchOp h f
  | redux h f => exact FieldsKept.redux h f
  | fredux h f => exact FieldsKept.fredux h f
  | prefixOp h f => exact FieldsKept.prefixOp h f
  | actmask h f => exact FieldsKept.actmask h f
  | yield h f => exact FieldsKept.yield h f
  | pause h f => exact FieldsKept.pause h f
  | nnsend h f => exact FieldsKept.nnsend h f
  | nnrecv h f => exact FieldsKept.nnrecv h f
  | lres h f => exact FieldsKept.lres h f
  | lrel h f => exact FieldsKept.lrel h f
  | lld h f => exact FieldsKept.lld h f
  | ldt4 h f => exact FieldsKept.ldt4 h f
  | mma h f => exact FieldsKept.mma h f
  | mmaq h f => exact FieldsKept.mmaq h f
  | accz h f => exact FieldsKept.accz h f
  | accrd h f => exact FieldsKept.accrd h f
  | accwr h f => exact FieldsKept.accwr h f
  | accout h f => exact FieldsKept.accout h f
  | accin h f => exact FieldsKept.accin h f
  | lstat h f => exact FieldsKept.lstat h f
  | ld h f => exact FieldsKept.ld h f
  | st h f => exact FieldsKept.st h f
  | ldmc h f => exact FieldsKept.ldmc h f
  | atom h f => exact FieldsKept.atom h f
  | red h f => exact FieldsKept.red h f
  | cas h f => exact FieldsKept.cas h f
  | fence h f => exact FieldsKept.fence h f
  | prfm h f => exact FieldsKept.prfm h f
  | cctl h f => exact FieldsKept.cctl h f
  | feset h f => exact FieldsKept.feset h f
  | feqry h f => exact FieldsKept.feqry h f
  | mcjoin h f => exact FieldsKept.mcjoin h f
  | mcleave h f => exact FieldsKept.mcleave h f
  | acinit h f => exact FieldsKept.acinit h f
  | arrive h f => exact FieldsKept.arrive h f
  | acfree h f => exact FieldsKept.acfree h f
  | cpy h f => exact FieldsKept.cpy h f
  | xform h f => exact FieldsKept.xform h f
  | tld h f => exact FieldsKept.tld h f
  | tst h f => exact FieldsKept.tst h f
  | pkld h f => exact FieldsKept.pkld h f
  | pkst h f => exact FieldsKept.pkst h f
  | glaunch h f => exact FieldsKept.glaunch h f
  | tdone h f => exact FieldsKept.tdone h f
  | racq h f => exact FieldsKept.racq h f
  | rfill h f => exact FieldsKept.rfill h f
  | rtake h f => exact FieldsKept.rtake h f
  | rfree h f => exact FieldsKept.rfree h f
  | reord h f => exact FieldsKept.reord h f
  | rtnext h f => exact FieldsKept.rtnext h f
  | cutsel h f => exact FieldsKept.cutsel h f
  | shdec h f => exact FieldsKept.shdec h f
  | tex h f => exact FieldsKept.tex h f
  | texg h f => exact FieldsKept.texg h f
  | texq h f => exact FieldsKept.texq h f
  | texld h f => exact FieldsKept.texld h f
  | iattr h f => exact FieldsKept.iattr h f
  | fout h f => exact FieldsKept.fout h f
  | rayq h f => exact FieldsKept.rayq h f
  | primemit h f => exact FieldsKept.primemit h f
  | rdsr h f => exact FieldsKept.rdsr h f
  | wrsr h f => exact FieldsKept.wrsr h f
  | trap h f => exact FieldsKept.trap h f
  | rft h f => exact FieldsKept.rft h f
  | wrir h f => exact FieldsKept.wrir h f
  | rdir h f => exact FieldsKept.rdir h f
  | idiv x => exact FieldsKept.idiv x
  | irem x => exact FieldsKept.irem x
  | unassignedOpcode x => exact FieldsKept.unassignedOpcode x
  | _ => exact fieldsKept_none _ rfl

/-- Settles O57: the decoder reads the fields that the encoder wrote, and no word of an instruction with fields is one of the
emulation space. -/
theorem decodeOfEncode : Obligations.DecodeOfEncode := by
  unfold Obligations.DecodeOfEncode
  exact fun i x fields wf e => decode_of_fields (fieldsKept i fields x e) wf

/-- Settles O58: the fields tile the word and each field's code is kept, so the encoder puts every bit back. -/
theorem encodeOfDecode : Obligations.EncodeOfDecode := by
  unfold Obligations.EncodeOfDecode
  exact fun x e => encode_of_decodeFields (decodeFields_of_hasFields e)

/-- Settles O56: each of the words is the encoding of its instruction, which is well formed, so O57 reads it back. -/
theorem writtenWordsDecode : Obligations.WrittenWordsDecode := by
  unfold Obligations.WrittenWordsDecode
  intro h f
  refine ⟨?_, ?_, ?_, ?_, ?_, ?_, ?_⟩ <;> exact decodeOfEncode _ _ rfl (by decide) (by decide)

end Sys2Proof.Laws
end

section
/-! The step: it runs the word that is fetched, and it always goes on (R33, R57, R63, R364). -/

namespace Sys2Proof.Laws

open Sys2Proof.Machine

/-- Every instruction and every event has a state after it: a cause is raised in that state and ends no run (R412, R413, R424). -/
theorem exec_goesOn (i : Instr) (s : State) : GoesOn (exec i s) := by
  cases i <;> exact ⟨_, rfl⟩

theorem andThen_goesOn {o : Out} {f : State → State} (go : GoesOn o) : GoesOn (andThen o f) := by
  obtain ⟨t, rfl⟩ := go
  exact ⟨f t, rfl⟩

theorem issueCur_goesOn (s : State) : GoesOn s.issueCur := by
  unfold State.issueCur
  split
  · exact andThen_goesOn (exec_goesOn _ _)
  · exact andThen_goesOn (exec_goesOn _ _)
  · exact ⟨_, rfl⟩
  · exact ⟨_, rfl⟩
  · exact ⟨_, rfl⟩

theorem issueWarp_goesOn (s : State) (w : Nat) : GoesOn (s.issueWarp w) := by
  unfold State.issueWarp
  split
  · exact exec_goesOn _ _
  · exact issueCur_goesOn _

theorem runSlot_goesOn (s : State) : GoesOn s.runSlot := by
  unfold State.runSlot
  split
  · exact issueWarp_goesOn _ _
  · split
    · exact exec_goesOn _ _
    · exact ⟨_, rfl⟩

theorem sweep_goesOn (s : State) : GoesOn s.sweep := by
  unfold State.sweep
  split
  · exact exec_goesOn _ _
  · exact runSlot_goesOn _

theorem step_goesOn (s : State) : GoesOn (step s) := by
  unfold step stepOnce
  split
  · exact exec_goesOn _ _
  · split
    · exact issueCur_goesOn s
    · split
      · exact sweep_goesOn s
      · exact runSlot_goesOn _

/-- Settles O60: each thing that a step can do is an instruction or an event, or leaves a state by itself. -/
theorem everyStepGoesOn : Obligations.EveryStepGoesOn := by
  unfold Obligations.EveryStepGoesOn
  exact ⟨exec_goesOn, step_goesOn⟩

/-- With no step named to come, a selected lane set issues (R57, R364). -/
theorem step_eq_issueCur {s : State} (idle : s.agenda = []) (selected : s.cur.mask ≠ 0) : step s = s.issueCur := by
  unfold step stepOnce
  rw [idle]
  exact if_pos selected

theorem issueCur_of_word {s s1 : State} {x : IWord} (fetched : s.fetch s.cur.w s.cur.pc = (s1, .word x)) :
    s.issueCur = andThen (exec (decode x) { s1 with cur := { s1.cur with word := x } }) State.takeSecond := by
  rw [State.issueCur, fetched]

theorem issueCur_of_beyond {s s1 : State} (fetched : s.fetch s.cur.w s.cur.pc = (s1, .beyond)) :
    s.issueCur = andThen (exec .fetchBeyondCodeSegment s1) State.takeSecond := by
  rw [State.issueCur, fetched]

/-- Settles O59: the step issues the current lane set, and that is exec of what the fetched word decodes to. -/
theorem stepRunsDecoded : Obligations.StepRunsDecoded := by
  unfold Obligations.StepRunsDecoded
  intro s s1 idle selected
  constructor
  · intro x fetched t run
    rw [step_eq_issueCur idle selected, issueCur_of_word fetched, run]
    rfl
  · intro fetched t run
    rw [step_eq_issueCur idle selected, issueCur_of_beyond fetched, run]
    rfl

end Sys2Proof.Laws
end

section
/-! Causes that every lane of the selected set raises before the operation itself, and the words that raise them (R63 to R66). -/

namespace Sys2Proof.Laws

open Sys2Proof.Machine

theorem next_congr {s t : State} (e : s = t) : (.next s : Out) = .next t := congrArg _ e

/-! ## Words that are no instruction -/

/-- A word below the emulation space whose fields, when they read at all, do not fit their form. -/
theorem decode_unassigned {x : IWord} (low : opcOf x < 0x3C0) (unfit : ∀ i, decodeFields x = some i → i.wf = false) :
    decode x = .unassignedOpcode x := by
  have h0 : opcOf x ≠ 0x3C0 := by omega
  have h1 : opcOf x ≠ 0x3C1 := by omega
  cases e : decodeFields x with
  | none => simp [decode, h0, h1, e]
  | some i => simp [decode, h0, h1, e, unfit i e]

theorem rejectCause_enc {x : IWord} (listed : opcAssigned (opcOf x) = true) : rejectCause x = .enc := by
  have low : ¬ 0x3C0 ≤ opcOf x := Nat.not_le.mpr (lt_of_opcAssigned listed)
  simp [rejectCause, low, listed]

theorem rejectCause_resv {x : IWord} (low : opcOf x < 0x3C0) (unlisted : opcAssigned (opcOf x) = false) : rejectCause x = .resv := by
  simp [rejectCause, Nat.not_le.mpr low, unlisted]

/-- A word that is no instruction, and none of the emulation space, raises its cause in every lane that issues it (R63, R64). -/
theorem exec_unassigned_all {x : IWord} {s s1 : State} {c : Cause} (rc : rejectCause x = c) (notEmu : c ≠ .emu)
    (notPoison : c ≠ .poison)
    (ready : ∀ l ∈ lanesOf s.cur.mask, ∀ u ∈ guardUses (grdHdr x), s.waitUse s.cur.w l u = false)
    (ct : s.CanTrapAll (grdHdr x) (s.trapAll c (emuSlots x)) s1) :
    exec (.unassignedOpcode x) s = .next (s1.enterLanes s.cur.w (s.trapAll c (emuSlots x))) := by
  have issue : issueReject x s = s1.enterLanes s.cur.w (s.trapAll c (emuSlots x)) := by
    unfold issueReject
    rw [rc]
    exact issueFixed_all rfl (by simpa using ready) (fun _ _ => rfl) (fun _ _ => if_neg notEmu) notPoison ct
  exact next_congr issue

/-! ## RFT and REORD with a NXT field (R40) -/

theorem noTransfer_of_rft_wf {h : Hdr} {f : RForm} (wf : (Instr.rft h f).wf = true) : h.nxt = .seq ∧ h.t = 0 := by
  simp only [Instr.wf, checkOf, chkRft, Bool.and_eq_true, decide_eq_true_eq] at wf
  exact ⟨wf.1.2, wf.2⟩

theorem noTransfer_of_reord_wf {h : Hdr} {f : RForm} (wf : (Instr.reord h f).wf = true) : h.nxt = .seq ∧ h.t = 0 := by
  simp only [Instr.wf, checkOf, chkReord, Bool.and_eq_true, decide_eq_true_eq] at wf
  exact ⟨wf.1.2, wf.2⟩

/-- A header without a transfer has nothing in the six bits of NXT (R35). -/
theorem nxtField_eq_zero {x : IWord} {h : Hdr} (e : hdrOf x = some h) (seq : h.nxt = .seq) (t : h.t = 0) : x.extractLsb' 74 6 = 0 := by
  unfold hdrOf at e
  split at e
  · cases e
  · next n en =>
    cases e
    have op : x.extractLsb' 77 3 = 0 := (nxtCode_of_nxtOfCode en).symm.trans (congrArg nxtCode seq)
    rw [← BitVec.extractLsb'_append_extractLsb'_eq_extractLsb' (start₂ := 77) (len₁ := 3) (len₂ := 3) rfl, op]
    exact congrArg (0#3 ++ ·) t

/-- The fields of a word of RFT or REORD do not fit when the NXT field is not 0. -/
theorem selfTransfer_unfit {x : IWord} (opc : opcOf x = 0x2C3 ∨ opcOf x = 0x246) (nxt : x.extractLsb' 74 6 ≠ 0) {i : Instr}
    (e : decodeFields x = some i) : i.wf = false := by
  unfold decodeFields at e
  split at e
  · cases e
  · next h eh =>
    have unfit : ∀ P : Prop, h.nxt = .seq ∧ h.t = 0 → P := fun _ hn => absurd (nxtField_eq_zero eh hn.1 hn.2) nxt
    rw [← Bool.not_eq_true]
    intro wf
    obtain opc | opc := opc
    · rw [opc] at e
      obtain ⟨f, _, eo⟩ := Option.bind_eq_some_iff.mp e
      cases eo
      exact unfit _ (noTransfer_of_rft_wf wf)
    · rw [opc] at e
      obtain ⟨f, _, eo⟩ := Option.bind_eq_some_iff.mp e
      cases eo
      exact unfit _ (noTransfer_of_reord_wf wf)

/-- Settles O49: RFT and REORD fit only with NXT.OP and NXT.T at 0, and the opcodes are listed, so the cause is ENC. -/
theorem selfTransferRaisesEnc : Obligations.SelfTransferRaisesEnc := by
  unfold Obligations.SelfTransferRaisesEnc
  intro x opc nxt
  have listed : opcAssigned (opcOf x) = true := by obtain opc | opc := opc <;> rw [opc] <;> rfl
  exact ⟨decode_unassigned (lt_of_opcAssigned listed) (fun _ e => selfTransfer_unfit opc nxt e),
    fun s s1 ready ct => exec_unassigned_all (rejectCause_enc listed) (by decide) (by decide) ready ct⟩

/-- Settles O50: a word has fields only where the table lists its opcode. -/
theorem unlistedOpcodesRaiseResv : Obligations.UnlistedOpcodesRaiseResv := by
  unfold Obligations.UnlistedOpcodesRaiseResv
  intro x opc
  have low : opcOf x < 0x3C0 := by omega
  have unlisted : opcAssigned (opcOf x) = false := by
    rw [← Bool.not_eq_true]
    simp only [opcAssigned, Bool.or_eq_true, decide_eq_true_eq]
    omega
  refine ⟨decode_unassigned low (fun i e => ?_),
    fun s s1 ready ct => exec_unassigned_all (rejectCause_resv low unlisted) (by decide) (by decide) ready ct⟩
  exact absurd (opcAssigned_of_decodeFields e) (by simp [unlisted])

/-! ## The emulation space -/

theorem issueReject_emu {x : IWord} {s s1 : State} (rc : rejectCause x = .emu) (ci : s.CanIssue (grdHdr x) ⟨true, guardUses (grdHdr x)⟩)
    (ct : s.CanTrap (grdHdr x) (s.trapOf (grdHdr x) .emu 0 (emuSlots x)) s1) :
    issueReject x s = s1.enterLanes s.cur.w (s.trapOf (grdHdr x) .emu 0 (emuSlots x)) := by
  unfold issueReject
  rw [rc]
  exact issueFixed_trap (subs := fun _ => 0) ci (fun _ _ => rfl) (fun _ _ => rfl) (fun _ _ => rfl) ct

/-- Settles O9: IDIV, IREM and the other words of the space issue alike. -/
theorem emulationTrapTaken : Obligations.EmulationTrapTaken := by
  unfold Obligations.EmulationTrapTaken
  intro x s s1 rc ci ct
  have go := next_congr (issueReject_emu rc ci ct)
  exact ⟨go, go, go⟩

/-! ## The handler's own instructions outside handler mode (R66) -/

theorem inHandler_of_normal {s : State} {w : Nat} (normal : (s.warp w).hmode = 0) (l : Nat) : s.inHandler w l = false := by
  simp [State.inHandler, normal]

theorem privOutside_of_normal {s : State} (normal : (s.warp s.cur.w).hmode = 0) (m : Mask) (l : Nat) :
    privOutside s (s.rdFor m l) = some .priv := by
  have := inHandler_of_normal normal l
  simp [privOutside, State.rdFor, this]

theorem laneBusy_of_settled {s : State} {w : Nat} (settled : ∀ e ∈ s.ops, e.2.w ≠ w) (l : Nat) : s.laneBusy w l = false :=
  none_hits fun e he => by simp [settled e he]

theorem leaveHandler_zero (s : State) (w : Nat) (retry : Bool) : s.leaveHandler w retry 0 = s := if_pos rfl

/-- A cause that comes before the operation itself, found in every lane of a set, is what every lane raises (R64). -/
theorem issueCauses_all {s : State} {h : Hdr} {ck : Check} {pre : Nat → Option Cause} {own : Nat → Option (Cause × Nat × BitVec 64)}
    {w : Nat} {lanes : Mask} {c : Cause} (ok : ck.ok = true) (pre_c : ∀ l ∈ lanesOf lanes, pre l = some c) (notPoison : c ≠ .poison) :
    s.issueCauses h ck pre own w lanes = (lanesOf lanes).map (fun l => ⟨l, c, 0, 0⟩) := by
  unfold State.issueCauses
  rw [← List.filterMap_eq_map]
  apply List.filterMap_congr
  intro l hl
  simp [State.earlyCause, ok, pre_c l hl, notPoison]

/-- RFT outside handler mode: every lane that issues it raises PRIV, and none leaves a handler. -/
theorem issueRft_priv {h : Hdr} {f : RForm} {s s1 : State} (ok : (checkOf (.rft h f)).ok = true)
    (records : ∀ l ∈ lanesOf s.cur.mask, s.recordWaits .m s.cur.w l = false)
    (ready : ∀ l ∈ lanesOf s.cur.mask, ∀ u ∈ (if s.guardTrue h s.cur.w l then (checkOf (.rft h f)).uses else guardUses h),
      s.waitUse s.cur.w l u = false)
    (ct : s.CanTrapAll h (s.trapAll .priv (fun _ c => noRec c.l)) s1) :
    issueRft h f s = s1.enterLanes s.cur.w (s.trapAll .priv (fun _ c => noRec c.l)) := by
  have lanes : s.readyLanes h (checkOf (.rft h f)) .m s.cur.w s.cur.mask (s.laneBusy s.cur.w) = s.cur.mask :=
    readyLanes_eq ct.free records ready (fun l _ => laneBusy_of_settled ct.settled l)
  have causes : s.issueCauses h (checkOf (.rft h f)) (fun l => privOutside s (s.rdFor 0 l)) (fun _ => none) s.cur.w s.cur.mask
      = (lanesOf s.cur.mask).map (fun l => ⟨l, .priv, 0, 0⟩) :=
    issueCauses_all ok (fun l _ => privOutside_of_normal ct.normal 0 l) (by decide)
  have raised : maskOf (((lanesOf s.cur.mask).map (fun l => (⟨l, .priv, 0, 0⟩ : Raised))).map (·.lane)) = s.cur.mask := by
    rw [List.map_map]
    exact (congrArg maskOf (List.map_id _)).trans (maskOf_lanesOf _)
  have noLane : s.cur.mask &&& ~~~s.cur.mask = 0 := by simp
  have noGuard : s.guardMask h s.cur.w 0 = 0 := rfl
  have noOff : (0 : Mask) &&& ~~~0 = 0 := rfl
  simp only [State.rdFor] at causes
  simp only [issueRft, lanes, causes, raised, noLane, noGuard, noOff, leaveHandler_zero]
  have handled := raise_all ct
  exact handled

/-- Settles O48: outside handler mode PRIV comes before the operation itself in every lane, of RFT as of WRIR and RDIR. -/
theorem privRaisedOutsideHandler : Obligations.PrivRaisedOutsideHandler := by
  unfold Obligations.PrivRaisedOutsideHandler
  intro h f s s1 Raises
  refine ⟨fun records ok ready ct => ?_, fun still ok ready ct => ?_, fun still ok ready ct => ?_⟩
  · exact next_congr (issueRft_priv ok records ready ct)
  · exact next_congr (issueFixed_all ok ready still (fun l _ => privOutside_of_normal ct.normal 0 l) (by decide) ct)
  · exact next_congr (issueFixed_all ok ready still (fun l _ => privOutside_of_normal ct.normal 0 l) (by decide) ct)

end Sys2Proof.Laws
end

section
/-! Fetches beyond the code, evictions and walks (R33, R239, R250, R393, R397). -/

namespace Sys2Proof.Laws

open Sys2Proof.Machine

theorem exec_fetchBeyond {s : State} (beyond : (s.wgOf s.cur.w).launch.codelen ≤ s.cur.pc.toNat) :
    exec .fetchBeyondCodeSegment s = .next (s.raiseFetch .prot 0 (BitVec.ofNat 64 s.cur.pc.toNat)) :=
  next_congr (if_pos beyond)

/-- A line that no job holds a written byte of is written back and leaves the L1. -/
theorem exec_l1Eviction {s : State} {cid line : Nat} (unowned : s.dirtyOwned cid (128 * line) (128 * line + 128) = false) :
    let t := s.writeBackRange cid (128 * line) (128 * line + 128)
    exec (.l1Eviction cid line) s = .next
      { t with mem := { t.mem with l1 := nmapClear t.mem.l1 (l1Key cid (128 * line)) (l1Key cid (128 * line + 128)) } } :=
  next_congr (if_neg (Bool.eq_false_iff.mp unowned))

/-- A walk that reaches its leaf leaves the state of the translation, with the leaf cached. -/
theorem exec_pageWalk_leaf {s t : State} {c va pa : Nat} {acc : AccKind} {host : Bool} (live : s.ctxLive c = true)
    (running : (s.ctx c).phase = .running) (leaf : s.translate c va acc = (t, .to host pa)) : exec (.pageWalk c va acc) s = .next t := by
  refine next_congr ?_
  rw [if_pos (by simp [live, running]), leaf]

/-- Settles O22: each event takes the branch that its premise names. -/
theorem fetchEvictionWalkComplete : Obligations.FetchEvictionWalkComplete := by
  unfold Obligations.FetchEvictionWalkComplete
  exact fun s => ⟨exec_fetchBeyond, fun _ _ => exec_l1Eviction, fun _ _ _ _ _ _ => exec_pageWalk_leaf⟩

end Sys2Proof.Laws
end

section
/-! What the register writes of an instruction of fixed latency make of the registers (R11, R36, R37, R57): a register that none of
them names is kept, and a register of a lane holds what that lane's own writes leave in it. -/

namespace Sys2Proof.Laws

open Sys2Proof.Machine

/-! ## Writes in a row -/

@[simp] theorem applyWrite_regs (s : State) (w : Nat) (x : RegWrite) : (s.applyWrite w x).regs = (s.putReg w x).regs := by
  simp [State.applyWrite]

theorem applyWrites_cons (s : State) (w : Nat) (x : RegWrite) (xs : List RegWrite) :
    s.applyWrites w (x :: xs) = (s.applyWrite w x).applyWrites w xs := rfl

theorem applyWrites_append (s : State) (w : Nat) (xs ys : List RegWrite) :
    s.applyWrites w (xs ++ ys) = (s.applyWrites w xs).applyWrites w ys := List.foldl_append ..

/-- A part of the registers that none of a list of writes touches. -/
theorem applyWrites_keep {α : Type} (F : RegFile → α) {w : Nat} {xs : List RegWrite}
    (away : ∀ x ∈ xs, ∀ s : State, F (s.putReg w x).regs = F s.regs) (s : State) : F (s.applyWrites w xs).regs = F s.regs := by
  induction xs generalizing s with
  | nil => rfl
  | cons x xs ih =>
    rw [applyWrites_cons, ih (fun y hy => away y (List.mem_cons_of_mem _ hy)), applyWrite_regs, away x List.mem_cons_self]

/-- A part of the registers that belongs to lane `k`: it holds what the lane's own writes put there, and the others keep it. -/
theorem applyWrites_flatMap {α : Type} (F : RegFile → α) {w k : Nat} {g : Nat → List RegWrite} {v : α} {ls : List Nat}
    (own : ∀ s : State, F (s.applyWrites w (g k)).regs = v)
    (others : ∀ l ∈ ls, l ≠ k → ∀ s : State, F (s.applyWrites w (g l)).regs = F s.regs) (s : State) :
    F (s.applyWrites w (ls.flatMap g)).regs = if k ∈ ls then v else F s.regs := by
  induction ls generalizing s with
  | nil => rfl
  | cons l ls ih =>
    rw [List.flatMap_cons, applyWrites_append, ih (fun j hj => others j (List.mem_cons_of_mem _ hj))]
    by_cases hl : l = k
    · subst hl
      simp [own]
    · rw [others l List.mem_cons_self hl]
      simp [List.mem_cons, Ne.symm hl]

/-! ## The writes of the lanes of M -/

theorem mem_laneWrites {outs : List (Nat × LaneOut)} {x : RegWrite} (hx : x ∈ laneWrites outs) : ∃ e ∈ outs, x ∈ e.2.ws := by
  cases outs with
  | nil => cases hx
  | cons e rest =>
    obtain hx | hx := List.mem_append.mp hx
    · exact ⟨e, List.mem_cons_self, hx⟩
    · obtain ⟨e', he', hx⟩ := List.mem_flatMap.mp hx
      exact ⟨e', List.mem_cons_of_mem _ he', (List.mem_filter.mp hx).1⟩

/-- Writes of registers of the lanes' own: every lane's land (R57). -/
theorem laneWrites_unshared {ls : List Nat} {out : Nat → LaneOut} (own : ∀ l ∈ ls, ∀ x ∈ (out l).ws, x.shared = false) :
    laneWrites (ls.map (fun l => (l, out l))) = ls.flatMap (fun l => (out l).ws) := by
  cases ls with
  | nil => rfl
  | cons l ls =>
    have keep : ∀ j ∈ ls, (out j).ws.filter (fun x => !x.shared) = (out j).ws := fun j hj =>
      List.filter_eq_self.mpr fun x hx => by simp [own j (List.mem_cons_of_mem _ hj) x hx]
    simp only [laneWrites, List.map_cons, List.flatMap_map, List.flatMap_cons]
    rw [List.flatMap_congr keep]

/-- Writes of registers that the warp shares: the first lane's land (R11, R57). -/
theorem laneWrites_shared {l : Nat} {ls : List Nat} {out : Nat → LaneOut} (all : ∀ j ∈ ls, ∀ x ∈ (out j).ws, x.shared = true) :
    laneWrites ((l :: ls).map (fun l => (l, out l))) = (out l).ws := by
  have none : ∀ j ∈ ls, (out j).ws.filter (fun x => !x.shared) = [] := fun j hj =>
    List.filter_eq_nil_iff.mpr fun x hx => by simp [all j hj x hx]
  simp only [laneWrites, List.map_cons, List.flatMap_map]
  rw [List.flatMap_congr none]
  simp

/-- The writes of the lanes of M in the order in which they land. -/
def landedWrites (s : State) (h : Hdr) (out : State → Rd → LaneOut) : List RegWrite :=
  laneWrites ((lanesOf (s.activeSet h)).map (fun l => (l, out s (s.rdAt h l))))

/-- The registers of an instruction that has landed, when moving the lanes on leaves them alone. -/
theorem landed_regs {α : Type} (F : RegFile → α) (pc : ∀ (r : RegFile) w l x, F (r.setPc w l x) = F r)
    (lk : ∀ (r : RegFile) w l x, F (r.setLk w l x) = F r) (lc : ∀ (r : RegFile) w l n x, F (r.setLc w l n x) = F r)
    (s : State) (h : Hdr) (out : State → Rd → LaneOut) :
    F (s.landed h out).regs = F (s.applyWrites s.cur.w (landedWrites s h out)).regs := by
  simp only [State.landed]
  rw [advance_regs_inv F pc lk lc, orFlags_regs]
  rfl

/-! ## One register written -/

theorem getV_setV_iff {r : RegFile} {w l n w' l' n' : Nat} {x : Word} (hl : l < 32) (hl' : l' < 32) (hn : n < 256) (hn' : n' < 256) :
    (r.setV w l n x).getV w' l' n' = if w' = w ∧ l' = l ∧ n' = n then x else r.getV w' l' n' := by
  have key : laneKey w' l' * 256 + n' = laneKey w l * 256 + n ↔ w' = w ∧ l' = l ∧ n' = n := by
    unfold laneKey
    omega
  rw [getV_setV]
  simp only [key]

theorem getS_setS_iff {r : RegFile} {w n w' n' : Nat} {x : Word} (hn : n < 1024) (hn' : n' < 1024) :
    (r.setS w n x).getS w' n' = if w' = w ∧ n' = n then x else r.getS w' n' := by
  have key : w' * 1024 + n' = w * 1024 + n ↔ w' = w ∧ n' = n := by omega
  rw [getS_setS]
  simp only [key]

theorem getRng_setRng_iff {r : RegFile} {w l w' l' : Nat} {x : Word} (hl : l < 32) (hl' : l' < 32) :
    (r.setRng w l x).getRng w' l' = if w' = w ∧ l' = l then (if x = 0 then 1 else x) else r.getRng w' l' := by
  rw [getRng_setRng]
  simp only [laneKey_inj hl hl']

/-! ## A destination's value (R53, R56, R57) -/

theorem landed_v (s : State) (h : Hdr) (out : State → Rd → LaneOut) :
    (s.landed h out).regs.v = (s.applyWrites s.cur.w (landedWrites s h out)).regs.v :=
  landed_regs (fun r => r.v) (fun _ _ _ _ => rfl) (fun _ _ _ _ => rfl) (fun _ _ _ _ _ => rfl) s h out

theorem landed_s (s : State) (h : Hdr) (out : State → Rd → LaneOut) :
    (s.landed h out).regs.s = (s.applyWrites s.cur.w (landedWrites s h out)).regs.s :=
  landed_regs (fun r => r.s) (fun _ _ _ _ => rfl) (fun _ _ _ _ => rfl) (fun _ _ _ _ _ => rfl) s h out

theorem getV_congr {a b : RegFile} (e : a.v = b.v) (w l n : Nat) : a.getV w l n = b.getV w l n := by simp [RegFile.getV, e]

theorem getS_congr {a b : RegFile} (e : a.s = b.s) (w n : Nat) : a.getS w n = b.getS w n := by simp [RegFile.getS, e]

/-- A pair of vector registers, the low half first (R56). -/
def vPair (w l n : Nat) (r : RegFile) : BitVec 64 := pair64 (r.getV w l n) (r.getV w l (n + 1))

/-- A pair of scalar registers. -/
def sPair (w n : Nat) (r : RegFile) : BitVec 64 := pair64 (r.getS w n) (r.getS w (n + 1))

theorem vPair_congr {a b : RegFile} (e : a.v = b.v) (w l n : Nat) : vPair w l n a = vPair w l n b := by
  simp only [vPair, getV_congr e]

theorem sPair_congr {a b : RegFile} (e : a.s = b.s) (w n : Nat) : sPair w n a = sPair w n b := by
  simp only [sPair, getS_congr e]

theorem pair64_halves (x : BitVec 64) : pair64 (x.truncate 32) (x.extractLsb' 32 32) = x := by
  rw [pair64, BitVec.truncate_eq_setWidth, BitVec.setWidth_eq_extractLsb' (by decide),
    BitVec.extractLsb'_append_extractLsb'_eq_extractLsb' (by decide)]
  exact BitVec.extractLsb'_eq_self

/-- The writes of a vector destination out of handler mode go to the lane's own register, or to both of a pair. -/
theorem applyWrites_dst_v_other {s : State} {w l k m : Nat} {n : BitVec 8} {wide : Bool} {x : BitVec 64} (hl : l < 32) (hk : k < 32)
    (hm : m < 256) (even : wide = true → n.toNat % 2 = 0) (ne : l ≠ k) :
    (s.applyWrites w (dstWrites false (.v n) l wide x)).regs.getV w k m = s.regs.getV w k m := by
  have hn := n.isLt
  have one : ∀ (u : State) (j : Nat) (d : Word), j < 256 → (u.putReg w (.v l j d)).regs.getV w k m = u.regs.getV w k m := by
    intro u j d hj
    rw [State.putReg, getV_setV_iff hl hk hj hm, if_neg (fun e => ne e.2.1.symm)]
  refine applyWrites_keep (fun r => r.getV w k m) (fun y hy u => ?_) s
  cases wide with
  | false =>
    obtain rfl : y = _ := List.mem_singleton.mp hy
    exact one u _ _ hn
  | true =>
    have := even rfl
    obtain rfl | hy := List.mem_cons.mp hy
    · exact one u _ _ hn
    · obtain rfl := List.mem_singleton.mp hy
      exact one u _ _ (by omega)

/-- The lane's own vector register, or pair, after its writes. -/
theorem applyWrites_dst_v_narrow {s : State} {w l : Nat} {n : BitVec 8} {x : BitVec 64} :
    (s.applyWrites w (dstWrites false (.v n) l false x)).regs.getV w l n.toNat = x.truncate 32 := by
  simp [dstWrites, State.applyWrites, State.putReg, getV_setV]

theorem applyWrites_dst_v_wide {s : State} {w l : Nat} {n : BitVec 8} {x : BitVec 64} :
    vPair w l n.toNat (s.applyWrites w (dstWrites false (.v n) l true x)).regs = x := by
  simpa [vPair, dstWrites, State.applyWrites, State.putReg, getV_setV] using pair64_halves x

theorem applyWrites_dst_s_narrow {s : State} {w l : Nat} {n : BitVec 10} {x : BitVec 64} :
    (s.applyWrites w (dstWrites false (.s n) l false x)).regs.getS w n.toNat = x.truncate 32 := by
  simp [dstWrites, State.applyWrites, State.putReg, getS_setS]

theorem applyWrites_dst_s_wide {s : State} {w l : Nat} {n : BitVec 10} {x : BitVec 64} :
    sPair w n.toNat (s.applyWrites w (dstWrites false (.s n) l true x)).regs = x := by
  simpa [sPair, dstWrites, State.applyWrites, State.putReg, getS_setS] using pair64_halves x

theorem dstWrites_v_unshared {n : BitVec 8} {l : Nat} {wide : Bool} {x : BitVec 64} :
    ∀ y ∈ dstWrites false (.v n) l wide x, y.shared = false := by
  cases wide <;> simp [dstWrites, RegWrite.shared]

theorem dstWrites_s_shared {n : BitVec 10} {l : Nat} {wide : Bool} {x : BitVec 64} :
    ∀ y ∈ dstWrites false (.s n) l wide x, y.shared = true := by
  cases wide <;> simp [dstWrites, RegWrite.shared]

section
variable {s : State} {h : Hdr} {ty : Ty} {val : State → Rd → BitVec 64}
  (normal : ∀ l ∈ lanesOf s.cur.mask, s.inHandler s.cur.w l = false)
include normal

/-- The writes of a lane of M, none being in handler mode. -/
theorem outT_ws {dst : Opnd} {l : Nat} (hl : l ∈ lanesOf (s.activeSet h)) :
    (outT s (s.rdAt h l) dst ty (val s (s.rdAt h l))).ws = dstWrites false dst l (isWide ty) (val s (s.rdAt h l)) := by
  have := normal l (mem_of_guardMask hl)
  simp only [outT, outD, State.rdAt, State.rdFor, this]

theorem landedWrites_v {n : BitVec 8} : landedWrites s h (fun s c => outT s c (.v n) ty (val s c)) =
    (lanesOf (s.activeSet h)).flatMap (fun l => dstWrites false (.v n) l (isWide ty) (val s (s.rdAt h l))) := by
  rw [landedWrites, laneWrites_unshared]
  · exact List.flatMap_congr fun l hl => outT_ws normal hl
  · intro l hl
    rw [outT_ws normal hl]
    exact dstWrites_v_unshared

theorem landedWrites_s {n : BitVec 10} : landedWrites s h (fun s c => outT s c (.s n) ty (val s c)) =
    match leadOf (s.activeSet h) with
    | some l => dstWrites false (.s n) l (isWide ty) (val s (s.rdAt h l))
    | none => [] := by
  unfold landedWrites leadOf
  cases e : lanesOf (s.activeSet h) with
  | nil => rfl
  | cons l ls =>
    have ws : ∀ j ∈ l :: ls, _ := fun j hj => outT_ws (val := val) (ty := ty) (dst := .s n) normal (e ▸ hj)
    rw [laneWrites_shared, ws l List.mem_cons_self]
    · rfl
    · intro j hj
      rw [ws j (List.mem_cons_of_mem _ hj)]
      exact dstWrites_s_shared

theorem landed_v_narrow {n : BitVec 8} {l : Nat} (hl : l < 32) (narrow : isWide ty = false) :
    (s.landed h (fun s c => outT s c (.v n) ty (val s c))).regs.getV s.cur.w l n.toNat =
      if (s.activeSet h).getLsbD l then (val s (s.rdAt h l)).truncate 32 else s.regs.getV s.cur.w l n.toNat := by
  rw [getV_congr (landed_v s h _), landedWrites_v normal, narrow,
    applyWrites_flatMap (fun r => r.getV s.cur.w l n.toNat) (fun _ => applyWrites_dst_v_narrow)]
  · simp only [mem_lanesOf]
  · intro j hj ne u
    exact applyWrites_dst_v_other (lanesOf_lt hj) hl n.isLt (by simp) ne

theorem landed_v_wide {n : BitVec 8} {l : Nat} (hl : l < 32) (wide : isWide ty = true) (even : n.toNat % 2 = 0) :
    vPair s.cur.w l n.toNat (s.landed h (fun s c => outT s c (.v n) ty (val s c))).regs =
      if (s.activeSet h).getLsbD l then val s (s.rdAt h l) else vPair s.cur.w l n.toNat s.regs := by
  have hn := n.isLt
  have others : ∀ j ∈ lanesOf (s.activeSet h), j ≠ l → ∀ u : State,
      vPair s.cur.w l n.toNat (u.applyWrites s.cur.w (dstWrites false (.v n) j true (val s (s.rdAt h j)))).regs
        = vPair s.cur.w l n.toNat u.regs := by
    intro j hj ne u
    simp only [vPair, applyWrites_dst_v_other (lanesOf_lt hj) hl hn (fun _ => even) ne,
      applyWrites_dst_v_other (m := n.toNat + 1) (lanesOf_lt hj) hl (by omega) (fun _ => even) ne]
  have own : ∀ u : State, vPair s.cur.w l n.toNat
      (u.applyWrites s.cur.w (dstWrites false (.v n) l true (val s (s.rdAt h l)))).regs = val s (s.rdAt h l) :=
    fun _ => applyWrites_dst_v_wide
  have values := applyWrites_flatMap (vPair s.cur.w l n.toNat)
    (g := fun j => dstWrites false (.v n) j true (val s (s.rdAt h j))) own others s
  rw [vPair_congr (landed_v s h _), landedWrites_v normal, wide, values]
  simp only [mem_lanesOf]

theorem landed_s_narrow {n : BitVec 10} (narrow : isWide ty = false) :
    (s.landed h (fun s c => outT s c (.s n) ty (val s c))).regs.getS s.cur.w n.toNat = match leadOf (s.activeSet h) with
      | some l => (val s (s.rdAt h l)).truncate 32
      | none => s.regs.getS s.cur.w n.toNat := by
  rw [getS_congr (landed_s s h _), landedWrites_s normal, narrow]
  cases leadOf (s.activeSet h) with
  | none => rfl
  | some l => exact applyWrites_dst_s_narrow

theorem landed_s_wide {n : BitVec 10} (wide : isWide ty = true) :
    sPair s.cur.w n.toNat (s.landed h (fun s c => outT s c (.s n) ty (val s c))).regs = match leadOf (s.activeSet h) with
      | some l => val s (s.rdAt h l)
      | none => sPair s.cur.w n.toNat s.regs := by
  rw [sPair_congr (landed_s s h _), landedWrites_s normal, wide]
  cases leadOf (s.activeSet h) with
  | none => rfl
  | some l => exact applyWrites_dst_s_wide

end

/-- Settles O36: a vector register belongs to its lane, so each lane's own write is what it holds; a scalar register is the warp's, so only
the first lane's write lands. -/
theorem destinationTakesValue : Obligations.DestinationTakesValue := by
  unfold Obligations.DestinationTakesValue
  intro s h ty val normal
  refine ⟨fun n l hl => ⟨landed_v_narrow normal hl, landed_v_wide normal hl⟩,
    fun n => ⟨fun narrow => ?_, fun wide _ => ?_⟩, rfl⟩
  · refine (landed_s_narrow normal narrow).trans ?_
    cases leadOf (s.activeSet h) <;> rfl
  · refine (landed_s_wide normal wide).trans ?_
    cases leadOf (s.activeSet h) <;> rfl

end Sys2Proof.Laws
end

section
/-! The frame of an instruction of fixed latency (R36 to R38, R57, R60): beside what its destination names and what moving the lanes on
writes, the state is kept. -/

namespace Sys2Proof.Laws

open Sys2Proof.Machine

/-! ## What a lane of such an instruction may write -/

/-- The writes of lane `l` to its destination, a register or an aligned pair, in handler mode (`hm`) or out of it; and, where `rng` says
so, to its generator. -/
def LaneWrite (rng hm : Bool) (dst : Opnd) (wide : Bool) (l : Nat) (x : RegWrite) : Prop :=
  match x with
  | .v k n _ => k = l ∧ n < 256 ∧ namesV dst wide n = true
  | .s n _ => n < 1024 ∧ namesS dst wide n = true
  | .hv _ _ _ | .hs _ _ => hm = true
  | .p k n _ => k = l ∧ n < 16 ∧ dst = .p (BitVec.ofNat 4 n)
  | .bt k n _ => k = l ∧ n < 8 ∧ dst = .bt (BitVec.ofNat 3 n)
  | .lc k n _ => k = l ∧ n < 4 ∧ dst = .lc (BitVec.ofNat 2 n)
  | .lk k _ => k = l ∧ dst = .lk
  | .cv n _ => n < 8 ∧ dst = .cv (BitVec.ofNat 3 n)
  | .rng k _ => rng = true ∧ k = l
  | _ => False

theorem laneWrite_dstWrites {rng hm narrow wide : Bool} {dst : Opnd} {l : Nat} {v : BitVec 64} (le : narrow = true → wide = true)
    (even : wide = true → evenPair dst = true) : ∀ x ∈ dstWrites hm dst l narrow v, LaneWrite rng hm dst wide l x := by
  intro x hx
  cases dst with
  | v n =>
    have := n.isLt
    cases narrow <;> cases hm <;> simp [dstWrites] at hx
    · subst hx
      exact ⟨rfl, this, by simp [namesV]⟩
    · subst hx
      rfl
    · have ev := even (le rfl)
      simp only [evenPair, decide_eq_true_eq] at ev
      obtain rfl | rfl := hx
      · exact ⟨rfl, this, by simp [namesV]⟩
      · exact ⟨rfl, by omega, by simp [namesV, le]⟩
    · obtain rfl | rfl := hx <;> rfl
  | s n =>
    have := n.isLt
    cases narrow <;> cases hm <;> simp [dstWrites] at hx
    · subst hx
      exact ⟨this, by simp [namesS]⟩
    · subst hx
      rfl
    · have ev := even (le rfl)
      simp only [evenPair, decide_eq_true_eq] at ev
      obtain rfl | rfl := hx
      · exact ⟨this, by simp [namesS]⟩
      · exact ⟨by omega, by simp [namesS, le]⟩
    · obtain rfl | rfl := hx <;> rfl
  | p n =>
    obtain rfl : x = _ := List.mem_singleton.mp hx
    exact ⟨rfl, n.isLt, by simp⟩
  | bt n =>
    obtain rfl : x = _ := List.mem_singleton.mp hx
    exact ⟨rfl, n.isLt, by simp⟩
  | lc n =>
    obtain rfl : x = _ := List.mem_singleton.mp hx
    exact ⟨rfl, n.isLt, by simp⟩
  | cv n =>
    obtain rfl : x = _ := List.mem_singleton.mp hx
    exact ⟨n.isLt, by simp⟩
  | lk =>
    obtain rfl : x = _ := List.mem_singleton.mp hx
    exact ⟨rfl, rfl⟩
  | sr n => cases hx
  | imm n => cases hx
  | pc => cases hx
  | zr => cases hx
  | acc n => cases hx

/-! ## Registers that such a write keeps -/

theorem setBit16_getLsbD_of_ne {x : BitVec 16} {n m : Nat} {b : Bool} (ne : m ≠ n) : (setBit16 x n b).getLsbD m = x.getLsbD m := by
  have other : (1#16 <<< n).getLsbD m = false := by
    rw [BitVec.getLsbD_shiftLeft, BitVec.getLsbD_one]
    by_cases lt : m < n
    · simp [lt]
    · have : m - n ≠ 0 := by omega
      simp [this]
  unfold setBit16
  split
  · rw [BitVec.getLsbD_or, other, Bool.or_false]
  · rw [BitVec.getLsbD_and, BitVec.getLsbD_not, other]
    by_cases hm : m < 16
    · simp [hm]
    · rw [BitVec.getLsbD_of_ge x m (by omega), Bool.false_and]

theorem getP_setP_of_ne {r : RegFile} {w l n w' l' n' : Nat} {b : Bool} (hl : l < 32) (hl' : l' < 32)
    (ne : ¬ (w' = w ∧ l' = l ∧ n' = n)) : (r.setP w l n b).getP w' l' n' = r.getP w' l' n' := by
  unfold RegFile.getP RegFile.setP
  rw [getPs_setPs]
  simp only [laneKey_inj hl hl']
  split
  · next same =>
    obtain ⟨rfl, rfl⟩ := same
    exact setBit16_getLsbD_of_ne (by simpa using ne)
  · rfl

section
variable {rng hm : Bool} {dst : Opnd} {wide : Bool} {l w v k n : Nat} {x : RegWrite}
  (hx : LaneWrite rng hm dst wide l x) (hl : l < 32) (hk : k < 32) (s : State)
include hx

theorem putReg_getS (hn : n < 1024) (away : v ≠ w ∨ namesS dst wide n = false) :
    (s.putReg w x).regs.getS v n = s.regs.getS v n := by
  cases x with
  | s m d =>
    obtain ⟨hm, names⟩ := hx
    rw [State.putReg, getS_setS_iff hm hn, if_neg]
    rintro ⟨rfl, rfl⟩
    simp [names] at away
  | _ => rfl

theorem putReg_getCv (hn : n < 8) (away : v ≠ w ∨ dst ≠ .cv (BitVec.ofNat 3 n)) :
    (s.putReg w x).regs.getCv v n = s.regs.getCv v n := by
  cases x with
  | cv m d =>
    obtain ⟨hm, names⟩ := hx
    rw [State.putReg, getCv_setCv, if_neg]
    intro same
    obtain ⟨rfl, rfl⟩ : v = w ∧ n = m := by omega
    simp [names] at away
  | _ => rfl

include hl hk

theorem putReg_getV (hn : n < 256) (away : v ≠ w ∨ k ≠ l ∨ namesV dst wide n = false) :
    (s.putReg w x).regs.getV v k n = s.regs.getV v k n := by
  cases x with
  | v j m d =>
    obtain ⟨rfl, hm, names⟩ := hx
    rw [State.putReg, getV_setV_iff hl hk hm hn, if_neg]
    rintro ⟨rfl, rfl, rfl⟩
    simp [names] at away
  | _ => rfl

theorem putReg_getP (away : v ≠ w ∨ k ≠ l ∨ dst ≠ .p (BitVec.ofNat 4 n)) :
    (s.putReg w x).regs.getP v k n = s.regs.getP v k n := by
  cases x with
  | p j m d =>
    obtain ⟨rfl, hm, names⟩ := hx
    refine getP_setP_of_ne hl hk ?_
    rintro ⟨rfl, rfl, rfl⟩
    simp [names] at away
  | _ => rfl

theorem putReg_getBt (hn : n < 8) (away : v ≠ w ∨ k ≠ l ∨ dst ≠ .bt (BitVec.ofNat 3 n)) :
    (s.putReg w x).regs.getBt v k n = s.regs.getBt v k n := by
  cases x with
  | bt j m d =>
    obtain ⟨rfl, hm, names⟩ := hx
    rw [State.putReg, getBt_setBt, if_neg]
    intro same
    obtain ⟨rfl, rfl, rfl⟩ : v = w ∧ k = j ∧ n = m := by unfold laneKey at same; omega
    simp [names] at away
  | _ => rfl

theorem putReg_getLc (hn : n < 4) (away : v ≠ w ∨ k ≠ l ∨ dst ≠ .lc (BitVec.ofNat 2 n)) :
    (s.putReg w x).regs.getLc v k n = s.regs.getLc v k n := by
  cases x with
  | lc j m d =>
    obtain ⟨rfl, hm, names⟩ := hx
    rw [State.putReg, getLc_setLc, if_neg]
    intro same
    obtain ⟨rfl, rfl, rfl⟩ : v = w ∧ k = j ∧ n = m := by unfold laneKey at same; omega
    simp [names] at away
  | _ => rfl

theorem putReg_getLk (away : v ≠ w ∨ k ≠ l ∨ dst ≠ .lk) : (s.putReg w x).regs.getLk v k = s.regs.getLk v k := by
  cases x with
  | lk j d =>
    obtain ⟨rfl, names⟩ := hx
    rw [State.putReg, getLk_setLk, if_neg]
    rw [laneKey_inj hl hk]
    rintro ⟨rfl, rfl⟩
    simp [names] at away
  | _ => rfl

theorem putReg_getRng (away : v ≠ w ∨ k ≠ l ∨ rng = false) : (s.putReg w x).regs.getRng v k = s.regs.getRng v k := by
  cases x with
  | rng j d =>
    obtain ⟨names, rfl⟩ := hx
    rw [State.putReg, getRng_setRng_iff hl hk, if_neg]
    rintro ⟨rfl, rfl⟩
    simp [names] at away
  | _ => rfl

end

/-! ## Moving the lanes on -/

/-- NXT writes lk of a lane that calls, and its loop counter in a loop that goes on (R37, R38). -/
theorem mem_nxt {s : State} {h : Hdr} {w l : Nat} {pc : Word} {x : RegWrite} (hx : x ∈ (s.nxt h w l pc).2) :
    (h.nxt = .call ∧ ∃ d, x = .lk l d) ∨ (h.nxt = .loop ∧ ∃ d, x = .lc l (h.t.toNat % 4) d) := by
  unfold State.nxt at hx
  split at hx
  · cases hx
  · cases hx
  · next e => exact .inl ⟨e, _, List.mem_singleton.mp hx⟩
  · cases hx
  · next e =>
    dsimp only at hx
    split at hx
    · cases hx
    · exact .inr ⟨e, _, List.mem_singleton.mp hx⟩
  · cases hx

/-- A part of the registers that no pc and no write of NXT touches. -/
theorem advance_regs_keep {α : Type} (F : RegFile → α) {s p : State} {h : Hdr} {w : Nat} {pc : Word} {m o : Mask}
    (pcs : ∀ (r : RegFile) w l x, F (r.setPc w l x) = F r)
    (away : ∀ l ∈ lanesOf m, ∀ x ∈ (p.nxt h w l pc).2, ∀ u : State, F (u.putReg w x).regs = F u.regs) :
    F (s.advance p h w pc m o).regs = F s.regs := by
  unfold State.advance
  split
  · rfl
  simp only [setWarp_regs]
  rw [foldl_setPc_inv F pcs w (fun l : Nat => l) (fun _ => pc + 1),
    foldl_setPc_inv F pcs w (fun e : Nat × Word × List RegWrite => e.1) (fun e => e.2.1)]
  refine applyWrites_keep F (fun x hx => ?_) s
  obtain ⟨e, he, hx⟩ := List.mem_flatMap.mp hx
  obtain ⟨l, hl, rfl⟩ := List.mem_map.mp he
  exact away l hl x hx

theorem advance_getLc {s p : State} {h : Hdr} {w : Nat} {pc : Word} {m o : Mask} {v k n : Nat} (hk : k < 32) (hn : n < 4)
    (away : v ≠ w ∨ m.getLsbD k = false ∨ h.nxt ≠ .loop) : (s.advance p h w pc m o).regs.getLc v k n = s.regs.getLc v k n := by
  refine advance_regs_keep (fun r => r.getLc v k n) (fun _ _ _ _ => rfl) (fun l hl x hx u => ?_)
  obtain ⟨_, d, rfl⟩ | ⟨loop, d, rfl⟩ := mem_nxt hx
  · rfl
  · have lt := lanesOf_lt hl
    rw [State.putReg, getLc_setLc, if_neg]
    intro same
    obtain ⟨rfl, rfl⟩ : v = w ∧ k = l := by unfold laneKey at same; omega
    simp [mem_lanesOf.mp hl, loop] at away

theorem advance_getLk {s p : State} {h : Hdr} {w : Nat} {pc : Word} {m o : Mask} {v k : Nat} (hk : k < 32)
    (away : v ≠ w ∨ m.getLsbD k = false ∨ h.nxt ≠ .call) : (s.advance p h w pc m o).regs.getLk v k = s.regs.getLk v k := by
  refine advance_regs_keep (fun r => r.getLk v k) (fun _ _ _ _ => rfl) (fun l hl x hx u => ?_)
  obtain ⟨call, d, rfl⟩ | ⟨_, d, rfl⟩ := mem_nxt hx
  · rw [State.putReg, getLk_setLk, if_neg]
    rw [laneKey_inj (lanesOf_lt hl) hk]
    rintro ⟨rfl, rfl⟩
    simp [mem_lanesOf.mp hl, call] at away
  · rfl

theorem advance_getPc_of_away {s p : State} {h : Hdr} {w : Nat} {pc : Word} {m o : Mask} {v k : Nat} (hk : k < 32)
    (away : v ≠ w ∨ (m.getLsbD k = false ∧ o.getLsbD k = false)) : (s.advance p h w pc m o).regs.getPc v k = s.regs.getPc v k := by
  cases present : (nmapFind s.warps w).isNone with
  | true => rw [State.advance, if_pos present]
  | false =>
    rw [advance_getPc s p h w pc m o v k hk present]
    by_cases hv : v = w
    · obtain ⟨hm, ho⟩ : m.getLsbD k = false ∧ o.getLsbD k = false := by simpa [hv] using away
      simp [hm, ho]
    · simp [hv]

theorem advance_warp_of_ne {s p : State} {h : Hdr} {w : Nat} {pc : Word} {m o : Mask} {v : Nat} (ne : v ≠ w) :
    (s.advance p h w pc m o).warp v = s.warp v := by
  unfold State.advance
  split
  · rfl
  · rw [setWarp_warp_of_ne _ _ ne]
    refine setWarp_warps_congr (applyWrites_warps s w _ (fun x hx => ?_)) v
    obtain ⟨e, he, hx⟩ := List.mem_flatMap.mp hx
    obtain ⟨l, _, rfl⟩ := List.mem_map.mp he
    exact nxt_notWarp _ _ _ _ _ x hx

/-- An outstanding instruction without its windows. -/
def unwindowed (e : Nat × Op) : Nat × Op := (e.1, { e.2 with win := [] })

theorem advance_ops_unwindowed (s p : State) (h : Hdr) (w : Nat) (pc : Word) (m o : Mask) :
    (s.advance p h w pc m o).ops.map unwindowed = s.ops.map unwindowed := by
  unfold State.advance
  split
  · rfl
  · simp only [setWarp_ops, applyWrites_ops, List.map_map]
    refine List.map_congr_left fun e _ => ?_
    simp only [Function.comp, unwindowed, countWindow]
    split <;> rfl

/-! ## What else there is beside the registers -/

/-- A state that differs from another in registers, warps' records, outstanding instructions and poison marks only. -/
def OnlyRegs (s t : State) : Prop :=
  t = { s with regs := t.regs, warps := t.warps, ops := t.ops, mem := { s.mem with poison := t.mem.poison } }

theorem OnlyRegs.refl (s : State) : OnlyRegs s s := rfl

theorem OnlyRegs.trans {a b c : State} (ab : OnlyRegs a b) (bc : OnlyRegs b c) : OnlyRegs a c := by
  unfold OnlyRegs at *
  rw [bc, ab]

theorem onlyRegs_putReg {rng hm : Bool} {dst : Opnd} {wide : Bool} {l : Nat} {x : RegWrite} (hx : LaneWrite rng hm dst wide l x) (s : State)
    (w : Nat) : OnlyRegs s (s.putReg w x) := by
  cases x with
  | tile => cases hx
  | _ => rfl

theorem onlyRegs_unpoison (s : State) (w : Nat) (x : RegWrite) : OnlyRegs s (s.unpoison w x) := by
  unfold State.unpoison
  split <;> rfl

theorem onlyRegs_applyWrites {w : Nat} {xs : List RegWrite} (each : ∀ x ∈ xs, ∀ s : State, OnlyRegs s (s.putReg w x)) (s : State) :
    OnlyRegs s (s.applyWrites w xs) := by
  induction xs generalizing s with
  | nil => exact .refl s
  | cons x xs ih =>
    exact ((each x List.mem_cons_self s).trans (onlyRegs_unpoison _ w x)).trans (ih (fun y hy => each y (List.mem_cons_of_mem _ hy)) _)

theorem onlyRegs_orFlags (s : State) (w : Nat) (z : FpFlags) : OnlyRegs s (s.orFlags w z) := by
  unfold State.orFlags
  split <;> rfl

theorem onlyRegs_advance (s p : State) (h : Hdr) (w : Nat) (pc : Word) (m o : Mask) : OnlyRegs s (s.advance p h w pc m o) := by
  unfold State.advance
  split
  · exact .refl s
  · refine (onlyRegs_applyWrites (fun x hx u => ?_) s).trans rfl
    obtain ⟨e, he, hx⟩ := List.mem_flatMap.mp hx
    obtain ⟨l, _, rfl⟩ := List.mem_map.mp he
    obtain ⟨_, d, rfl⟩ | ⟨_, d, rfl⟩ := mem_nxt hx <;> rfl

end Sys2Proof.Laws
end

section
/-! The frame of an instruction that has landed: register-only instructions and floating ones (R36 to R38, R57, R60, R108). -/

namespace Sys2Proof.Laws

open Sys2Proof.Machine

/-- The flags that the lanes of M raise (R60). -/
def landedFlags (s : State) (h : Hdr) (out : State → Rd → LaneOut) : FpFlags :=
  ((lanesOf (s.activeSet h)).map (fun l => (l, out s (s.rdAt h l)))).foldl (fun (f : FpFlags) (e : Nat × LaneOut) => f ||| e.2.fl) 0

/-- The state in which the results have landed and the lanes have not moved on. -/
def written (s : State) (h : Hdr) (out : State → Rd → LaneOut) : State :=
  (s.applyWrites s.cur.w (landedWrites s h out)).orFlags s.cur.w (landedFlags s h out)

theorem landed_eq (s : State) (h : Hdr) (out : State → Rd → LaneOut) :
    s.landed h out = (written s h out).advance s h s.cur.w s.cur.pc (s.activeSet h) (s.offSet h) := rfl

theorem landedFlags_zero {s : State} {h : Hdr} {out : State → Rd → LaneOut} (none : ∀ c, (out s c).fl = 0) :
    landedFlags s h out = 0 := by
  unfold landedFlags
  induction lanesOf (s.activeSet h) with
  | nil => rfl
  | cons l ls ih => simpa [none] using ih

theorem warp_orFlags (s : State) (w : Nat) (z : FpFlags) :
    (s.orFlags w z).warp w = { s.warp w with fpflags := (s.warp w).fpflags ||| z } := by
  unfold State.orFlags
  split
  · next e => simp [e]
  · rw [setWarp_warp]

theorem warp_orFlags_of_ne {s : State} {w v : Nat} {z : FpFlags} (ne : v ≠ w) : (s.orFlags w z).warp v = s.warp v := by
  unfold State.orFlags
  split
  · rfl
  · exact setWarp_warp_of_ne _ _ ne

theorem laneWrite_notWarp {rng hm : Bool} {dst : Opnd} {wide : Bool} {l : Nat} {x : RegWrite} (hx : LaneWrite rng hm dst wide l x) :
    notWarp x := by
  cases x with
  | fpctl | fpflags | trapbase | traphandler | wdog => cases hx
  | _ => trivial

theorem landed_ops_unwindowed (s : State) (h : Hdr) (out : State → Rd → LaneOut) :
    (s.landed h out).ops.map unwindowed = s.ops.map unwindowed := by
  rw [landed_eq, advance_ops_unwindowed, written]
  simp

theorem landed_getPc {s : State} {h : Hdr} {out : State → Rd → LaneOut} {w l : Nat} (hl : l < 32)
    (away : w ≠ s.cur.w ∨ s.cur.mask.getLsbD l = false) :
    (s.landed h out).regs.getPc w l = s.regs.getPc w l := by
  have off : s.cur.mask.getLsbD l = false → (s.activeSet h).getLsbD l = false ∧ (s.offSet h).getLsbD l = false := by
    intro off
    simp [State.activeSet, State.offSet, guardMask_getLsbD, off]
  rw [landed_eq, advance_getPc_of_away hl (away.imp_right off), written, orFlags_regs]
  simp [RegFile.getPc]

/-- A lane out of a set is none of the set's. -/
theorem away_of_off {A : Mask} {j l : Nat} {p q : Prop} (hj : j ∈ lanesOf A) (away : p ∨ A.getLsbD l = false ∨ q) :
    p ∨ l ≠ j ∨ q := by
  refine away.imp_right (Or.imp_left fun off same => ?_)
  simp [same, mem_lanesOf.mp hj] at off

section
variable {s : State} {h : Hdr} {out : State → Rd → LaneOut} {dst : Opnd} {wide rng : Bool}
  (writes : ∀ l ∈ lanesOf (s.activeSet h), ∀ x ∈ (out s (s.rdAt h l)).ws, LaneWrite rng (s.inHandler s.cur.w l) dst wide l x)
include writes

theorem laneWrite_of_landedWrites {x : RegWrite} (hx : x ∈ landedWrites s h out) :
    ∃ l ∈ lanesOf (s.activeSet h), LaneWrite rng (s.inHandler s.cur.w l) dst wide l x := by
  obtain ⟨e, he, hx⟩ := mem_laneWrites hx
  obtain ⟨l, hl, rfl⟩ := List.mem_map.mp he
  exact ⟨l, hl, writes l hl x hx⟩

/-- A part of the registers that no write to the destination touches is kept by the results. -/
theorem written_keep {α : Type} (F : RegFile → α)
    (away : ∀ l ∈ lanesOf (s.activeSet h), ∀ x, LaneWrite rng (s.inHandler s.cur.w l) dst wide l x → ∀ u : State,
      F (u.putReg s.cur.w x).regs = F u.regs) : F (written s h out).regs = F s.regs := by
  rw [written, orFlags_regs]
  refine applyWrites_keep F (fun x hx u => ?_) s
  obtain ⟨l, hl, lw⟩ := laneWrite_of_landedWrites writes hx
  exact away l hl x lw u

theorem landed_onlyRegs : OnlyRegs s (s.landed h out) := by
  have results : OnlyRegs s (s.applyWrites s.cur.w (landedWrites s h out)) := by
    refine onlyRegs_applyWrites (fun x hx u => ?_) s
    obtain ⟨l, _, lw⟩ := laneWrite_of_landedWrites writes hx
    exact onlyRegs_putReg lw u s.cur.w
  exact (results.trans (onlyRegs_orFlags ..)).trans (onlyRegs_advance ..)

theorem written_warps : (s.applyWrites s.cur.w (landedWrites s h out)).warps = s.warps := by
  refine applyWrites_warps s s.cur.w _ fun x hx => ?_
  obtain ⟨l, _, lw⟩ := laneWrite_of_landedWrites writes hx
  exact laneWrite_notWarp lw

theorem landed_warp_of_ne {v : Nat} (ne : v ≠ s.cur.w) : (s.landed h out).warp v = s.warp v := by
  rw [landed_eq, advance_warp_of_ne ne, written, warp_orFlags_of_ne ne]
  exact setWarp_warps_congr (written_warps writes) v

/-- The warp's record: only lanes that leave, waits of CVSET, windows and flags. -/
theorem landed_warp : ∃ leaving waits wins, (s.landed h out).warp s.cur.w =
    { s.warp s.cur.w with leaving := leaving, cvsetWait := waits, wins := wins,
                          fpflags := (s.warp s.cur.w).fpflags ||| landedFlags s h out } := by
  obtain ⟨leaving, waits, wins, e⟩ := advance_warp (written s h out) s h s.cur.w s.cur.pc (s.activeSet h) (s.offSet h)
  refine ⟨leaving, waits, wins, ?_⟩
  rw [landed_eq, e, written, warp_orFlags, setWarp_warps_congr (written_warps writes)]

theorem landed_getV {w l n : Nat} (hl : l < 32) (hn : n < 256)
    (away : w ≠ s.cur.w ∨ (s.activeSet h).getLsbD l = false ∨ namesV dst wide n = false) :
    (s.landed h out).regs.getV w l n = s.regs.getV w l n := by
  rw [landed_eq, getV_congr (advance_v ..)]
  exact written_keep writes (fun r => r.getV w l n) fun j hj x lw u => putReg_getV lw (lanesOf_lt hj) hl u hn (away_of_off hj away)

theorem landed_getS {w n : Nat} (hn : n < 1024) (away : w ≠ s.cur.w ∨ namesS dst wide n = false) :
    (s.landed h out).regs.getS w n = s.regs.getS w n := by
  rw [landed_eq, getS_congr (advance_s ..)]
  exact written_keep writes (fun r => r.getS w n) fun j hj x lw u => putReg_getS lw u hn away

theorem landed_getP {w l n : Nat} (hl : l < 32)
    (away : w ≠ s.cur.w ∨ (s.activeSet h).getLsbD l = false ∨ dst ≠ .p (BitVec.ofNat 4 n)) :
    (s.landed h out).regs.getP w l n = s.regs.getP w l n := by
  have kept := advance_p (written s h out) s h s.cur.w s.cur.pc (s.activeSet h) (s.offSet h)
  rw [landed_eq, RegFile.getP, RegFile.getPs, kept]
  exact written_keep writes (fun r => r.getP w l n) fun j hj x lw u => putReg_getP lw (lanesOf_lt hj) hl u (away_of_off hj away)

theorem landed_getBt {w l n : Nat} (hl : l < 32) (hn : n < 8)
    (away : w ≠ s.cur.w ∨ (s.activeSet h).getLsbD l = false ∨ dst ≠ .bt (BitVec.ofNat 3 n)) :
    (s.landed h out).regs.getBt w l n = s.regs.getBt w l n := by
  have kept := advance_bt (written s h out) s h s.cur.w s.cur.pc (s.activeSet h) (s.offSet h)
  rw [landed_eq, RegFile.getBt, kept]
  exact written_keep writes (fun r => r.getBt w l n) fun j hj x lw u => putReg_getBt lw (lanesOf_lt hj) hl u hn (away_of_off hj away)

theorem landed_getLc {w l n : Nat} (hl : l < 32) (hn : n < 4)
    (away : w ≠ s.cur.w ∨ (s.activeSet h).getLsbD l = false ∨ (dst ≠ .lc (BitVec.ofNat 2 n) ∧ h.nxt ≠ .loop)) :
    (s.landed h out).regs.getLc w l n = s.regs.getLc w l n := by
  rw [landed_eq, advance_getLc hl hn (away.imp_right (Or.imp_right And.right))]
  exact written_keep writes (fun r => r.getLc w l n) fun j hj x lw u =>
    putReg_getLc lw (lanesOf_lt hj) hl u hn (away_of_off hj (away.imp_right (Or.imp_right And.left)))

theorem landed_getLk {w l : Nat} (hl : l < 32)
    (away : w ≠ s.cur.w ∨ (s.activeSet h).getLsbD l = false ∨ (dst ≠ .lk ∧ h.nxt ≠ .call)) :
    (s.landed h out).regs.getLk w l = s.regs.getLk w l := by
  rw [landed_eq, advance_getLk hl (away.imp_right (Or.imp_right And.right))]
  exact written_keep writes (fun r => r.getLk w l) fun j hj x lw u =>
    putReg_getLk lw (lanesOf_lt hj) hl u (away_of_off hj (away.imp_right (Or.imp_right And.left)))

theorem landed_getCv {w n : Nat} (hn : n < 8) (away : w ≠ s.cur.w ∨ dst ≠ .cv (BitVec.ofNat 3 n)) :
    (s.landed h out).regs.getCv w n = s.regs.getCv w n := by
  rw [landed_eq, advance_getCv]
  exact written_keep writes (fun r => r.getCv w n) fun j hj x lw u => putReg_getCv lw u hn away

theorem landed_getRng {w l : Nat} (hl : l < 32) (away : w ≠ s.cur.w ∨ (s.activeSet h).getLsbD l = false) :
    (s.landed h out).regs.getRng w l = s.regs.getRng w l := by
  have kept := advance_rng (written s h out) s h s.cur.w s.cur.pc (s.activeSet h) (s.offSet h)
  rw [landed_eq, RegFile.getRng, kept]
  exact written_keep writes (fun r => r.getRng w l) fun j hj x lw u =>
    putReg_getRng lw (lanesOf_lt hj) hl u (away_of_off hj (away.imp_right .inl))

theorem landed_banks (normal : ∀ l ∈ lanesOf s.cur.mask, s.inHandler s.cur.w l = false) :
    (s.landed h out).regs.hv = s.regs.hv ∧ (s.landed h out).regs.hs = s.regs.hs := by
  have bank : ∀ l ∈ lanesOf (s.activeSet h), ∀ x, LaneWrite rng (s.inHandler s.cur.w l) dst wide l x → ∀ u : State,
      (u.putReg s.cur.w x).regs.hv = u.regs.hv ∧ (u.putReg s.cur.w x).regs.hs = u.regs.hs := by
    intro l hl x lw u
    have out := normal l (mem_of_guardMask hl)
    cases x with
    | hv | hs => simp [LaneWrite, out] at lw
    | _ => exact ⟨rfl, rfl⟩
  rw [landed_eq, advance_hv, advance_hs]
  exact ⟨written_keep writes (fun r => r.hv) fun l hl x lw u => (bank l hl x lw u).1,
    written_keep writes (fun r => r.hs) fun l hl x lw u => (bank l hl x lw u).2⟩

/-- The frame of a state that is the landed one up to generators and warps' records. -/
theorem regFrame_of_landed {t : State}
    (same : t = { s.landed h out with regs := { (s.landed h out).regs with rng := s.regs.rng }, warps := t.warps })
    (others : ∀ v, v ≠ s.cur.w → t.warp v = s.warp v)
    (record : ∃ leaving waits wins, t.warp s.cur.w = { s.warp s.cur.w with leaving := leaving, cvsetWait := waits, wins := wins }) :
    RegFrame s t h dst wide := by
  have only := landed_onlyRegs writes
  have ops := landed_ops_unwindowed s h out
  have vectors := fun w l n => landed_getV (w := w) (l := l) (n := n) writes
  have scalars := fun w n => landed_getS (w := w) (n := n) writes
  have preds := fun w l n => landed_getP (w := w) (l := l) (n := n) writes
  have targets := fun w l n => landed_getBt (w := w) (l := l) (n := n) writes
  have counters := fun w l n => landed_getLc (w := w) (l := l) (n := n) writes
  have links := fun w l => landed_getLk (w := w) (l := l) writes
  have sets := fun w n => landed_getCv (w := w) (n := n) writes
  have pcs := fun w l => landed_getPc (s := s) (h := h) (out := out) (w := w) (l := l)
  have banks := landed_banks writes
  generalize s.landed h out = landed at *
  obtain ⟨leaving, waits, wins, e⟩ := record
  have rest : OnlyRegs landed t := by rw [same]; rfl
  have regs : t.regs = { landed.regs with rng := s.regs.rng } := (congrArg State.regs same :)
  have sameOps : t.ops = landed.ops := (congrArg State.ops same :)
  exact {
    rest := only.trans rest
    warps := others
    record := by rw [e]
    ops := by rw [sameOps]; exact ops
    vectors := by rw [regs]; exact vectors
    scalars := by rw [regs]; exact scalars
    preds := by rw [regs]; exact fun w l n hl _ => preds w l n hl
    targets := by rw [regs]; exact targets
    counters := by rw [regs]; exact counters
    links := by rw [regs]; exact links
    sets := by rw [regs]; exact sets
    gens := by rw [regs]
    pcs := by rw [regs]; exact pcs
    banks := by rw [regs]; exact banks }

end

/-! ## Register-only instructions -/

theorem landed_rng {s : State} {h : Hdr} {out : State → Rd → LaneOut} {dst : Opnd} {wide : Bool}
    (writes : ∀ l ∈ lanesOf (s.activeSet h), ∀ x ∈ (out s (s.rdAt h l)).ws, LaneWrite false (s.inHandler s.cur.w l) dst wide l x) :
    (s.landed h out).regs.rng = s.regs.rng := by
  rw [landed_eq, advance_rng]
  refine written_keep writes (fun r => r.rng) fun l hl x lw u => ?_
  cases x with
  | rng => simp [LaneWrite] at lw
  | _ => rfl

/-- An instruction that writes its destination only, and raises no flag. -/
theorem regFrame_landed {s : State} {h : Hdr} {out : State → Rd → LaneOut} {dst : Opnd} {wide : Bool}
    (writes : ∀ l ∈ lanesOf (s.activeSet h), ∀ x ∈ (out s (s.rdAt h l)).ws, LaneWrite false (s.inHandler s.cur.w l) dst wide l x)
    (noFlags : landedFlags s h out = 0) : RegFrame s (s.landed h out) h dst wide := by
  have gens := landed_rng writes
  refine regFrame_of_landed writes ?_ (fun v ne => landed_warp_of_ne writes ne) ?_
  · generalize s.landed h out = t at *
    rw [← gens]
  · obtain ⟨leaving, waits, wins, e⟩ := landed_warp writes
    exact ⟨leaving, waits, wins, by simpa [noFlags] using e⟩

/-- Whether what a lane computes is a value for a destination of one register, or of a pair where the instruction's type takes one. -/
def FillsDest (dst : Opnd) (wide : Bool) (out : State → Rd → LaneOut) : Prop :=
  ∀ s c, ∃ narrow x, (narrow = true → wide = true) ∧ out s c = outD s c dst narrow x 0

/-- An instruction whose shared issue has a result only completes with it. -/
theorem completes_of_fixed {i : Instr} {h : Hdr} {out : State → Rd → LaneOut}
    (run : ∀ s, exec i s = .next (issueFixed h (checkOf i) (fixedOf out) s)) : Completes i h out := by
  intro s can
  rw [run, issueFixed_landed can]

theorem keepsRest_of_fillsDest {i : Instr} {h : Hdr} {dst : Opnd} {wide : Bool} {out : State → Rd → LaneOut}
    (run : ∀ s, exec i s = .next (issueFixed h (checkOf i) (fixedOf out) s)) (fills : FillsDest dst wide out) :
    KeepsRest i h dst wide := by
  intro s can even
  refine ⟨s.landed h out, completes_of_fixed run s can, regFrame_landed (fun l _ x hx => ?_) (landedFlags_zero fun c => ?_)⟩
  · obtain ⟨narrow, v, le, e⟩ := fills s (s.rdAt h l)
    rw [e] at hx
    exact laneWrite_dstWrites le even x hx
  · obtain ⟨_, _, _, e⟩ := fills s c
    rw [e]
    rfl

/-- Settles O38: each of the instructions computes one value for its destination in every lane, narrower than the instruction's type at
most. -/
theorem registerInstructionsKeepTheRest : Obligations.RegisterInstructionsKeepTheRest := by
  unfold Obligations.RegisterInstructionsKeepTheRest
  constructor
  · intro h f
    have nop : KeepsRest (.nop h f) h .zr false := keepsRest_of_fillsDest (fun _ => rfl) fun _ _ => ⟨false, 0, id, rfl⟩
    have madw : KeepsRest (.madw h f) h f.dst true :=
      keepsRest_of_fillsDest (fun _ => rfl) fun _ _ => ⟨isWide (tyWide f.ty), _, fun _ => rfl, rfl⟩
    have fsh : KeepsRest (.fsh h f) h f.dst (isWide f.ty) :=
      keepsRest_of_fillsDest (fun _ => rfl) fun _ _ => ⟨false, _, Bool.noConfusion, rfl⟩
    have bsel : KeepsRest (.bsel h f) h f.dst (isWide f.ty) :=
      keepsRest_of_fillsDest (fun _ => rfl) fun _ _ => ⟨false, _, Bool.noConfusion, rfl⟩
    refine ⟨nop, ?_, ?_, ?_, ?_, ?_, ?_, ?_, madw, ?_, ?_, ?_, ?_, ?_, ?_, ?_, ?_, ?_, ?_, ?_, ?_, ?_, ?_, ?_, ?_, fsh, ?_, ?_, bsel,
      ?_, ?_, ?_, ?_, ?_, ?_, ?_, ?_, ?_, ?_⟩ <;> exact keepsRest_of_fillsDest (fun _ => rfl) fun _ _ => ⟨_, _, id, rfl⟩
  · intro h f
    refine ⟨?_, ?_, ?_, ?_, ?_, ?_, ?_, ?_, ?_⟩ <;> exact keepsRest_of_fillsDest (fun _ => rfl) fun _ _ => ⟨_, _, id, rfl⟩

/-! ## Floating instructions -/

theorem nmapFind_modify {α : Type} (m : NMap α) (k j : Nat) (f : α → α) :
    nmapFind (nmapModify m k f) j = if j = k then (nmapFind m j).map f else nmapFind m j := by
  unfold nmapModify
  induction m with
  | nil => simp
  | cons e t ih =>
    rw [List.map_cons, nmapFind_cons, nmapFind_cons, ih]
    by_cases hk : e.1 = k <;> by_cases hj : j = k <;> by_cases he : e.1 = j <;> simp_all

/-- A state with the flags of one warp and the generators put back. -/
def unflagged (t : State) (w : Nat) (fl : FpFlags) (rng : NMap Word) : State :=
  { t with regs := { t.regs with rng := rng }, warps := nmapModify t.warps w (fun (x : Warp) => { x with fpflags := fl }) }

theorem unflagged_warp_of_ne {t : State} {w v : Nat} {fl : FpFlags} {rng : NMap Word} (ne : v ≠ w) :
    (unflagged t w fl rng).warp v = t.warp v := by
  simp [unflagged, State.warp, nmapFind_modify, ne]

/-- A warp without a record has no flags, so putting none back changes nothing. -/
theorem unflagged_warp {t : State} {w : Nat} {fl more : FpFlags} {rng : NMap Word} (gained : (t.warp w).fpflags = fl ||| more) :
    (unflagged t w fl rng).warp w = { t.warp w with fpflags := fl } := by
  unfold State.warp at *
  simp only [unflagged, nmapFind_modify, if_true]
  cases e : nmapFind t.warps w with
  | some x => rfl
  | none =>
    rw [e] at gained
    have none : fl = 0 := (BitVec.or_eq_zero_iff.mp gained.symm).1
    rw [none]
    rfl

theorem and_not_or_self (a b : FpFlags) : a &&& ~~~(a ||| b) = 0 := by
  ext i hi
  cases ha : a[i] <;> simp [ha]

/-- What a floating instruction leaves beside its destination, its flags and its lanes' generators. -/
theorem floatFrame_landed {s : State} {h : Hdr} {out : State → Rd → LaneOut} {dst : Opnd} {wide : Bool}
    (writes : ∀ l ∈ lanesOf (s.activeSet h), ∀ x ∈ (out s (s.rdAt h l)).ws, LaneWrite true (s.inHandler s.cur.w l) dst wide l x) :
    RegFrame s (unflagged (s.landed h out) s.cur.w (s.warp s.cur.w).fpflags s.regs.rng) h dst wide ∧
      (s.warp s.cur.w).fpflags &&& ~~~((s.landed h out).warp s.cur.w).fpflags = 0 ∧
      ∀ w l, l < 32 → (w ≠ s.cur.w ∨ (s.activeSet h).getLsbD l = false) →
        (s.landed h out).regs.getRng w l = s.regs.getRng w l := by
  obtain ⟨leaving, waits, wins, e⟩ := landed_warp writes
  have gained : ((s.landed h out).warp s.cur.w).fpflags = (s.warp s.cur.w).fpflags ||| landedFlags s h out := by rw [e]
  refine ⟨regFrame_of_landed writes rfl (fun v ne => ?_) ⟨leaving, waits, wins, ?_⟩, ?_,
    fun w l hl away => landed_getRng writes hl away⟩
  · rw [unflagged_warp_of_ne ne, landed_warp_of_ne writes ne]
  · rw [unflagged_warp gained, e]
  · rw [gained]
    exact and_not_or_self _ _

/-- Every write of a lane goes to its destination or to its generator. -/
def RoundsToDest (dst : Opnd) (wide : Bool) (out : State → Rd → LaneOut) : Prop :=
  (wide = true → evenPair dst = true) → ∀ s c, ∀ x ∈ (out s c).ws, LaneWrite true (s.inHandler c.w c.l) dst wide c.l x

theorem floatKeepsRest_of_rounds {i : Instr} {h : Hdr} {dst : Opnd} {wide : Bool} {out : State → Rd → LaneOut} (run : Completes i h out)
    (rounds : RoundsToDest dst wide out) : FloatKeepsRest i h dst wide := by
  intro s can even
  exact ⟨s.landed h out, run s can, floatFrame_landed fun l _ => rounds even s (s.rdAt h l)⟩

/-- A result delivered without a rounding. -/
theorem laneWrite_outD {s : State} {c : Rd} {dst : Opnd} {narrow wide : Bool} {v : BitVec 64} {fl : FpFlags}
    (le : narrow = true → wide = true) (even : wide = true → evenPair dst = true) :
    ∀ x ∈ (outD s c dst narrow v fl).ws, LaneWrite true (s.inHandler c.w c.l) dst wide c.l x :=
  laneWrite_dstWrites le even

/-- A rounded result: beside the destination the lane's generator may step (R60). -/
theorem laneWrite_outF {s : State} {c : Rd} {dst : Opnd} {t : Ty} {wide : Bool} {e : FEnv} {r : ERes}
    (le : isWide t = true → wide = true) (even : wide = true → evenPair dst = true) :
    ∀ x ∈ (outF s c dst t e r).ws, LaneWrite true (s.inHandler c.w c.l) dst wide c.l x := by
  intro x hx
  obtain hx | hx := List.mem_append.mp hx
  · exact laneWrite_dstWrites le even x hx
  · unfold rngWrites at hx
    split at hx
    · obtain rfl := List.mem_singleton.mp hx
      exact ⟨rfl, rfl⟩
    · cases hx

theorem laneWrite_outPack {f : RForm} {s : State} {c : Rd} :
    ∀ x ∈ (outPack f s c).ws, LaneWrite true (s.inHandler c.w c.l) f.dst false c.l x := by
  unfold outPack
  dsimp only
  split
  · exact laneWrite_outD id Bool.noConfusion
  · exact laneWrite_outF id Bool.noConfusion

/-- PACK keeps its operands for a trap, and completes as an instruction with a result only. -/
theorem completes_pack (h : Hdr) (f : RForm) : Completes (.pack h f) h (outPack f) := by
  intro s can
  exact next_congr ((issueFixed_eq can (fun _ _ => rfl) (fun _ _ => rfl) (fun _ _ => rfl)).trans (by simp [State.landed, fixedOf]))

/-- Settles O39: each of the instructions delivers its result, rounded or not, to its destination. -/
theorem floatingInstructionsKeepTheRest : Obligations.FloatingInstructionsKeepTheRest := by
  unfold Obligations.FloatingInstructionsKeepTheRest
  constructor
  · intro h f
    have pack : FloatKeepsRest (.pack h f) h f.dst false := floatKeepsRest_of_rounds (completes_pack h f) fun _ _ _ => laneWrite_outPack
    have spx : FloatKeepsRest (.spx h f) h f.dst (decide (f.ty = .f16 ∨ f.ty = .bf16)) :=
      floatKeepsRest_of_rounds (completes_of_fixed fun _ => rfl) fun even _ _ => laneWrite_outD (by simp) even
    have spexp : FloatKeepsRest (.spexp h f) h f.dst (decide (f.ty = .f16 ∨ f.ty = .bf16)) :=
      floatKeepsRest_of_rounds (completes_of_fixed fun _ => rfl) fun even _ _ => laneWrite_outD (by simp) even
    refine ⟨?fadd, ?fmul, ?fma, ?fdiv, ?fsqrt, ?fscale, ?fadd2, ?fmul2, ?fma2, ?fdot2, ?fmin, ?fmax, ?fcmp, ?frnd, ?fcvt, ?f2i, ?i2f,
      ?rcp, ?rsq, ?exp2, ?log2, ?sin, ?cos, ?tanh, pack, ?unpk, spx, spexp⟩
    case fmin | fmax | fcmp | rcp | rsq | exp2 | log2 | sin | cos | tanh | unpk =>
      exact floatKeepsRest_of_rounds (completes_of_fixed fun _ => rfl) fun even _ _ => laneWrite_outD id even
    all_goals exact floatKeepsRest_of_rounds (completes_of_fixed fun _ => rfl) fun even _ _ => laneWrite_outF id even
  · intro h f
    constructor <;> exact floatKeepsRest_of_rounds (completes_of_fixed fun _ => rfl) fun even _ _ => laneWrite_outF id even

end Sys2Proof.Laws
end

section
/-! Writes of %rng and %fpctl (R61), and the guard and the transfer of a set that has no warp (R36, R37, R424). -/

namespace Sys2Proof.Laws

open Sys2Proof.Machine

/-! ## WRSR -/

/-- WRSR of a register that lanes out of handler mode may write completes with its result only (R408). -/
theorem completes_wrsr {h : Hdr} {f : RForm} {s : State} (can : s.CanIssue h (checkOf (.wrsr h f)))
    (number : srNum f.sb = 0x31 ∨ srNum f.sb = 0x32) : exec (.wrsr h f) s = .next (s.landed h (outWrsr f)) := by
  have pre : ∀ l ∈ lanesOf s.cur.mask, preWrsr f s (s.rdFor 0 l) = none := fun l _ => by
    obtain e | e := number <;> simp [preWrsr, e]
  exact next_congr ((issueFixed_eq can pre (fun _ _ => rfl) (fun _ _ => rfl)).trans (by simp [State.landed, fixedOf]))

theorem outWrsr_rng {f : RForm} (number : srNum f.sb = 0x32) (s : State) (c : Rd) :
    outWrsr f s c = ⟨[.rng c.l ((s.src c f.ty f.sa).truncate 32)], 0⟩ := by
  simp [outWrsr, number]

theorem outWrsr_fpctl {f : RForm} (number : srNum f.sb = 0x31) (s : State) (c : Rd) :
    outWrsr f s c = ⟨[.fpctl ((s.src c f.ty f.sa).truncate 32)], 0⟩ := by
  simp [outWrsr, number]

/-- What %rng of a lane holds after WRSR: 0 stores 1 (R61). -/
def rngStore (x : Word) : Word := if x = 0 then 1 else x

theorem landed_wrsr_rng {h : Hdr} {f : RForm} {s : State} (number : srNum f.sb = 0x32) {l : Nat} (hl : l < 32) :
    (s.landed h (outWrsr f)).regs.getRng s.cur.w l =
      if (s.activeSet h).getLsbD l then rngStore ((s.src (s.rdAt h l) f.ty f.sa).truncate 32) else s.regs.getRng s.cur.w l := by
  have writes : landedWrites s h (outWrsr f) =
      (lanesOf (s.activeSet h)).flatMap (fun j => [.rng j ((s.src (s.rdAt h j) f.ty f.sa).truncate 32)]) := by
    simp only [landedWrites, outWrsr_rng number]
    exact laneWrites_unshared (out := fun j => ⟨[.rng j ((s.src (s.rdAt h j) f.ty f.sa).truncate 32)], 0⟩) (by simp [RegWrite.shared])
  rw [landed_regs (fun r => r.getRng s.cur.w l) (fun _ _ _ _ => rfl) (fun _ _ _ _ => rfl) (fun _ _ _ _ _ => rfl), writes,
    applyWrites_flatMap (fun r => r.getRng s.cur.w l) (v := rngStore ((s.src (s.rdAt h l) f.ty f.sa).truncate 32))
      (g := fun j => [.rng j ((s.src (s.rdAt h j) f.ty f.sa).truncate 32)]) (k := l)]
  · simp only [mem_lanesOf]
  · intro u
    simp [State.applyWrites, State.putReg, getRng_setRng, rngStore]
  · intro j hj ne u
    have : ¬ l = j := fun e => ne e.symm
    simp [State.applyWrites, State.putReg, getRng_setRng_iff (lanesOf_lt hj) hl, this]

theorem fpctlStore_illegal {x : Word} (code : x.extractLsb' 0 3 = 6 ∨ x.extractLsb' 0 3 = 7) : (fpctlStore x).extractLsb' 0 3 = 0 := by
  rw [fpctlStore, if_pos code]
  exact (BitVec.extractLsb'_append_eq_of_add_le (by decide)).trans BitVec.extractLsb'_eq_self

theorem fpctlStore_legal {x : Word} (six : x.extractLsb' 0 3 ≠ 6) (seven : x.extractLsb' 0 3 ≠ 7) : fpctlStore x = x.extractLsb' 0 4 :=
  if_neg (not_or.mpr ⟨six, seven⟩)

theorem extractLsb'_truncate_low {x : BitVec 64} {n : Nat} (hn : n ≤ 32) : (x.truncate 32).extractLsb' 0 n = x.extractLsb' 0 n := by
  ext i hi
  have : i < 32 := by omega
  simp [this]

/-- %fpctl takes the lowest lane's value (R57, R408). -/
theorem landed_wrsr_fpctl {h : Hdr} {f : RForm} {s : State} (number : srNum f.sb = 0x31) {l : Nat}
    (lead : leadOf (s.activeSet h) = some l) :
    ((s.landed h (outWrsr f)).warp s.cur.w).fpctl = fpctlStore ((s.src (s.rdAt h l) f.ty f.sa).truncate 32) := by
  obtain ⟨ls, lanes⟩ : ∃ ls, lanesOf (s.activeSet h) = l :: ls := List.head?_eq_some_iff.mp lead
  have writes : landedWrites s h (outWrsr f) = [.fpctl ((s.src (s.rdAt h l) f.ty f.sa).truncate 32)] := by
    simp only [landedWrites, lanes, outWrsr_fpctl number]
    exact laneWrites_shared (out := fun j => ⟨[.fpctl ((s.src (s.rdAt h j) f.ty f.sa).truncate 32)], 0⟩) (by simp [RegWrite.shared])
  obtain ⟨_, _, _, e⟩ := advance_warp (written s h (outWrsr f)) s h s.cur.w s.cur.pc (s.activeSet h) (s.offSet h)
  rw [landed_eq, e, written, warp_orFlags, writes]
  simp [State.applyWrites, State.applyWrite, State.putReg, State.unpoison, regUnit]

/-- No destination is a generator (R53). -/
theorem putReg_rng_of_dstWrites {hm wide : Bool} {dst : Opnd} {l : Nat} {v : BitVec 64} {x : RegWrite}
    (hx : x ∈ dstWrites hm dst l wide v) (s : State) (w : Nat) : (s.putReg w x).regs.rng = s.regs.rng := by
  cases x with
  | rng =>
    unfold dstWrites at hx
    cases dst <;> cases wide <;> cases hm <;> simp at hx
  | _ => rfl

/-- An instruction whose lanes write their destination only steps no generator. -/
theorem landed_rng_of_outT {s : State} {h : Hdr} {dst : Opnd} {ty : Ty} {val : State → Rd → BitVec 64} :
    (s.landed h (fun s c => outT s c dst ty (val s c))).regs.rng = s.regs.rng := by
  rw [landed_regs (fun r => r.rng) (fun _ _ _ _ => rfl) (fun _ _ _ _ => rfl) (fun _ _ _ _ _ => rfl)]
  refine applyWrites_keep (fun r => r.rng) (fun x hx u => ?_) s
  obtain ⟨e, he, hx⟩ := mem_laneWrites hx
  obtain ⟨l, _, rfl⟩ := List.mem_map.mp he
  exact putReg_rng_of_dstWrites hx u s.cur.w

/-- Settles O47: %rng is each lane's own and stores 1 for 0, %fpctl is the warp's and stores 000 for an illegal code; MOV and RDSR write
their destination only, which is no generator. -/
theorem generatorAndModeWrites : Obligations.GeneratorAndModeWrites := by
  unfold Obligations.GeneratorAndModeWrites
  intro h f s
  refine ⟨fun can number => ⟨_, completes_wrsr can (.inr number), fun l hl => landed_wrsr_rng number hl⟩,
    fun can number l lead => ⟨_, completes_wrsr can (.inl number), ?_⟩,
    fun can => ⟨_, completes_of_fixed (fun _ => rfl) s can, landed_rng_of_outT⟩,
    fun can => ⟨_, completes_of_fixed (fun _ => rfl) s can, landed_rng_of_outT⟩⟩
  · rw [landed_wrsr_fpctl number lead]
    constructor
    · intro code
      exact fpctlStore_illegal (by rwa [extractLsb'_truncate_low (by decide)])
    · intro six seven
      rw [fpctlStore_legal, extractLsb'_truncate_low (by decide)] <;> rwa [extractLsb'_truncate_low (by decide)]

/-! ## A set without a warp -/

/-- A state in which no warp has a record, and whose current set is lane 0 of warp 0. -/
def strayLane : State := { State.reset with cur := { w := 0, mask := 1#32, pc := 0, word := 0, second := none } }

/-- A header without a guard and without a transfer. -/
def plainHdr : Hdr := { g := false, n := false, p := 0, nxt := .seq, t := 0, la := 0 }

/-- A lane of a warp without a record is in M and does not move on: nothing moves once the warp's context has ended (R424). -/
theorem strayLane_stays : (strayLane.activeSet plainHdr).getLsbD 0 = true ∧
    (strayLane.landed plainHdr (fun s c => outT s c .zr .b32 0)).regs.getPc 0 0 ≠ strayLane.cur.pc + 1 := by decide

/-- Refutes O37: the statement speaks of every state, also of one in which the selected set's warp has no record; there the lanes of M
stay where they are, and lane 0 of `strayLane` does not come to pc + 1. -/
theorem not_guardAndNextPc : ¬ Obligations.GuardAndNextPc := by
  unfold Obligations.GuardAndNextPc
  intro holds
  obtain ⟨acts, stays⟩ := strayLane_stays
  obtain ⟨_, _, moves⟩ := holds strayLane plainHdr .zr .b32 (fun _ _ => 0) 0 (by decide) (by decide)
  obtain ⟨seq, _⟩ := moves acts
  exact stays (seq rfl)

end Sys2Proof.Laws
end

section
/-! Lane exits and the completions of outstanding instructions (R41, R43, R146, R163, R165, R173, R266, R268). -/

namespace Sys2Proof.Laws

open Sys2Proof.Machine

theorem exec_laneExit {s : State} {w l : Nat} (due : s.exitDue w l = true) :
    let s1 := s.autoArrive w l
    let x := s1.warp w
    exec (.laneExit w l) s = .next
      (((({ s1 with regs := s1.regs.setPc w l Config.exitedPc }.setWarp w
        { x with exited := x.exited ||| bit32 l, leaving := x.leaving &&& ~~~bit32 l, hmode := x.hmode &&& ~~~bit32 l }).endRounds
          w).endActivation w).settle) :=
  next_congr (if_neg (by simp [due]))

/-! ## Looking again -/

theorem waitingLanes_of_done {o : Op} (done : o.todo = 0) : waitingLanes o = [] := by
  rw [waitingLanes, done, show (0 : Mask) &&& ~~~parkedMask o = 0 from BitVec.zero_and]
  rfl

theorem retryLanes_nil (op : LongOp) (id : Nat) (s : State) : retryLanes op id [] s = s := by
  unfold retryLanes
  split <;> rfl

theorem tryAgain_nil (s : State) (id : Nat) : s.tryAgain id [] = s := by
  unfold State.tryAgain
  split
  · rfl
  · split
    · rfl
    · exact retryLanes_nil _ id s
    · rfl

theorem exec_loadCompletion {s : State} {id : Nat} {o : Op} (found : nmapFind s.ops id = some o) (mma : o.mma = none)
    (accepted : o.accepted = false) (done : o.todo = 0) : exec (.loadCompletion id) s = .next (s.completeOp id) := by
  refine next_congr ?_
  rw [found]
  simp only [mma, accepted, waitingLanes_of_done done, tryAgain_nil]
  rfl

/-- An access that minds its granule's bit is not held back by it when the bit lets it. -/
theorem bit_lets {fe : Fe} {holds : Bool} (lets : fe = .ignore ∨ holds = false) : (decide (fe ≠ .ignore) && holds) = false := by
  obtain e | e := lets <;> simp [e]

/-- A load's part is what its execution does. -/
theorem perfLd_of_partLd {f : MForm} (s : State) (o : Op) (l : Nat) (t : State) (p : Perf) (part : partLd f s o l t p) :
    perfLd f s o l = (t, p) ∧ goesWell p := by
  obtain ⟨tgt, s0, s1, bs, place, bit, flush, access, rfl, rfl⟩ := part
  have lets := bit_lets bit
  refine ⟨?_, trivial⟩
  simp only [perfLd, place, lets, flush, Bool.false_eq_true, if_false]
  simp only [whoAt] at access
  rw [access]

/-- A store's part is what its execution does. -/
theorem perfSt_of_partSt {f : MForm} (s : State) (o : Op) (l : Nat) (t : State) (p : Perf) (part : partSt f s o l t p) :
    perfSt f s o l = (t, p) ∧ goesWell p := by
  obtain ⟨tgt, s1, bs, place, bit, held, access, rfl, rfl⟩ := part
  have lets := bit_lets bit
  have released : (decide (f.ord = .rel) && s.releaseHeld (warpCid o.w) f.scope) = false := by
    by_cases e : f.ord = .rel <;> simp [e, held]
  refine ⟨?_, trivial⟩
  simp only [perfSt, place, lets, released, Bool.false_eq_true, if_false]
  simp only [whoAt] at access
  rw [access]

theorem retryLanes_performs {op : LongOp} {part : PartSpec} {id : Nat} {ls : List Nat} {s t : State} {o : Op}
    (found : nmapFind s.ops id = some o) (performed : ∀ s o l s1 p, part s o l s1 p → op.perf s o l = (s1, p) ∧ goesWell p)
    (goes : Performs op.once part id ls s t) : retryLanes op id ls s = t := by
  unfold retryLanes
  rw [found]
  simp only [performLanes_eq performed ls s t goes]
  rfl

/-- A lane that has its part to do tries it again by its instruction's own operation. -/
theorem tryAgain_long {s : State} {id l : Nat} {o : Op} {op : LongOp} (found : nmapFind s.ops id = some o)
    (long : longOpOf o.instr = some op) (todo : o.todo.getLsbD l = true) : s.tryAgain id [l] = retryLanes op id [l] s := by
  unfold State.tryAgain
  rw [found]
  dsimp only
  split
  · next e =>
    rw [e] at long
    cases long
  · next e _ =>
    cases long.symm.trans e
    rw [List.filter_cons, if_pos todo, List.filter_nil]
  · next e _ => cases long.symm.trans e

/-- A lane whose wait for its full-empty bit ends is performed when its part goes through. -/
theorem exec_fullEmptyWaitEnd {s t : State} {id l : Nat} {o : Op} {op : LongOp} {part : PartSpec} (found : nmapFind s.ops id = some o)
    (long : longOpOf o.instr = some op) (performed : ∀ s o l s1 p, part s o l s1 p → op.perf s o l = (s1, p) ∧ goesWell p)
    (waits : (o.waitOf l).1 = .fullEmpty) (todo : o.todo.getLsbD l = true) (goes : Performs op.once part id [l] s t) :
    exec (.fullEmptyWaitEnd id l) s = .next t := by
  refine next_congr ?_
  rw [found]
  simp only [waits, if_true, tryAgain_long found long todo, retryLanes_performs found performed goes]

/-! ## The loft and the matrix unit -/

theorem exec_lldCompletion {s : State} {id : Nat} {o : Op} {h : Hdr} {f : RForm} (found : nmapFind s.ops id = some o)
    (instr : o.instr = .lld h f) : exec (.lldCompletion id) s = .next ((s.completeOp id).retryLrels (warpCid o.w)) := by
  refine next_congr ?_
  rw [found]
  simp only [instr]

theorem exec_matrixSliceStart {s : State} {cid q id : Nat} {rest : List Nat} (free : nmapFind s.cores.running (cid * 4 + q) = none)
    (oldest : dmapGet [] s.cores.slices (cid * 4 + q) = id :: rest) :
    exec (.matrixSliceStart cid q) s = .next
      ({ s with cores := { s.cores with running := nmapSet s.cores.running (cid * 4 + q) id,
                                        slices := dmapSet [] s.cores.slices (cid * 4 + q) rest } }.runSigned (cid * 4 + q)) := by
  refine next_congr ?_
  simp only [State.startSlice, free, oldest]

theorem exec_mmaCompletion {s : State} {cid q id : Nat} {o : Op} {m : MmaJob} (found : nmapFind s.ops id = some o)
    (running : nmapFind s.cores.running (cid * 4 + q) = some id) (mma : o.mma = some m) :
    exec (.mmaCompletion cid q) s = .next
      ((({ s.mmaWrite m with cores := { (s.mmaWrite m).cores with running := nmapErase (s.mmaWrite m).cores.running (cid * 4 + q) } }.modOp id
        (fun (x : Op) => { x with todo := 0 })).completeOp id).retryLrels cid) := by
  refine next_congr ?_
  simp only [running, found, mma]

/-- Settles O24: each event does what is due, and nothing that it could wait for stands in its way. -/
theorem completionEventsComplete : Obligations.CompletionEventsComplete := by
  unfold Obligations.CompletionEventsComplete
  refine ⟨fun s w l => exec_laneExit, fun s id o found => ⟨exec_loadCompletion found, ?ld, ?st, ?lld, ?start, ?mma⟩⟩
  case ld => exact fun h f l t instr => exec_fullEmptyWaitEnd found (by rw [instr]; rfl) perfLd_of_partLd
  case st => exact fun h f l t instr => exec_fullEmptyWaitEnd found (by rw [instr]; rfl) perfSt_of_partSt
  case lld => exact fun h f => exec_lldCompletion found
  case start => exact fun cid q rest => exec_matrixSliceStart
  case mma => exact fun cid q m => exec_mmaCompletion found

end Sys2Proof.Laws
end

section
/-! Floating instructions complete (R100, R122 to R130). -/

namespace Sys2Proof.Laws

open Sys2Proof.Machine

/-- Settles O5: each floating instruction runs on the shared issue as an operation with a result only, which neither waits nor has a cause
of its own, so the lanes of M take that result. -/
theorem floatingComplete : Obligations.FloatingComplete := by
  unfold Obligations.FloatingComplete
  refine ⟨⟨fun h f => ?arithmetic, fun h f => ?immediate⟩, fun h f => ?comparison, fun h f => ?special⟩
  case arithmetic =>
    refine ⟨?fadd, ?fmul, ?fma, ?fdiv, ?fsqrt, ?fscale, ?fadd2, ?fmul2, ?fma2, ?fdot2⟩ <;> exact completes_of_fixed fun _ => rfl
  case immediate =>
    refine ⟨?faddi, ?fmuli⟩ <;> exact completes_of_fixed fun _ => rfl
  case comparison =>
    refine ⟨?fmin, ?fmax, ?fcmp, ?fclass, ?frnd, ?fcvt, ?f2i, ?i2f⟩ <;> exact completes_of_fixed fun _ => rfl
  case special =>
    refine ⟨?rcp, ?rsq, ?exp2, ?log2, ?sin, ?cos, ?tanh⟩ <;> exact completes_of_fixed fun _ => rfl

end Sys2Proof.Laws
end

section
/-! The instructions of fixed latency without a floating result, and the warp-wide ones, complete (R110 to R121, R131 to R143, R368 to R372). -/

namespace Sys2Proof.Laws

open Sys2Proof.Machine

/-! ## Results only -/

/-- Settles O1: each of the instructions runs on the shared issue as an operation with a result only. -/
theorem movesReadsComplete : Obligations.MovesReadsComplete := by
  unfold Obligations.MovesReadsComplete
  refine ⟨⟨fun h f => ⟨?nop, ?mov, ?sel⟩, fun h f => ?movi⟩, fun h f => ⟨?cvget, ?actmask, ?rdsr⟩⟩ <;>
    exact completes_of_fixed fun _ => rfl

/-- Settles O2: each of the instructions runs on the shared issue as an operation with a result only. -/
theorem integerComplete : Obligations.IntegerComplete := by
  unfold Obligations.IntegerComplete
  refine ⟨fun h f => ⟨?add, ?sub, ?mul, ?mulhi, ?mad, ?madw, ?abs, ?min, ?max⟩, fun h f => ⟨?addi, ?muli⟩⟩ <;>
    exact completes_of_fixed fun _ => rfl

/-- Settles O3: each of the instructions runs on the shared issue as an operation with a result only. -/
theorem logicShiftFieldComplete : Obligations.LogicShiftFieldComplete := by
  unfold Obligations.LogicShiftFieldComplete
  refine ⟨⟨fun h f => ?registers, fun h f => ?immediate⟩, fun h f => ?fields⟩
  case registers => refine ⟨?and, ?or, ?xor, ?tern⟩ <;> exact completes_of_fixed fun _ => rfl
  case immediate => refine ⟨?andi, ?ori, ?xori⟩ <;> exact completes_of_fixed fun _ => rfl
  case fields =>
    refine ⟨?shl, ?shr, ?sar, ?rot, ?fsh, ?bfx, ?bfi, ?popc, ?clz, ?ctz, ?brev, ?bsel, ?lea⟩ <;> exact completes_of_fixed fun _ => rfl

/-- Settles O4: each of the instructions runs on the shared issue as an operation with a result only, PACK beside the operands that it keeps
for a trap. -/
theorem compareConvertNarrowComplete : Obligations.CompareConvertNarrowComplete := by
  unfold Obligations.CompareConvertNarrowComplete
  refine ⟨⟨fun h f => ?registers, fun h f => ?immediate⟩, fun h f => ⟨completes_pack h f, ?unpk, ?spx, ?spexp⟩⟩
  case registers => refine ⟨?cmp, ?plop, ?p2v, ?cvti, ?dp4, ?movbt⟩ <;> exact completes_of_fixed fun _ => rfl
  case immediate => refine ⟨?cmpi, ?tgt, ?setlc⟩ <;> exact completes_of_fixed fun _ => rfl
  all_goals exact completes_of_fixed fun _ => rfl

/-! ## Writes of the warp's state -/

/-- An operation that waits for nothing and finds no cause, and acts through its results only. -/
theorem issueFixed_landed_of_quiet {s : State} {h : Hdr} {ck : Check} {op : FixedOp} (can : s.CanIssue h ck)
    (pre : ∀ l ∈ lanesOf s.cur.mask, op.pre s (s.rdFor 0 l) = none) (wait : ∀ l ∈ lanesOf s.cur.mask, op.wait s (s.rdFor 0 l) = false)
    (cause : ∀ l ∈ lanesOf (s.activeSet h), op.cause s (s.rdFor 0 l) = none) (post : ∀ t c, op.post t c = t) :
    issueFixed h ck op s = s.landed h op.out := by
  rw [issueFixed_eq can pre wait cause]
  simp only [post, ite_self]
  rfl

/-- An operation without results leaves the state in which its lanes have not moved on as it was. -/
theorem written_noResults (s : State) (h : Hdr) : written s h (fun _ _ => ⟨[], 0⟩) = s := by
  have writes : landedWrites s h (fun _ _ => ⟨[], 0⟩) = [] :=
    (laneWrites_unshared (out := fun _ => ⟨[], 0⟩) (fun _ _ _ hx => nomatch hx)).trans (by simp)
  rw [written, writes, landedFlags_zero fun _ => rfl]
  exact if_pos rfl

/-- An operation without results acts on the warp as a whole, when M is not empty, and the lanes move on. -/
theorem issueFixed_post {s : State} {h : Hdr} {ck : Check} {post : State → Rd → State} (can : s.CanIssue h ck) (acts : s.activeSet h ≠ 0) :
    issueFixed h ck { fixedOf (fun _ _ => ⟨[], 0⟩) with post := post } s =
      (post s (s.rdAt h ((leadOf (s.activeSet h)).getD 0))).advance s h s.cur.w s.cur.pc (s.activeSet h) (s.offSet h) := by
  have untouched := written_noResults s h
  rw [issueFixed_eq can (fun _ _ => rfl) (fun _ _ => rfl) (fun _ _ => rfl)]
  simp only [if_neg acts]
  exact congrArg (fun t => State.advance (post t _) s h s.cur.w s.cur.pc (s.activeSet h) (s.offSet h)) untouched

theorem landed_cur (s : State) (h : Hdr) (out : State → Rd → LaneOut) : (s.landed h out).cur = s.cur := by
  simp [State.landed]

theorem landed_sign (s : State) (h : Hdr) (out : State → Rd → LaneOut) (w k : Nat) : (s.landed h out).sign w k = s.sign w k := by
  simp [State.landed, State.sign]

theorem landed_cvWaiters (s : State) (h : Hdr) (out : State → Rd → LaneOut) (w k : Nat) :
    (s.landed h out).cvWaiters w k = s.cvWaiters w k := by
  rw [State.cvWaiters, landed_sign, State.cvWaiters]

/-- No lane waits at a CVSET whose register has no signer that waits. -/
theorem cvsetHold_of_noWaiters {s : State} {ck : Check} {k : Nat} (clear : s.cvWaiters s.cur.w k = false) : s.cvsetHold ck k = s := by
  simp [State.cvsetHold, clear]

theorem exec_cvset {h : Hdr} {f : RForm} {s : State} (can : s.CanIssue h (checkOf (.cvset h f)))
    (clear : s.cvWaiters s.cur.w (cvNum f.dst) = false) : exec (.cvset h f) s = .next (s.landed h (outCvset f)) := by
  have issue : issueFixed h (checkOf (.cvset h f)) { fixedOf (outCvset f) with wait := fun s c => s.cvWaiters c.w (cvNum f.dst) } s =
      s.landed h (outCvset f) :=
    issueFixed_landed_of_quiet can (fun _ _ => rfl) (fun _ _ => clear) (fun _ _ => rfl) (fun _ _ => rfl)
  refine next_congr ?_
  dsimp only
  rw [issue]
  exact cvsetHold_of_noWaiters (by rw [landed_cvWaiters, landed_cur, clear])

/-- A V2P none of whose predicates is pending neither waits nor raises LAV for one (R118). -/
theorem exec_v2p {h : Hdr} {f : RForm} {s : State} (can : s.CanIssue h (checkOf (.v2p h f)))
    (settled : ∀ l ∈ lanesOf s.cur.mask, ∀ k < 16, (s.src (s.rdFor 0 l) .b32 f.sb).getLsbD k = true →
      s.waitUse s.cur.w l ⟨.p (BitVec.ofNat 4 k), 1, true⟩ = false ∧ s.lavUse s.cur.w l ⟨.p (BitVec.ofNat 4 k), 1, true⟩ = false) :
    exec (.v2p h f) s = .next (s.landed h (outV2p f)) := by
  refine next_congr (issueFixed_landed_of_quiet can (fun _ _ => rfl) (fun l hl => ?wait) (fun l hl => ?cause) (fun _ _ => rfl))
  case wait =>
    refine none_hits fun k hk => ?_
    rw [Bool.and_eq_false_imp]
    exact fun named => (settled l hl k (List.mem_range.mp hk) named).1
  case cause =>
    refine if_neg (Bool.not_eq_true _ ▸ none_hits fun k hk => ?_)
    rw [Bool.and_eq_false_imp]
    exact fun named => (settled l (mem_of_guardMask hl) k (List.mem_range.mp hk) named).2

/-- Settles O6: nothing holds CVSET or V2P back, and YIELD and PAUSE act on their warp alone. -/
theorem warpStateWritesComplete : Obligations.WarpStateWritesComplete := by
  unfold Obligations.WarpStateWritesComplete
  refine ⟨fun h f s => exec_cvset, fun h f s acts => ⟨fun can => ?yield, fun can => ?pause⟩, fun h f s => exec_v2p⟩ <;>
    exact next_congr (issueFixed_post can acts)

/-! ## Warp-wide instructions -/

/-- A warp-wide instruction whose shared issue has results only completes with them. -/
theorem completesWide_of_wideOf {i : Instr} {h : Hdr} {k : Nat} {ta tb tc : Ty} {f : RForm} {out : State → Rd → Nat → LaneOut}
    (run : ∀ s, exec i s = .next (issueWide i h k (wideOf ta tb tc f out) s)) : CompletesWide i h k (wideOf ta tb tc f out) out := by
  intro s can
  rw [run, issueWide_landed rfl rfl can]

/-- Settles O17: each of the instructions runs on the shared issue as a warp-wide operation with results only. -/
theorem warpWideComplete : Obligations.WarpWideComplete := by
  unfold Obligations.WarpWideComplete
  intro h f
  refine ⟨?shfl, ?vote, ?ballot, ?matching, ?redux, ?scan, ?fredux, ?qnt, ?dqnt⟩ <;> exact completesWide_of_wideOf fun _ => rfl

end Sys2Proof.Laws
end

section
/-! The results of the bitwise instructions and of LEA (R112, R116). -/

namespace Sys2Proof.Laws

open Sys2Proof.Machine

/-! ## What the form check says -/

theorem ty_mem_of_chkR {long : Bool} {h : Hdr} {f : RForm} {q : RSpec} (ok : (chkR long h f q).ok = true) : f.ty ∈ q.tys := by
  simp only [chkR, Bool.and_eq_true, List.contains_iff_mem] at ok
  tauto

theorem sub_of_chkR {long : Bool} {h : Hdr} {f : RForm} {q : RSpec} (ok : (chkR long h f q).ok = true) : q.sub = true := by
  simp only [chkR, Bool.and_eq_true] at ok
  tauto

theorem ty_mem_of_chkI {h : Hdr} {f : IForm} {dst sa : Fld} {tys : List Ty} {r st sub : Bool}
    (ok : (chkI h f dst sa tys r st sub).ok = true) : f.ty ∈ tys := by
  simp only [chkI, Bool.and_eq_true, List.contains_iff_mem] at ok
  tauto

/-! ## Bitwise instructions -/

theorem srcNotb_getLsbD {f : RForm} {s : State} {c : Rd} {k : Nat} (hk : k < 64) :
    (srcNotb f s c).getLsbD k = ((s.src c f.ty f.sb).getLsbD k != f.sub.getLsbD 0) := by
  unfold srcNotb
  split
  · next inv => rw [inv, BitVec.getLsbD_not, decide_eq_true hk, Bool.true_and, Bool.bne_true]
  · next keep => rw [Bool.not_eq_true] at keep; rw [keep, Bool.bne_false]

/-- The place of a bit triple in the table of TERN. -/
def ternPlace (x y z : Bool) : Nat := (if x then 1 else 0) + (if y then 2 else 0) + (if z then 4 else 0)

/-- Each bit of TERN's result is the table's at the place that the sources' bits name (R112). -/
theorem tern_getLsbD {lut : BitVec 8} {a b c : BitVec 64} {k : Nat} (hk : k < 64) :
    (tern lut a b c).getLsbD k = lut.getLsbD (ternPlace (a.getLsbD k) (b.getLsbD k) (c.getLsbD k)) := by
  have pick : ∀ (p : Bool) (v : BitVec 64), (if p then v else 0).getLsbD k = (p && v.getLsbD k) := by
    intro p v
    cases p <;> simp
  simp only [tern, BitVec.getLsbD_or, pick, BitVec.getLsbD_and, BitVec.getLsbD_not, hk, decide_true, Bool.true_and]
  cases a.getLsbD k <;> cases b.getLsbD k <;> cases c.getLsbD k <;> simp [ternPlace]

theorem imm_getLsbD {x : Word} {k : Nat} (hk : k < 32) : (x.zeroExtend 64).getLsbD k = x.getLsbD k := by
  simp only [BitVec.getLsbD_setWidth, Bool.and_eq_right_iff_imp, decide_eq_true_eq]
  omega

theorem lt_64_of_lt_width {t : Ty} {k : Nat} (hk : k < if t = .n64 then 64 else 32) : k < 64 := by
  split at hk <;> omega

/-- Settles O35: the instructions complete with the bitwise functions of the operands, and these act bit by bit. -/
theorem bitwiseResultBits : Obligations.BitwiseResultBits := by
  unfold Obligations.BitwiseResultBits
  intro h f g s
  obtain ⟨⟨registers, immediate⟩, _⟩ := logicShiftFieldComplete
  obtain ⟨and, or, xor, tern⟩ := registers h f
  obtain ⟨andi, ori, xori⟩ := immediate h g
  have admitted {i : Instr} {q : RSpec} (can : s.CanIssue h (checkOf i)) (form : checkOf i = chkR false h f q) (tys : q.tys = [.b32, .n64]) :
      f.ty = .b32 ∨ f.ty = .n64 := by
    have ok := can.ok
    rw [form] at ok
    simpa [tys] using ty_mem_of_chkR ok
  have admittedI {dst sa : Fld} {r st sub : Bool} (can : s.CanIssue h (chkI h g dst sa [.b32] r st sub)) : g.ty = .b32 := by
    simpa using ty_mem_of_chkI can.ok
  refine ⟨fun can => ⟨admitted can rfl rfl, _, and s can, fun s c k hk => ?and⟩,
    fun can => ⟨admitted can rfl rfl, _, or s can, fun s c k hk => ?or⟩,
    fun can => ⟨admitted can rfl rfl, _, xor s can, fun s c k hk => ?xor⟩,
    fun can => ⟨admitted can rfl rfl, _, tern s can, fun s c k hk => tern_getLsbD (lt_64_of_lt_width hk)⟩,
    fun can => ⟨admittedI can, _, andi s can, fun s c k hk => ?andi⟩,
    fun can => ⟨admittedI can, _, ori s can, fun s c k hk => ?ori⟩,
    fun can => ⟨admittedI can, _, xori s can, fun s c k hk => ?xori⟩⟩
  case and => rw [BitVec.getLsbD_and, srcNotb_getLsbD (lt_64_of_lt_width hk)]
  case or => rw [BitVec.getLsbD_or, srcNotb_getLsbD (lt_64_of_lt_width hk)]
  case xor => rw [BitVec.getLsbD_xor, srcNotb_getLsbD (lt_64_of_lt_width hk)]
  case andi => rw [BitVec.getLsbD_and, imm_getLsbD hk]
  case ori => rw [BitVec.getLsbD_or, imm_getLsbD hk]
  case xori => rw [BitVec.getLsbD_xor, imm_getLsbD hk]

/-! ## LEA -/

/-- The integer that a signed type reads from all of its bits (R73). -/
theorem intOf_toNat_signed {t : Ty} {w : Nat} (width : intW t = w) (signed : intSigned t = true) (x : BitVec w) :
    intOf t x.toNat = x.toInt := by
  have whole : x.toNat % 2 ^ w = x.toNat := Nat.mod_eq_of_lt x.isLt
  have half : 2 ^ w = 2 * 2 ^ (w - 1) := by rw [← width]; cases t <;> rfl
  have bound : 2 ^ (w - 1) ≤ x.toNat ↔ ¬ 2 * x.toNat < 2 ^ w := by omega
  simp only [intOf, width, whole, signed, bound, Bool.true_and, decide_eq_true_eq, ite_not, BitVec.toInt_eq_toNat_cond,
    Nat.cast_pow, Nat.cast_ofNat]

theorem intOf_toNat_unsigned {t : Ty} {w : Nat} (width : intW t = w) (unsigned : intSigned t = false) (x : BitVec w) :
    intOf t x.toNat = x.toNat := by
  have whole : x.toNat % 2 ^ w = x.toNat := Nat.mod_eq_of_lt x.isLt
  simp [intOf, width, unsigned, whole]

/-- A type reads its own bits only (R73). -/
theorem intOf_mod (t : Ty) (n : Nat) : intOf t (n % 2 ^ intW t) = intOf t n := by
  simp [intOf]

theorem toNat_ofInt_mod (x : Int) : (BitVec.ofInt 64 x).toNat % 2 ^ 32 = (BitVec.ofInt 32 x).toNat := by
  simp only [BitVec.toNat_ofInt]
  omega

/-- A result of a 64-bit type wraps to the pair (R74). -/
theorem intRes_wide {t : Ty} (width : intW t = 64) (x : Int) : intRes t false x = BitVec.ofInt 64 x := by
  simp only [intRes, intSat, width, if_true, Bool.false_eq_true, if_false]
  cases sign : intSigned t
  · rw [intOf_toNat_unsigned width sign, BitVec.ofInt_natCast, BitVec.ofNat_toNat, BitVec.setWidth_eq]
  · rw [intOf_toNat_signed width sign, BitVec.ofInt_toInt]

/-- A result of the unsigned 32-bit type wraps to the register (R74). -/
theorem intRes_n32 (x : Int) : intRes .n32 false x = (BitVec.ofInt 32 x).zeroExtend 64 := by
  have wraps : intOf .n32 (BitVec.ofInt 64 x).toNat = (BitVec.ofInt 32 x).toNat := by
    rw [← intOf_mod]
    exact (congrArg (intOf .n32) (toNat_ofInt_mod x)).trans (intOf_toNat_unsigned rfl rfl _)
  have narrow : intW .n32 ≠ 64 := by decide
  simp only [intRes, intSat, Bool.false_eq_true, if_false, wraps, narrow, BitVec.ofInt_natCast, BitVec.ofNat_toNat]
  rw [BitVec.truncate_eq_setWidth, BitVec.setWidth_setWidth_of_le _ (by decide), BitVec.setWidth_eq]

/-- An operand of one register reads as that register's bits (R55). -/
theorem src_b32 (s : State) (c : Rd) (o : Opnd) : s.src c .b32 o = (s.src32 c .b32 o).zeroExtend 64 := by
  have extended : ∀ x : Word, x.zeroExtend 64 = ((x.zeroExtend 64).truncate 32).zeroExtend 64 := fun x => by simp
  cases o with
  | p n =>
    simp only [State.src32, State.src]
    cases s.regs.getP c.w c.l n.toNat <;> rfl
  | zr | acc _ => rfl
  | _ => exact extended _

theorem srcN_b32 (s : State) (c : Rd) (o : Opnd) : srcN s c .b32 o = (s.src32 c .b32 o).toNat := by
  rw [srcN, src_b32]
  exact BitVec.toNat_setWidth_of_le (by decide)

theorem src_i64 (s : State) (c : Rd) (o : Opnd) : s.src c .i64 o = s.src c .n64 o := by
  cases o <;> rfl

theorem ofInt_srcN (s : State) (c : Rd) (t : Ty) (o : Opnd) (w : Nat) : BitVec.ofInt w (srcN s c t o) = (s.src c t o).setWidth w := by
  rw [srcN, BitVec.ofInt_natCast, BitVec.ofNat_toNat]

/-- A scaled sum wraps as its parts do. -/
theorem ofInt_add_mul_two_pow (w k : Nat) (a b : Int) : BitVec.ofInt w (a + b * 2 ^ k) = BitVec.ofInt w a + BitVec.ofInt w b <<< k := by
  have scale : BitVec.ofInt w (2 ^ k) = BitVec.twoPow w k := by
    apply BitVec.eq_of_toNat_eq
    rw [BitVec.toNat_twoPow, BitVec.toNat_ofInt]
    exact_mod_cast Int.toNat_natCast (2 ^ k % 2 ^ w)
  rw [BitVec.ofInt_add, BitVec.ofInt_mul, BitVec.shiftLeft_eq_mul_twoPow, scale]

/-- The scale of LEA is SUB[2:0], which is all of SUB where the form admits it (R116). -/
theorem subBits_low3 {f : RForm} (low : f.sub.toNat < 8) : subBits f 2 0 = f.sub.toNat := by
  simp only [subBits]
  omega

/-- LEA's sum, wrapped to a register or a pair, as bits (R116). -/
theorem outLea_eq {f : RForm} (ty : f.ty = .n32 ∨ f.ty = .n64 ∨ f.ty = .i64) (low : f.sub.toNat < 8) (s : State) (c : Rd) :
    outLea f s c = outT s c f.dst f.ty
      (if f.ty = .n32 then (s.src32 c .n32 f.sa + (s.src32 c .b32 f.sb <<< f.sub.toNat)).zeroExtend 64
       else if f.ty = .n64 then s.src c .n64 f.sa + ((s.src32 c .b32 f.sb).zeroExtend 64 <<< f.sub.toNat)
       else s.src c .n64 f.sa + ((s.src32 c .b32 f.sb).signExtend 64 <<< f.sub.toNat)) := by
  unfold outLea
  dsimp only
  congr 1
  rw [subBits_low3 low]
  obtain ty | ty | ty := ty <;> rw [ty]
  · rw [if_neg (by decide), if_pos rfl, intRes_n32, ofInt_add_mul_two_pow, ofInt_srcN, ofInt_srcN]
    rfl
  · rw [if_neg (by decide), if_neg (by decide), if_pos rfl, intRes_wide rfl, ofInt_add_mul_two_pow, ofInt_srcN, ofInt_srcN, ← src_b32,
      BitVec.setWidth_eq, BitVec.setWidth_eq]
  · rw [if_pos rfl, if_neg (by decide), if_neg (by decide), intRes_wide rfl, ofInt_add_mul_two_pow, ofInt_srcN, srcN_b32,
      intOf_toNat_signed (w := 32) rfl rfl, BitVec.setWidth_eq, src_i64]
    rfl

/-- Settles O34: the form admits the three types and the scales below 8, and the wrapped sum is the sum of the registers' bits. -/
theorem leaAddsScaled : Obligations.LeaAddsScaled := by
  unfold Obligations.LeaAddsScaled
  intro h f s can
  have ok : (chkR false h f (qLea f)).ok = true := can.ok
  have ty : f.ty = .n32 ∨ f.ty = .n64 ∨ f.ty = .i64 := by simpa [qLea] using ty_mem_of_chkR ok
  have low : f.sub.toNat < 8 := by simpa [qLea, subLt] using sub_of_chkR ok
  have lea : Completes (.lea h f) h (outLea f) := completes_of_fixed fun _ => rfl
  exact ⟨low, ty, (lea s can).trans (next_congr (congrArg (s.landed h) (funext fun t => funext fun c => outLea_eq ty low t c)))⟩

end Sys2Proof.Laws
end

section
/-! The loft instructions, ACCZ and the moves between scratch, registers and accumulator tiles complete (R156 to R168, R174 to R177). -/

namespace Sys2Proof.Laws

open Sys2Proof.Machine

/-! ## Each part goes as its operation performs it -/

theorem perfLres_of_partLres {f : RForm} (s : State) (o : Op) (l : Nat) (t : State) (p : Perf) (part : partLres f s o l t p) :
    perfLres f s o l = (t, p) ∧ goesWell p := by
  obtain ⟨s1, bs, q, k, aligned, read, record, free, rfl, rfl⟩ := part
  refine ⟨?_, trivial⟩
  simp only [perfLres, aligned, ne_eq, not_true_eq_false, if_false, read, record, free]
  rfl

theorem perfLrel_of_partLrel {f : RForm} (s : State) (o : Op) (l : Nat) (t : State) (p : Perf) (part : partLrel s o l t p) :
    perfLrel f s o l = (t, p) ∧ goesWell p := by
  obtain ⟨q, held, idle, rfl, rfl⟩ := part
  refine ⟨?_, trivial⟩
  simp only [perfLrel, held, idle, Bool.false_eq_true, if_false]

theorem perfLstat_of_partLstat {f : RForm} (s : State) (o : Op) (l : Nat) (t : State) (p : Perf) (part : partLstat f s o l t p) :
    perfLstat f s o l = (t, p) ∧ goesWell p := by
  obtain ⟨rfl, rfl⟩ := part
  exact ⟨rfl, trivial⟩

theorem perfLld_of_partLld {f : RForm} (s : State) (o : Op) (l : Nat) (t : State) (p : Perf) (part : partLld f s o l t p) :
    perfLld f s o l = (t, p) ∧ goesWell p := by
  obtain ⟨q, s1, i, source, landing, held, room, sound, whole, run, rfl, rfl⟩ := part
  refine ⟨?_, trivial⟩
  simp only [perfLld, source, landing, held, sound, whole, run, ne_eq, not_true_eq_false, if_false, if_neg (not_lt.mpr room)]

theorem perfAccz_of_partAccz {f : RForm} (s : State) (o : Op) (l : Nat) (t : State) (p : Perf) (part : partAccz f s o l t p) :
    perfAccz f s o l = (t, p) ∧ goesWell p := by
  obtain ⟨some, below, within, rfl, rfl⟩ := part
  refine ⟨?_, trivial⟩
  simp only [perfAccz, some, not_lt.mpr below, not_lt.mpr within, decide_false, Bool.or_false, Bool.false_eq_true, if_false]

/-- A wait for granules is over when the qualifier asks for none or each is full (R168). -/
theorem granules_let {fe : Nat} {full : Nat → Bool} {grs : List Nat} (lets : fe = 0 ∨ ∀ x ∈ grs, full x = true) :
    (decide (fe ≠ 0) && grs.any (fun x => !full x)) = false := by
  obtain ignored | all := lets
  · rw [decide_eq_false (not_not.mpr ignored), Bool.false_and]
  · rw [none_hits fun x hx => (congrArg not (all x hx) : (!full x) = false), Bool.and_false]

theorem perfLdt4_of_partLdt4 {f : RForm} (s : State) (o : Op) (l : Nat) (t : State) (p : Perf) (part : partLdt4 f s o l t p) :
    perfLdt4 f s o l = (t, p) ∧ goesWell p := by
  obtain ⟨bs, full, read, rfl, rfl⟩ := part
  refine ⟨?_, trivial⟩
  simp only [perfLdt4, granules_let full, Bool.false_eq_true, if_false, read]
  rfl

theorem perfAccrd_of_partAccrd {f : RForm} (s : State) (o : Op) (l : Nat) (t : State) (p : Perf) (part : partAccrd f s o l t p) :
    perfAccrd f s o l = (t, p) ∧ goesWell p := by
  obtain ⟨rfl, rfl⟩ := part
  exact ⟨rfl, trivial⟩

theorem perfAccwr_of_partAccwr {f : RForm} (s : State) (o : Op) (l : Nat) (t : State) (p : Perf) (part : partAccwr f s o l t p) :
    perfAccwr f s o l = (t, p) ∧ goesWell p := by
  obtain ⟨rfl, rfl⟩ := part
  exact ⟨rfl, trivial⟩

theorem perfAccout_of_partAccout {f : RForm} (s : State) (o : Op) (l : Nat) (t : State) (p : Perf) (part : partAccout f s o l t p) :
    perfAccout f s o l = (t, p) ∧ goesWell p := by
  obtain ⟨rfl, rfl⟩ := part
  refine ⟨?_, trivial⟩
  simp only [perfAccout, List.foldl_map, List.flatMap_map]
  rfl

theorem perfAccin_of_partAccin {f : RForm} (s : State) (o : Op) (l : Nat) (t : State) (p : Perf) (part : partAccin f s o l t p) :
    perfAccin f s o l = (t, p) ∧ goesWell p := by
  obtain ⟨rfl, rfl⟩ := part
  exact ⟨rfl, trivial⟩

/-! ## The instructions complete -/

/-- A long-latency instruction on the shared issue completes when its operation performs what its part says. -/
theorem completesLong_of_part {i : Instr} {h : Hdr} {op : LongOp} {part : PartSpec} (run : ∀ s, exec i s = .next (issueLong i h op s))
    (performed : ∀ s o l s1 p, part s o l s1 p → op.perf s o l = (s1, p) ∧ goesWell p) : CompletesLong i h op part := by
  intro s t can performs
  rw [run, issueLong_eq performed can performs]

/-- A warp-wide long-latency instruction on the shared issue completes when its operation performs what its part says. -/
theorem completesWideLong_of_part {i : Instr} {h : Hdr} {k : Nat} {wop : WideOp} {op : LongOp} {part : PartSpec}
    (run : ∀ s, exec i s = .next (issueWide i h k wop s)) (executes : wop.exec = execWideLong i h op) (long : wop.long = true)
    (once : op.once = true) (performed : ∀ s o l s1 p, part s o l s1 p → op.perf s o l = (s1, p) ∧ goesWell p) :
    CompletesWideLong i h k wop op part := by
  intro s t can acts performs
  rw [run, execWideLong_eq executes long once performed can acts performs]

/-- Settles O13: each of the instructions runs on the shared issue, and its operation performs what its part says. -/
theorem loftInstructionsComplete : Obligations.LoftInstructionsComplete := by
  unfold Obligations.LoftInstructionsComplete
  intro h f
  refine ⟨?lres, ?lrel, ?lstat, ?lld, ?accz⟩
  case lres => exact completesLong_of_part (fun _ => rfl) perfLres_of_partLres
  case lrel => exact completesLong_of_part (fun _ => rfl) (perfLrel_of_partLrel (f := f))
  case lstat => exact completesLong_of_part (fun _ => rfl) perfLstat_of_partLstat
  case lld => exact completesLong_of_part (fun _ => rfl) perfLld_of_partLld
  case accz => exact completesLong_of_part (fun _ => rfl) perfAccz_of_partAccz

/-- Settles O18: each of the instructions runs on the shared issue of warp-wide ones, and its operation performs what its one part says. What
an element becomes with .add (log entry 73) is inside the part of ACCIN. -/
theorem matrixMovesComplete : Obligations.MatrixMovesComplete := by
  unfold Obligations.MatrixMovesComplete
  intro h f
  refine ⟨?ldt4, ?accrd, ?accwr, ?accout, ?accin⟩
  case ldt4 => exact completesWideLong_of_part (fun _ => rfl) rfl rfl rfl perfLdt4_of_partLdt4
  case accrd => exact completesWideLong_of_part (fun _ => rfl) rfl rfl rfl perfAccrd_of_partAccrd
  case accwr => exact completesWideLong_of_part (fun _ => rfl) rfl rfl rfl perfAccwr_of_partAccwr
  case accout => exact completesWideLong_of_part (fun _ => rfl) rfl rfl rfl perfAccout_of_partAccout
  case accin => exact completesWideLong_of_part (fun _ => rfl) rfl rfl rfl perfAccin_of_partAccin

end Sys2Proof.Laws
end

section
/-! MMA and MMAQ execute (R146, R170, R171, R372): what their record captures, and how they enter the queue of their slice. -/

namespace Sys2Proof.Laws

open Sys2Proof.Machine

/-! ## A slice's queue -/

/-- An instruction put at the end of a slice's queue (R146). -/
def queuedLast (s : State) (q id : Nat) : State :=
  { s with cores := { s.cores with slices := dmapSet [] s.cores.slices q (dmapGet [] s.cores.slices q ++ [id]) } }

@[simp] theorem queuedLast_slices (s : State) (q id : Nat) :
    dmapGet [] (queuedLast s q id).cores.slices q = dmapGet [] s.cores.slices q ++ [id] := dmapGet_set_self ..

@[simp] theorem queuedLast_running (s : State) (q id : Nat) : (queuedLast s q id).cores.running = s.cores.running := rfl

@[simp] theorem startSlice_ops (s : State) (q : Nat) : (s.startSlice q).ops = s.ops := by
  unfold State.startSlice
  split <;> rfl

@[simp] theorem startSlice_warps (s : State) (q : Nat) : (s.startSlice q).warps = s.warps := by
  unfold State.startSlice
  split <;> rfl

/-- A slice that runs an instruction goes on with it. -/
theorem startSlice_of_running {s : State} {q k : Nat} (runs : nmapFind s.cores.running q = some k) : s.startSlice q = s := by
  simp only [State.startSlice, runs]

/-- A free slice starts the oldest instruction of its queue. -/
theorem startSlice_of_free {s : State} {q k : Nat} {rest : List Nat} (free : nmapFind s.cores.running q = none)
    (oldest : dmapGet [] s.cores.slices q = k :: rest) :
    nmapFind (s.startSlice q).cores.running q = some k ∧ dmapGet [] (s.startSlice q).cores.slices q = rest := by
  simp only [State.startSlice, free, oldest, nmapFind_set_self, dmapGet_set_self, and_self]

/-! ## Execution -/

/-- A round that completes a warp-wide long-latency instruction runs its operation once the signers have moved on (R372). -/
theorem issueWide_long {i : Instr} {h : Hdr} {k : Nat} {wop : WideOp} {s : State} (long : wop.long = true) (can : s.CanExecute i h k wop)
    (acts : (s.round i h k).acting ≠ 0) :
    issueWide i h k wop s = wop.exec (s.signersGone i h k) { s.rdWide (s.round i h k) with
      undo := (s.roundOver h k).undoNxt h s.cur.w (lanesOf ((s.round i h k).waiting &&& (s.round i h k).guard)) } := by
  have causeless : (if (s.round i h k).acting = 0 then none else wop.late (s.roundOver h k) (s.rdWide (s.round i h k))) = none := by
    rw [if_neg acts]
    exact can.causeless acts
  rw [issueWide_eq can]
  simp only [runWide, long, if_true, if_neg acts]
  split
  · next raised => rw [if_neg acts] at causeless; cases raised.symm.trans causeless
  · rfl

/-- What a matrix instruction captures at its execution (R166, R170, R171). -/
def mmaCapture (block : Bool) (f : RForm) (s : State) (c : Rd) (r : Resv) : MmaJob :=
  { cid := warpCid c.w, frame := (s.wgCoreOf c.w).acc0 + accNum f.dst, a := readA block f s c, resv := r,
    loftBase := 1024 * (s.wgCoreOf c.w).loftb, step := (s.src c .n32 f.sb).toNat / 2 ^ 16, lanes := c.m,
    snap := s.stepBytes (warpCid c.w) (1024 * (s.wgCoreOf c.w).loftb) f.ty r ((s.src c .n32 f.sb).toNat / 2 ^ 16) }

/-- The record of a matrix instruction that executes: its tile is pending, and its one part is that of its slice. -/
def mmaRecord (block : Bool) (i : Instr) (h : Hdr) (f : RForm) (s : State) (c : Rd) (r : Resv) : Op :=
  let op : LongOp :=
    { slots := slotsR f .b32 .n32 .b32, pipe := .x, resv := fun _ _ => some (srcN s c .n32 f.sb % 16), perf := fun s _ _ => (s, .done []) }
  { newOp i h op s c.w c.pc ((encode i).getD 0) c.mask c.m (s.serial + 1) with
    win := (lanesOf c.m).map (fun l => (l, h.la.toNat)), pend := [.tile (warpCid c.w) ((s.wgCoreOf c.w).acc0 + accNum f.dst)],
    mma := some (mmaCapture block f s c r) }

/-- The operand A that .keepa puts in the warp's latch (R171). -/
def latched (f : RForm) (s : State) (w : Nat) (a : ARows) : State :=
  if f.sub.getLsbD 3 then s.setWarp w { s.warp w with latchA := some a } else s

@[simp] theorem latched_cores (f : RForm) (s : State) (w : Nat) (a : ARows) : (latched f s w a).cores = s.cores := by
  unfold latched
  split <;> rfl

theorem latched_latchA {f : RForm} (keeps : f.sub.getLsbD 3 = true) (s : State) (w : Nat) (a : ARows) :
    ((latched f s w a).warp w).latchA = some a := by
  rw [latched, if_pos keeps, setWarp_warp]

/-- The state in which a matrix instruction is outstanding, before it enters its slice's queue. -/
def mmaRecorded (block : Bool) (i : Instr) (h : Hdr) (f : RForm) (s : State) (c : Rd) (r : Resv) : State :=
  { latched f s c.w (readA block f s c) with serial := s.serial + 1 }.setOp (s.serial + 1) (mmaRecord block i h f s c r)

theorem mmaRecorded_cores (block : Bool) (i : Instr) (h : Hdr) (f : RForm) (s : State) (c : Rd) (r : Resv) :
    (mmaRecorded block i h f s c r).cores = s.cores := latched_cores ..

/-- A matrix instruction that names a held reservation makes its record, fills the latch, and enters its slice's queue. -/
theorem execMmaWide_of_held {block : Bool} {i : Instr} {h : Hdr} {f : RForm} {s : State} {c : Rd} {r : Resv}
    (held : (s.wgCoreOf c.w).held ((s.src c .n32 f.sb).toNat % 16) = some r) :
    execMmaWide block i h f s c =
      (queuedLast (mmaRecorded block i h f s c r) (sliceOf c.w) (s.serial + 1)).startSlice (sliceOf c.w) := by
  simp only [execMmaWide, srcN, held]
  rfl

/-- MMA or MMAQ. -/
def matrixInstr (block : Bool) (h : Hdr) (f : RForm) : Instr := if block then .mmaq h f else .mma h f

theorem exec_matrixInstr (block : Bool) (h : Hdr) (f : RForm) (s : State) :
    exec (matrixInstr block h f) s =
      .next (issueWide (matrixInstr block h f) h (cvOf f) (wideMma block (matrixInstr block h f) h f) s) := by
  cases block <;> rfl

/-- Settles O19: the round runs the operation once the signers have moved on, and the instruction goes to the end of its slice's queue, whose
oldest a free slice starts. That the loft's bytes of the step are captured is the model's representation of the old bytes of R166 (log
entries 4 and 71). -/
theorem matrixMultiplyComplete : Obligations.MatrixMultiplyComplete := by
  unfold Obligations.MatrixMultiplyComplete
  intro block h f s r i t c id q can acts held
  have cores := mmaRecorded_cores block i h f t c r
  have run : exec i s = .next ((queuedLast (mmaRecorded block i h f t c r) q id).startSlice q) := by
    refine (exec_matrixInstr block h f s).trans (next_congr ?_)
    exact (issueWide_long rfl can acts).trans (execMmaWide_of_held held)
  refine ⟨_, mmaRecord block i h f t c r, run, ?found, rfl, rfl, fun keeps => ?latch, fun free empty => ?alone, fun k rest free oldest => ?behind,
    fun k runs => ?busy⟩
  case found =>
    rw [startSlice_ops]
    exact nmapFind_set_self ..
  case latch =>
    rw [State.warp, startSlice_warps]
    exact latched_latchA keeps ..
  case alone =>
    exact (startSlice_of_free (rest := []) (by rw [queuedLast_running, cores, free]) (by rw [queuedLast_slices, cores, empty]; rfl)).1
  case behind =>
    exact startSlice_of_free (by rw [queuedLast_running, cores, free]) (by rw [queuedLast_slices, cores, oldest]; rfl)
  case busy =>
    rw [startSlice_of_running (by rw [queuedLast_running, cores, runs]), queuedLast_slices, queuedLast_running, cores]
    exact ⟨runs, rfl⟩

end Sys2Proof.Laws
end

section
/-! The frame of CPY's acceptance over an L1 that lists a byte twice (R239, R249, R252). -/

namespace Sys2Proof.Laws

open Sys2Proof.Machine

/-- Where an instruction has one part, which goes through, its frame is that of the part. -/
theorem part_kept_of_keepsLong {i : Instr} {h : Hdr} {op : LongOp} {part : PartSpec} {keeps : State → Op → Nat → State → Prop}
    {s s1 : State} {o : Op} {l : Nat} {p : Perf} (kept : KeepsLong i h op part keeps) (can : s.CanIssueLong i h op)
    (alone : lanesOf (if op.once then bit32 ((leadOf (s.activeSet h)).getD 0) else s.activeSet h) = [l])
    (found : nmapFind (s.issued i h op).ops (s.serial + 1) = some o) (todo : o.todo.getLsbD l = true)
    (free : (s.issued i h op).partHeld o l = false) (goes : part (s.issued i h op) o l s1 p) :
    ∃ s2 p2, part (s.issued i h op) o l s2 p2 ∧ keeps (s.issued i h op) o l s2 := by
  obtain ⟨_, _, each, _⟩ := kept s _ can (by rw [alone]; exact ⟨o, s1, p, found, todo, free, goes, rfl⟩)
  rw [alone] at each
  obtain ⟨o', s2, p2, found', goes', keeps', _⟩ := each
  cases found.symm.trans found'
  exact ⟨s2, p2, goes', keeps'⟩

/-- CPY of four bytes from and to the addresses in s6 and s4, complete at system scope, with its status to s2 (R291). -/
def copyForm : RForm :=
  { dst := .s 2, sa := .s 4, sb := .s 6, sc := .imm 4, ty := .b32, rnd := .rne, sat := false, ftz := false, nega := false, negb := false,
    negc := false, absa := false, sub := 0xE0 }

/-- The address of a byte of device memory that the copy does not touch. -/
def cachedByte : Nat := 2 ^ 24

/-- A placed warp of which lane 0 is selected, over an L1 of core 0 that lists one written byte twice, as 1 and as 2. -/
def twiceCached : State :=
  let s := State.reset.placeProgram []
  { s with cur := { s.cur with mask := 1 }, mem := { s.mem with l1 := [(l1Key 0 cachedByte, 1, true), (l1Key 0 cachedByte, 2, true)] } }

/-- The state in which the copy is outstanding. -/
def copyIssued : State := twiceCached.issued (.cpy plainHdr copyForm) plainHdr (opCpy copyForm)

/-- The record of the copy. -/
def copyRecord : Op :=
  newOp (.cpy plainHdr copyForm) plainHdr (opCpy copyForm) twiceCached twiceCached.cur.w twiceCached.cur.pc twiceCached.cur.word
    twiceCached.cur.mask (twiceCached.activeSet plainHdr) (twiceCached.serial + 1)

/-- The job that the copy describes, at its place in acceptance order. -/
def copyJob : Job := { engineJob false copyForm copyIssued copyRecord 0 with order := copyIssued.serial + 1 }

/-- The state in which the job is accepted, after the release at fabric scope. -/
def copyAccepted : State :=
  { (copyIssued.releaseAt 0 .fabric).setJob copyRecord.seq copyJob with serial := copyIssued.serial + 1 }

theorem twiceCached_canIssueLong : twiceCached.CanIssueLong (.cpy plainHdr copyForm) plainHdr (opCpy copyForm) where
  ok := by decide +kernel
  free := by decide +kernel
  ready := by decide +kernel
  alloc := by decide +kernel
  settled := by decide +kernel
  clean := by decide +kernel
  records := by decide +kernel
  still := by decide +kernel
  free0 := by decide +kernel
  sound := by decide +kernel
  acts := by decide +kernel

theorem copy_part : partEngine false copyForm copyIssued copyRecord 0 (copyAccepted.startJob copyRecord.seq) .accept :=
  ⟨fun e => absurd e (by decide), by decide +kernel, by decide +kernel, by decide +kernel, rfl, rfl⟩

theorem copyIssued_homePa (b : Nat) : copyIssued.homePa b = b := rfl

/-- The plan of the copy works. -/
theorem copyJob_plan : ∃ us, (copyAccepted.jobEnv (copyAccepted.takeLines copyJob) false).plan = .ok us :=
  ⟨[(4, [(0, [0, 0, 0, 0])])], by decide +kernel⟩

/-- The release wrote home the second of the two bytes listed, which was neither at the home nor what core 0 read. -/
theorem copy_bringsUpOther : (copyAccepted.startJob copyRecord.seq).coreByte 1 cachedByte false = 2 ∧
    copyIssued.coreByte 1 cachedByte false = 0 ∧ copyIssued.homeByte cachedByte = 0 ∧
    copyIssued.coreByte (warpCid copyRecord.w) cachedByte false = 1 := by
  decide +kernel

/-- The copy's acceptance over that L1 does not have the frame that the statement gives. -/
theorem not_keepsEngine_copy : ¬ keepsEngine false copyForm copyIssued copyRecord 0 (copyAccepted.startJob copyRecord.seq) := by
  intro keeps
  obtain ⟨_, _, _, old⟩ := keeps (by rw [if_neg fun e => absurd e.1 (by decide)]; exact copyJob_plan)
  have unique : ∀ a, copyIssued.homePa a = copyIssued.homePa cachedByte → a = cachedByte := fun a e => e
  have reads := old (by decide) 1 cachedByte false (by decide) unique (.inr (Nat.zero_le _)) (.inr (Nat.zero_le _))
  obtain ⟨now, before, home, core⟩ := copy_bringsUpOther
  rw [now, before, home, core] at reads
  exact absurd reads (by decide)

/-- Refutes O44: the statement speaks of every state, also of one whose L1 lists a byte twice, which no canonical store does. The acceptance of
the copy of `copyForm` on `twiceCached` writes both entries home, the second last, while core 0 read the first; core 1 then reads a value
that no one could read before. -/
theorem not_tileAndEngineWritesKeepTheRest : ¬ Obligations.TileAndEngineWritesKeepTheRest := by
  unfold Obligations.TileAndEngineWritesKeepTheRest
  intro ⟨frames, _⟩
  obtain ⟨_, _, _, _, _, cpy, _⟩ := frames plainHdr copyForm
  obtain ⟨s2, p2, part, keeps⟩ := part_kept_of_keepsLong cpy twiceCached_canIssueLong (l := 0) (by decide +kernel)
    (nmapFind_set_self ..) (by decide +kernel) (by decide +kernel) copy_part
  obtain ⟨_, _, _, _, rfl, _⟩ := part
  exact not_keepsEngine_copy keeps

end Sys2Proof.Laws
end

section
/-! The instructions of the texture, atlas, raster and ray units complete or are accepted (R189 to R228). -/

namespace Sys2Proof.Laws

open Sys2Proof.Machine

/-! ## Atlas -/

/-- Aligned records, room in the queue of its engine and a release that need not wait leave CUTSEL its acceptance (R189, R193). -/
theorem perfCutsel_of_partCutsel {f : RForm} (s : State) (o : Op) (l : Nat) (t : State) (p : Perf) (part : partCutsel f s o l t p) :
    perfCutsel f s o l = (t, p) ∧ goesWell p := by
  obtain ⟨atlas, view, room, free, rfl, rfl⟩ := part
  refine ⟨?_, trivial⟩
  calc perfCutsel f s o l = _ := if_neg (not_not.mpr atlas)
    _ = _ := if_neg (not_not.mpr view)
    _ = _ := if_neg (not_le.mpr room)
    _ = _ := if_neg (Bool.eq_false_iff.mp free)

theorem perfShdec_of_partShdec {f : RForm} (s : State) (o : Op) (l : Nat) (t : State) (p : Perf) (part : partShdec f s o l t p) :
    perfShdec f s o l = (t, p) ∧ goesWell p := by
  obtain ⟨s1, hs, ws, header, decoded, rfl⟩ := part
  refine ⟨?_, trivial⟩
  simp only [perfShdec, header, decoded]

/-! ## Textures -/

/-- Taps that are read are mixed into the destination. -/
theorem finishTaps_of_read {f : RForm} {s t : State} {o : Op} {r : LaneRec} {x : TexRec} {ps : List Tap} {xs : List (Q × List Chan)}
    (read : s.readTaps o r x ps = (t, .ok xs)) : s.finishTaps f o r x ps = (t, .done (dstWords r.hm f.dst r.lane (mixTaps xs))) := by
  simp only [State.finishTaps, read]

/-- An instruction that reads its record and then finishes its taps goes as its part says. -/
theorem performs_of_partTaps {taps : TexRec → LaneRec → List Tap} {f : RForm} {s t : State} {o : Op} {l : Nat} {p : Perf}
    {perf : State → Op → Nat → State × Perf} (part : partTaps taps f s o l t p)
    (finishes : ∀ s1 x, s.readTex o (opRec o l) = (s1, .ok x) → perf s o l = s1.finishTaps f o (opRec o l) x (taps x (opRec o l))) :
    perf s o l = (t, p) ∧ goesWell p := by
  obtain ⟨s1, x, xs, record, read, rfl⟩ := part
  exact ⟨(finishes s1 x record).trans (finishTaps_of_read read), trivial⟩

theorem perfTex_of_partTaps {f : RForm} (s : State) (o : Op) (l : Nat) (t : State) (p : Perf) (part : partTaps texTaps f s o l t p) :
    perfTex f s o l = (t, p) ∧ goesWell p := by
  refine performs_of_partTaps part fun s1 x record => ?_
  simp only [perfTex, record]
  rfl

theorem perfTexg_of_partTaps {f : RForm} (s : State) (o : Op) (l : Nat) (t : State) (p : Perf) (part : partTaps texgTaps f s o l t p) :
    perfTexg f s o l = (t, p) ∧ goesWell p := by
  refine performs_of_partTaps part fun s1 x record => ?_
  simp only [perfTexg, record]
  rfl

theorem perfTexld_of_partTexld {f : RForm} (s : State) (o : Op) (l : Nat) (t : State) (p : Perf) (part : partTexld f s o l t p) :
    perfTexld f s o l = (t, p) ∧ goesWell p := by
  obtain ⟨s1, q, record, ⟨outside, rfl, rfl⟩ | ⟨level, column, row, b, texel, rfl⟩⟩ := part
  · refine ⟨?_, trivial⟩
    simp only [perfTexld, record, Bool.or_eq_true, decide_eq_true_eq, or_assoc, if_pos outside]
  · refine ⟨?_, trivial⟩
    simp only [perfTexld, record, texel, Bool.or_eq_true, decide_eq_true_eq, not_lt.mpr level, not_le.mpr column, not_le.mpr row, or_self,
      if_false]

theorem perfTexq_of_partTexq {f : RForm} (s : State) (o : Op) (l : Nat) (t : State) (p : Perf) (part : partTexq f s o l t p) :
    perfTexq f s o l = (t, p) ∧ goesWell p := by
  obtain ⟨q, record, rfl⟩ := part
  refine ⟨?_, trivial⟩
  simp only [perfTexq, record]

/-! ## Raster -/

theorem perfPrimemit_of_partPrimemit {f : RForm} (s : State) (o : Op) (l : Nat) (t : State) (p : Perf) (part : partPrimemit f s o l t p) :
    perfPrimemit f s o l = (t, p) ∧ goesWell p := by
  obtain ⟨room, rfl, rfl⟩ := part
  refine ⟨?_, trivial⟩
  have accepts : ¬ (!(s.setupAt (cidStack (warpCid o.w))).isEmpty &&
      decide (Config.setupQueueLen ≤ (s.setupAt (cidStack (warpCid o.w))).length)) = true := by
    obtain empty | short := room
    · simp [empty]
    · simp [not_le.mpr short]
  simp only [perfPrimemit, if_neg accepts]

theorem perfIattr_of_partIattr {f : RForm} (s : State) (o : Op) (l : Nat) (t : State) (p : Perf) (part : partIattr f s o l t p) :
    perfIattr f s o l = (t, p) ∧ goesWell p := by
  obtain ⟨rfl, rfl⟩ := part
  exact ⟨rfl, trivial⟩

theorem perfFout_of_partFout {f : RForm} (s : State) (o : Op) (l : Nat) (t : State) (p : Perf) (part : partFout f s o l t p) :
    perfFout f s o l = (t, p) ∧ goesWell p := by
  obtain ⟨rfl, ⟨rfl, uncovered⟩ | ⟨fr, gid, g, geo, q, fragment, covered, graph, found, corners, pass, rfl⟩⟩ := part
  · refine ⟨?_, trivial⟩
    unfold perfFout
    split
    · rfl
    · next fr fragment => simp only [uncovered fr fragment, Bool.not_false, if_true]
  · refine ⟨?_, trivial⟩
    simp only [perfFout, fragment, covered, graph, found, corners, pass, Bool.not_true, Bool.false_eq_true, if_false, Option.bind_some,
      Option.map_some]

/-! ## Rays -/

theorem perfRayq_of_partRayq {f : RForm} (s : State) (o : Op) (l : Nat) (t : State) (p : Perf) (part : partRayq s o l t p) :
    perfRayq f s o l = (t, p) ∧ goesWell p := by
  obtain ⟨fresh, room, rfl, rfl⟩ := part
  refine ⟨?_, trivial⟩
  simp only [perfRayq, fresh, Bool.false_eq_true, if_false, if_neg (not_le.mpr room)]

/-- Settles O16: each of the instructions runs on the shared issue, and its operation performs what its part says. What TEXG does with a
gradient that is no number (log entry 80) and the length of a set-up unit's queue (log entry 7) are inside the parts. -/
theorem unitInstructionsComplete : Obligations.UnitInstructionsComplete := by
  unfold Obligations.UnitInstructionsComplete
  intro h f
  refine ⟨?cutsel, ?shdec, ?tex, ?texg, ?texld, ?texq, ?primemit, ?iattr, ?fout, ?rayq⟩
  case cutsel => exact completesLong_of_part (fun _ => rfl) perfCutsel_of_partCutsel
  case shdec => exact completesLong_of_part (fun _ => rfl) perfShdec_of_partShdec
  case tex => exact completesLong_of_part (fun _ => rfl) perfTex_of_partTaps
  case texg => exact completesLong_of_part (fun _ => rfl) perfTexg_of_partTaps
  case texld => exact completesLong_of_part (fun _ => rfl) perfTexld_of_partTexld
  case texq => exact completesLong_of_part (fun _ => rfl) perfTexq_of_partTexq
  case primemit => exact completesLong_of_part (fun _ => rfl) perfPrimemit_of_partPrimemit
  case iattr => exact completesLong_of_part (fun _ => rfl) perfIattr_of_partIattr
  case fout => exact completesLong_of_part (fun _ => rfl) perfFout_of_partFout
  case rayq => exact completesLong_of_part (fun _ => rfl) (perfRayq_of_partRayq (f := f))

end Sys2Proof.Laws
end

section
/-! Instructions that wait are performed when what they waited for is there (R189, R193, R284 to R286, R289, R329, R352, R359). -/

namespace Sys2Proof.Laws

open Sys2Proof.Machine

/-! ## Each part goes as its operation performs it -/

/-- RACQ and RTAKE take their sequence number once: the one that they have stays (R359). -/
theorem perfRacq_of_partRacq {take : Bool} {f : RForm} (s : State) (o : Op) (l : Nat) (t : State) (p : Perf)
    (part : partRacq take f s o l t p) : perfRacq take f s o l = (t, p) ∧ goesWell p := by
  obtain ⟨g, a, q, ring, number, phase, full, rfl⟩ := part
  refine ⟨?_, trivial⟩
  obtain ⟨marked, rfl⟩ | ⟨fresh, next, rfl⟩ := number
  · simp only [perfRacq, ring, marked, phase, full, decide_true, Bool.and_self, if_true]
    rfl
  · simp only [perfRacq, ring, fresh, ← next, phase, full, decide_true, Bool.and_self, if_true]
    rfl

theorem goesWell_of_rtReturn {s t : State} {f : RForm} {o : Op} {r : Option Nat} {p : Perf} (e : (t, p) = s.rtReturn f o r) :
    goesWell p := by
  rw [show p = (s.rtReturn f o r).2 from congrArg Prod.snd e]
  exact trivial

theorem perfRtnext_of_partRtnext {f : RForm} (s : State) (o : Op) (l : Nat) (t : State) (p : Perf) (part : partRtnext f s o l t p) :
    perfRtnext f s o l = (t, p) ∧ goesWell p := by
  obtain ⟨r, decided, returned⟩ | ⟨undecided, length, lead, v, rfl, owed⟩ := part
  · refine ⟨?_, goesWell_of_rtReturn returned⟩
    simp only [perfRtnext, decided, returned]
  · have noLag : ((s.rtCount o).1.warps.any (fun e => decide (e.2.wg = ((s.rtCount o).1.warp o.w).wg) && decide (e.2.live ≠ 0) &&
        decide (e.2.k + 15 < (s.rtCount o).2))) = false :=
      none_hits fun e he => by simpa [and_assoc] using lead e he
    have order : ¬ ((s.rtCount o).1.wgOf o.w).list.length < (s.rtCount o).2 := by omega
    obtain ⟨j, i, gid, h, index, graph, found, released, slots, returned⟩ | ⟨notOwed, returned⟩ := owed
    · refine ⟨?_, goesWell_of_rtReturn returned⟩
      simp only [perfRtnext, undecided, noLag, order, decide_false, Bool.or_false, Bool.false_eq_true, if_false, index, graph, found,
        Option.bind_some, Option.map_some, released, slots, Bool.not_true, returned]
    · refine ⟨?_, goesWell_of_rtReturn returned⟩
      simp only [perfRtnext, undecided, noLag, order, decide_false, Bool.or_false, Bool.false_eq_true, if_false, notOwed, returned]

theorem perfEngine_of_partEngine {xform : Bool} {f : RForm} (s : State) (o : Op) (l : Nat) (t : State) (p : Perf)
    (part : partEngine xform f s o l t p) : perfEngine xform f s o l = (t, p) ∧ goesWell p := by
  obtain ⟨aligned, within, room, free, rfl, rfl⟩ := part
  refine ⟨?_, trivial⟩
  have records : ¬ (xform && (decide ((opRec o l).a.toNat % 64 ≠ 0) || decide ((opRec o l).b.toNat % 64 ≠ 0))) = true := by
    cases xform with
    | false => simp
    | true => simp [aligned rfl]
  unfold engineJob at within
  simp only [perfEngine, if_neg records, within, if_neg (not_le.mpr room), free, Bool.false_eq_true, if_false]
  rfl

theorem perfGlaunch_of_partGlaunch (s : State) (o : Op) (l : Nat) (t : State) (p : Perf) (part : partGlaunch s o l t p) :
    perfGlaunch s o l = (t, p) ∧ goesWell p := by
  obtain ⟨aligned, place, free, room, rfl, rfl⟩ := part
  refine ⟨?_, trivial⟩
  simp only [perfGlaunch, aligned, place, free, ne_eq, not_true_eq_false, if_false, Bool.false_eq_true, if_neg (not_le.mpr room)]

/-- Lawful arguments leave out the causes of MCJOIN, and a member that joins as its part says is none that its group refuses (R284). -/
theorem perfMcjoin_of_partMcjoin {f : RForm} (s : State) (o : Op) (l : Nat) (t : State) (p : Perf) (part : partMcjoin f s o l t p) :
    perfMcjoin f s o l = (t, p) ∧ goesWell p := by
  obtain ⟨⟨aligned, inside, whole, group, hold, slot, rank⟩, joins⟩ := part
  have fits : ¬ (256 * (s.wgCoreOf o.w).ssize ≤ ((opRec o l).b.truncate 32 : Word).toNat % 2 ^ 20 ∨
      256 * (s.wgCoreOf o.w).ssize < ((opRec o l).b.truncate 32 : Word).toNat % 2 ^ 20 +
        128 * (((opRec o l).b.truncate 32 : Word).toNat / 2 ^ 20)) := not_or.mpr ⟨not_le.mpr inside, not_lt.mpr whole⟩
  have lawful : ¬ (((2 ^ 24 ≤ ((opRec o l).a.truncate 32 : Word).toNat ∨ 2 ^ 16 ≤ ((opRec o l).c.truncate 32 : Word).toNat) ∨
      ((opRec o l).b.truncate 32 : Word).toNat / 2 ^ 20 = 0) ∨
        ((opRec o l).a.truncate 32 : Word).toNat / 2 ^ 8 % 256 + 1 ≤ ((opRec o l).a.truncate 32 : Word).toNat / 2 ^ 16 % 256) :=
    not_or.mpr ⟨not_or.mpr ⟨not_or.mpr ⟨not_le.mpr group, not_le.mpr hold⟩, slot⟩, not_le.mpr (Nat.lt_succ_of_le rank)⟩
  obtain ⟨absent, gen, rfl, rfl, rfl⟩ | ⟨g, found, alive, outsider, room, size, base, length, timer, vacant, rfl, rfl⟩ := joins
  · refine ⟨?_, trivial⟩
    simp only [perfMcjoin, aligned, ne_eq, not_true_eq_false, if_false, Bool.or_eq_true, decide_eq_true_eq, if_neg fits, if_neg lawful,
      absent]
    rfl
  · refine ⟨?_, trivial⟩
    simp only [perfMcjoin, aligned, ne_eq, not_true_eq_false, if_false, Bool.or_eq_true, decide_eq_true_eq, if_neg fits, if_neg lawful,
      found, alive, outsider, room, size, base, length, timer, vacant, Bool.false_eq_true, decide_true, Bool.and_self, Bool.not_true,
      Option.isSome_none]
    rfl

theorem perfLdmc_of_partLdmc {f : MForm} (s : State) (o : Op) (l : Nat) (t : State) (p : Perf) (part : partLdmc f s o l t p) :
    perfLdmc f s o l = (t, p) ∧ goesWell p := by
  obtain ⟨g, m, va, s1, pa, full, rfl, found, isFull, member, slot, line, place, sameOfs, walked, unowned, asked⟩ := part
  refine ⟨?_, trivial⟩
  have inSlot : ¬ (g.slot * 128 ≤ (opRec o l).data % 2 ^ 32 / 256 ∨ (opRec o l).data % 2 ^ 32 / 256 % 128 ≠ 0) :=
    not_or.mpr ⟨not_le.mpr slot, not_not.mpr line⟩
  have unheld : ¬ ((pa < 2 ^ 60 ∧ full = false) ∧ s1.dirtyOwned (warpCid o.w) pa (pa + 128) = true) :=
    fun held => Bool.eq_false_iff.mp (unowned held.1.1 held.1.2) held.2
  simp only [perfLdmc, found, member, place, ← isFull, Bool.and_eq_true, Bool.or_eq_true, decide_eq_true_eq, Bool.not_eq_true', if_neg inSlot]
  refine (if_neg ?noClash).trans ?asks
  case noClash =>
    split
    · next id r e => simp [sameOfs id r e]
    · exact Bool.false_ne_true
  case asks =>
    obtain ⟨a, walk, rfl⟩ | ⟨walk, reach, kind, breach⟩ := walked
    · simp only [walk, if_neg unheld, asked]
    · simp only [walk, reach, kind, breach, if_neg unheld, asked, Bool.true_eq_false, Bool.false_eq_true, or_self, if_false]

/-! ## Looking again -/

/-- An event by which an outstanding instruction looks again performs it when each of its parts goes through. -/
theorem performed_of_retry {e : Instr} {op : LongOp} {part : PartSpec} {id : Nat} {ls : List Nat} {s t : State} {o : Op}
    (found : nmapFind s.ops id = some o) (performed : ∀ s o l s1 p, part s o l s1 p → op.perf s o l = (s1, p) ∧ goesWell p)
    (looks : exec e s = .next (retryLanes op id ls s)) (goes : Performs op.once part id ls s t) : exec e s = .next t :=
  looks.trans (next_congr (retryLanes_performs found performed goes))

/-- Settles O23: each event looks again for the instruction that its record names, whose operation performs what its part says. That a group's
first generation is 0 and that a take is an acquire at card scope (log entries 30 and 39) are inside the parts of MCJOIN and RTNEXT. -/
theorem waitEndEventsComplete : Obligations.WaitEndEventsComplete := by
  unfold Obligations.WaitEndEventsComplete
  intro s t id o h found
  refine ⟨fun f instr => ?racq, fun f instr => ?rtake, fun f instr => ?rtnext, fun f instr => ?cpy, fun f instr => ?xform,
    fun f instr => ?cutsel, fun f instr => ?glaunch, fun f instr => ?mcjoin, fun f l instr => ?ldmc⟩
  case racq => exact performed_of_retry found perfRacq_of_partRacq (next_congr (by simp only [found, instr]))
  case rtake => exact performed_of_retry found perfRacq_of_partRacq (next_congr (by simp only [found, instr]))
  case rtnext => exact performed_of_retry found perfRtnext_of_partRtnext (next_congr (by simp only [found, instr]))
  case cpy => exact performed_of_retry found perfEngine_of_partEngine (next_congr (by simp only [found, instr]))
  case xform => exact performed_of_retry found perfEngine_of_partEngine (next_congr (by simp only [found, instr]))
  case cutsel => exact performed_of_retry found perfCutsel_of_partCutsel (next_congr (by simp only [found, instr]))
  case glaunch => exact performed_of_retry found perfGlaunch_of_partGlaunch (next_congr (by simp only [found, instr]))
  case mcjoin => exact performed_of_retry found perfMcjoin_of_partMcjoin (next_congr (by simp only [found, instr]))
  case ldmc => exact performed_of_retry found perfLdmc_of_partLdmc (next_congr (by simp only [found, instr]))

end Sys2Proof.Laws
end

section
/-! The machine's units go on (R190 to R194, R228, R230, R250, R285 to R287, R290, R296, R303). -/

namespace Sys2Proof.Laws

open Sys2Proof.Machine

/-! ## Engines -/

theorem exec_engineLineWrite {s : State} {id : Nat} {j : Job} {u : Update} {rest : List Update} (found : nmapFind s.jobs id = some j)
    (out : j.out = u :: rest) (active : s.jobActive j = true) (free : s.updateBlocked j u = false) :
    exec (.engineLineWrite id) s = .next ((s.writeUpdate j.ctx u rest).setJob id { j with out := rest, done := j.done + u.1 }) := by
  refine next_congr ?_
  simp only [found, out, active, free, Bool.not_true, Bool.or_self, Bool.false_eq_true, if_false]

theorem exec_engineJobCompletion {s : State} {id : Nat} {j : Job} (found : nmapFind s.jobs id = some j) (started : j.started = true)
    (written : j.out = []) :
    exec (.engineJobCompletion id) s = .next
      ((({ s with jobs := nmapErase s.jobs id }.endAccepted id (fun o => statusWrites o j.status)).acquireAt j.cid j.scope).settle) := by
  refine next_congr ?_
  simp only [found, started, written, List.isEmpty_nil, Bool.not_true, Bool.or_self, Bool.false_eq_true, if_false]

/-! ## Cut selection -/

/-- A job whose records are lawful and whose range lies in the atlas ends with its outputs (R190 to R193). -/
theorem runCut_of_outputs {s t : State} {id ax bx lo hi : Nat} {j : CutJob} {x : Word} (found : nmapFind s.cuts id = some j)
    (sound : j.fault = none) (free : s.cutBlocked j = false) (served : s.blockServes (.cutEngine j.stack) j.ctx = true)
    (running : (s.ctx j.ctx).phase = .running) (words : j.words = some (ax, bx)) (atlas : atlasOk ax = true) (view : viewOk bx = true)
    (range : j.range.getD (0, (atlasOf ax).nsheets) = (lo, hi)) (ordered : lo ≤ hi) (inside : hi ≤ (atlasOf ax).nsheets)
    (outputs : s.cutOutputs j (atlasOf ax) (viewOf bx) lo (hi - lo) = .ok (t, x)) : s.runCut id = t.endCut id j x := by
  have goes : ¬ (((j.fault.isSome = true ∨ s.cutBlocked j = true) ∨ s.blockServes (.cutEngine j.stack) j.ctx = false) ∨
      (s.ctx j.ctx).phase ≠ .running) := by simp [sound, free, served, running]
  simp only [State.runCut, found, Bool.or_eq_true, decide_eq_true_eq, Bool.not_eq_true', if_neg goes, words, atlas, view, Bool.true_eq_false,
    if_false, range, if_neg (not_or.mpr ⟨not_lt.mpr ordered, not_lt.mpr inside⟩), outputs]

/-! ## Rays -/

/-- A query that the engine has accepted is answered when its lane's part is tried again (R228). -/
theorem perfRayq_of_answer {f : RForm} {s t : State} {o : Op} {l : Nat} {x : Option Hit} (accepted : (rayAccepted o).getLsbD l = true)
    (answer : s.rayQuery o (opRec o l) (f.sub.getLsbD 0) = (t, .ok x)) :
    perfRayq f s o l = (t, .done (dstWords (opRec o l).hm f.dst l (hitWords x))) := by
  simp only [perfRayq, accepted, if_true, answer]

theorem exec_rayQueryCompletion {s t : State} {id l : Nat} {o : Op} {h : Hdr} {f : RForm} {x : Option Hit}
    (found : nmapFind s.ops id = some o) (instr : o.instr = .rayq h f) (accepted : (rayAccepted o).getLsbD l = true)
    (todo : o.todo.getLsbD l = true) (free : s.partHeld o l = false)
    (answer : s.rayQuery o (opRec o l) (f.sub.getLsbD 0) = (t, .ok x)) :
    exec (.rayQueryCompletion id l) s = .next
      ((t.modOp id (partDone false o l (.done (dstWords (opRec o l).hm f.dst l (hitWords x))))).endQuery id l) := by
  have lane := performLane_eq (op := opRayq f) found todo free (perfRayq_of_answer accepted answer) trivial
  have due : (rayAccepted o &&& o.todo).getLsbD l = true := by rw [BitVec.getLsbD_and, accepted, todo, Bool.and_self]
  refine next_congr ?_
  simp only [found, instr, due, if_true]
  refine congrArg (State.endQuery · id l) ?_
  simp only [retryLanes, found, performLanes, lane, List.append_nil]
  rfl

/-! ## Multicast fills -/

theorem exec_holdTimerExpiry {s : State} {id : Nat} {r : HoldRec} (found : nmapFind s.holds id = some r) (runs : r.timer.isSome = true) :
    exec (.holdTimerExpiry id) s = .next (s.examine true id) := by
  refine next_congr ?_
  simp only [found, runs, if_true]

theorem exec_multicastHeldPartLand {s : State} {id : Nat} {r : HoldRec} (found : nmapFind s.holds id = some r) :
    let now := r.held.filter (s.partReady r)
    let s1 := now.foldl (fun (t : State) p => t.landPart r p) s
    exec (.multicastHeldPartLand id) s = .next
      (({ s1 with holds := nmapModify s1.holds id (fun (q : HoldRec) => { q with held := q.held.filter (fun p => !now.contains p) }) }.examine
        false id).openRecord id) := by
  refine next_congr (congrArg (fun t : State => (t.examine false id).openRecord id) ?_)
  simp only [State.landReady, found]

/-! ## Neighbour links and the reorder unit -/

theorem exec_neighbourEntryArrival {s : State} {cid dir : Nat} {e : LinkEntry} {rest : List LinkEntry}
    (first : s.flightQ (cid * 4 + dir) = e :: rest) :
    exec (.neighbourEntryArrival cid dir) s = .next
      ({ s with cores := { s.cores with flight := dmapSet [] s.cores.flight (cid * 4 + dir) rest,
                                        links := dmapSet [] s.cores.links (cid * 4 + dir) (s.linkQ (cid * 4 + dir) ++ [e]) } }.wakeCore cid) := by
  refine next_congr ?_
  simp only [first]

theorem exec_reorderDrain {s : State} {cid : Nat} (full : 4096 ≤ (s.entriesAt cid).length)
    (waits : (s.entriesAt cid).any (fun e => e.drain = 0) = true) : exec (.reorderDrain cid) s = .next (s.drain cid) := by
  refine next_congr (if_pos ?_)
  simp only [full, waits, decide_true, Bool.and_self, Bool.true_or]

theorem exec_reorderTimerExpiry {s : State} {cid n : Nat} (waits : (s.entriesAt cid).any (fun e => e.drain = 0) = true)
    (since : nmapFind s.cores.reTimer cid = some n) (passed : n + 4096 ≤ s.cyclesOf cid) :
    exec (.reorderTimerExpiry cid) s = .next (s.drain cid) := by
  refine next_congr (if_pos ?_)
  simp only [waits, since, passed, decide_true, Bool.and_self]

/-! ## Collective reductions -/

/-- Whether a member's box, type and operation are those of the member of the lowest rank (R296). -/
def redAlike (f m : RedMember) : Bool := boxIs m.a f.a.box && m.a.ty = f.a.ty && m.j.param 0 / 2 ^ 8 % 4 = f.j.param 0 / 2 ^ 8 % 4

/-- The members of a reduction that take part in it. -/
def redParts (s : State) (ctx gid : Nat) (g : McGroup) (f : RedMember) : List RedMember :=
  (s.redMembers ctx gid g.gen).filter (fun m => redAlike f m)

/-- Those of them that have not departed: their sources are combined. -/
def redSources (s : State) (ctx gid : Nat) (g : McGroup) (f : RedMember) : List RedMember :=
  (redParts s ctx gid g f).filter (fun m => g.live.any (fun x => x.rank = m.rank))

/-- The combined elements (R296). -/
def redCombined (s : State) (ctx gid : Nat) (g : McGroup) (f : RedMember) : List (List Nat × Nat) :=
  redResult s g.n (f.j.param 0 / 2 ^ 8 % 4) f.a.ty f.a.box (redSources s ctx gid g f)

/-- The members that differ have ended with ERR 4, and the others have their updates ready. -/
def redUpdated (s : State) (ctx gid : Nat) (g : McGroup) (f : RedMember) : State :=
  (redParts s ctx gid g f).foldl (fun (t : State) m =>
      let us := match m.updates s (redCombined s ctx gid g f) with | .ok us => us | .error _ => []
      t.setJob m.id { m.j with out := us, owns := [], redo := us, started := true, fault := none })
    (((s.redMembers ctx gid g.gen).filter (fun m => !redAlike f m)).foldl (fun (t : State) m => t.stopJob m.id m.j (.err 4 0 0)) s)

/-- A group none of whose members has spent its part in a reduction: they may reduce again. -/
def unspent (s : State) (ctx gid : Nat) : State :=
  { s with groups := nmapModify s.groups (groupKey ctx gid) (fun (q : McGroup) => { q with spent := [] }) }

section
variable {s : State} {ctx gid : Nat} {g : McGroup} {f : RedMember} (found : nmapFind s.groups (groupKey ctx gid) = some g)
  (ready : s.redReady ctx gid = true) (first : redFirst (s.redMembers ctx gid g.gen) = some f)
include found ready first

theorem exec_collectiveReduction_of_unread {m : RedMember} {e : JStop}
    (stops : redStop (fun m => m.source s) (redSources s ctx gid g f) = some (m, e)) :
    exec (.collectiveReduction ctx gid) s = .next (s.stopJob m.id m.j e) := by
  refine next_congr ?_
  simp only [redSources, redParts, redAlike] at stops
  simp only [found, ready, first, Bool.not_true, Bool.false_eq_true, if_false, stops]

theorem exec_collectiveReduction_of_unwritten {m : RedMember} {e : JStop}
    (reads : redStop (fun m => m.source s) (redSources s ctx gid g f) = none)
    (stops : redStop (fun m => m.updates s (redCombined s ctx gid g f)) (redParts s ctx gid g f) = some (m, e)) :
    exec (.collectiveReduction ctx gid) s = .next (s.stopJob m.id m.j e) := by
  refine next_congr ?_
  simp only [redCombined, redSources, redParts, redAlike] at reads stops
  simp only [found, ready, first, Bool.not_true, Bool.false_eq_true, if_false, reads, stops]

theorem exec_collectiveReduction_starts (reads : redStop (fun m => m.source s) (redSources s ctx gid g f) = none)
    (writes : redStop (fun m => m.updates s (redCombined s ctx gid g f)) (redParts s ctx gid g f) = none) :
    exec (.collectiveReduction ctx gid) s = .next (unspent (redUpdated s ctx gid g f) ctx gid) := by
  refine next_congr ?_
  simp only [redCombined, redSources, redParts, redAlike] at reads writes
  simp only [found, ready, first, Bool.not_true, Bool.false_eq_true, if_false, reads, writes]
  change unspent _ ctx gid = _
  exact congrArg (unspent · ctx gid) rfl

end

/-- Settles O25: each event takes the branch that its premises name. That a member whose type or operation differs ends with ERR 4, and that one
whose box cannot be read or written stops alone (log entry 33), is what the reduction does where its members differ or stop. -/
theorem unitEventsComplete : Obligations.UnitEventsComplete := by
  unfold Obligations.UnitEventsComplete
  refine ⟨fun s => ⟨?line, ?job, ?cut, ?ray, ?timer, ?land, ?neighbour, ?drain, ?expiry⟩, ?reduction⟩
  case line => exact fun id j u rest => exec_engineLineWrite
  case job => exact fun id j => exec_engineJobCompletion
  case cut =>
    intro id j ax bx t x found sound free served running words atlas view ordered inside outputs
    exact next_congr (congrArg State.settle
      (runCut_of_outputs found sound free served running words atlas view rfl ordered inside outputs))
  case ray => exact fun id o h f l t x => exec_rayQueryCompletion
  case timer => exact fun id r => exec_holdTimerExpiry
  case land => exact fun id r => exec_multicastHeldPartLand
  case neighbour => exact fun cid dir e rest => exec_neighbourEntryArrival
  case drain => exact fun cid => exec_reorderDrain
  case expiry => exact fun cid n => exec_reorderTimerExpiry
  case reduction =>
    intro s ctx gid g f found ready first
    refine ⟨fun m e => exec_collectiveReduction_of_unread found ready first,
      fun reads => ⟨fun m e => exec_collectiveReduction_of_unwritten found ready first reads, fun writes => ?_⟩⟩
    refine (exec_collectiveReduction_starts found ready first reads writes).trans (next_congr ?_)
    change _ = unspent _ ctx gid
    exact congrArg (unspent · ctx gid) rfl

end Sys2Proof.Laws
end

section
/-! Rings, graph launch, tiles and the reorder unit: the instructions complete (R229, R325, R329, R351, R359). -/

namespace Sys2Proof.Laws

open Sys2Proof.Machine

/-- The part's bounds on the slot, its full bit and its phase leave out the RING traps (R359). -/
theorem perfRfill_of_partRfill {free : Bool} (s : State) (o : Op) (l : Nat) (t : State) (p : Perf) (part : partRfill free s o l t p) :
    perfRfill free s o l = (t, p) ∧ goesWell p := by
  obtain ⟨g, a, ring, within, full, phase, rfl, rfl⟩ := part
  refine ⟨?_, trivial⟩
  simp only [perfRfill, ring, not_le.mpr within, full, phase, ne_eq, not_true_eq_false, decide_false, Bool.or_self, Bool.false_eq_true, if_false]

/-- A tile that has retired leaves TDONE nothing to do; for another the workgroup's release does not wait (R259, R325). -/
theorem perfTdone_of_partTdone {f : RForm} (s : State) (o : Op) (l : Nat) (t : State) (p : Perf) (part : partTdone f s o l t p) :
    perfTdone f s o l = (t, p) ∧ goesWell p := by
  obtain ⟨k, h, graph, found, rfl, free, rfl⟩ := part
  refine ⟨?_, trivial⟩
  simp only [perfTdone, graph, found]
  generalize (if f.sub.getLsbD 0 then (opRec o l).aux - 1 else ((opRec o l).a.truncate 32 : Word).toNat) = tile at free ⊢
  by_cases retired : (nmapFind h.retired (tileKey (s.wgOf o.w).pass tile)).isSome
  · simp only [retired, if_true]
  · simp only [free (Bool.eq_false_iff.mpr retired), if_neg retired, Bool.false_eq_true, if_false]

theorem perfReord_of_partReord {f : RForm} (s : State) (o : Op) (l : Nat) (t : State) (p : Perf) (part : partReord f s o l t p) :
    perfReord f s o l = (t, p) ∧ goesWell p := by
  obtain ⟨room, rfl, rfl⟩ := part
  exact ⟨if_neg (not_le.mpr room), trivial⟩

/-- Settles O15: each of the instructions runs on the shared issue, REORD with the transfer of an exit, and its operation performs what its part
says. That the release of a TDONE and the acquire of a take have card scope (log entry 39) is inside their parts. -/
theorem graphInstructionsComplete : Obligations.GraphInstructionsComplete := by
  unfold Obligations.GraphInstructionsComplete
  intro h f
  refine ⟨?racq, ?rtake, ?rfill, ?rfree, ?glaunch, ?tdone, ?rtnext, ?reord⟩
  case racq => exact completesLong_of_part (fun _ => rfl) perfRacq_of_partRacq
  case rtake => exact completesLong_of_part (fun _ => rfl) perfRacq_of_partRacq
  case rfill => exact completesLong_of_part (fun _ => rfl) perfRfill_of_partRfill
  case rfree => exact completesLong_of_part (fun _ => rfl) perfRfill_of_partRfill
  case glaunch => exact completesLong_of_part (fun _ => rfl) perfGlaunch_of_partGlaunch
  case tdone => exact completesLong_of_part (fun _ => rfl) perfTdone_of_partTdone
  case rtnext => exact completesLong_of_part (fun _ => rfl) perfRtnext_of_partRtnext
  case reord => exact completesLong_of_part (fun _ => rfl) perfReord_of_partReord

end Sys2Proof.Laws
end

section
/-! Admission, the triangle set-up, the rasterisers' tile lists and tiles, and the display planes go on (R200, R203, R204, R313 to R316, R330,
R447, R449, R450). -/

namespace Sys2Proof.Laws

open Sys2Proof.Machine

/-! ## Admission -/

section
variable {s : State} {id : Nat} {a : AdmReq} (found : nmapFind s.adms id = some a) (sound : a.fault = none)
  (running : (s.ctx a.ctx).phase = .running)
include found sound running

/-- A graph that was examined before and waits for space looks again at its turn (R316). -/
theorem exec_graphAdmission_of_waiting {g : Graph} (waits : a.graph = some g) (turn : s.admTurn id a = true) :
    exec (.graphAdmission id) s = .next (s.admitOrWait id a g) := by
  refine next_congr ?_
  simp only [found, sound, running, waits, turn, Option.isSome_none, ne_eq, not_true_eq_false, decide_false, Bool.or_self, Bool.false_eq_true,
    if_false, if_true]

/-- A request whose graph the examination accepts takes its space or waits for it (R313 to R316). -/
theorem exec_graphAdmission_of_examined {t : State} {g : Graph} (fresh : a.graph = none)
    (lawful : s.examineGraph a.ctx a.addr a.queue = (t, .graph g)) : exec (.graphAdmission id) s = .next (t.admitOrWait id a g) := by
  refine next_congr ?_
  simp only [found, sound, running, fresh, lawful, Option.isSome_none, ne_eq, not_true_eq_false, decide_false, Bool.or_self,
    Bool.false_eq_true, if_false]

end

/-! ## Triangle set-up -/

theorem exec_triangleSetup_of_target {s : State} {stack : Nat} {t : Tri} {rest : List Tri} {gid wt ht : Nat} {g : TriGeo}
    (first : firstRunning s (fun (x : Tri) => x.ctx) (s.setupAt stack) = some (t, rest)) (target : s.triTarget t = some (gid, wt, ht))
    (corners : s.geoOf t = some g) :
    exec (.triangleSetup stack) s = .next
      ((triTiles g wt ht).foldl (fun (u : State) k => u.sendEntry (tileOwner wt k) { graph := gid, pass := t.pass, tile := k, tri := t })
        (s.setSetup stack rest)) := by
  refine next_congr ?_
  simp only [first, target, corners]

/-! ## Rasterisers -/

/-- An entry of a tile that is not yet written back enters its rasteriser's ring where it fits, and starts a partial flush where it does not
(R203, R204). -/
theorem exec_tileListEntry_of_unwritten {s : State} {q : Nat} {e : TileEntry} {rest : List TileEntry} {g : Graph} {p : PassRec}
    (first : firstRunning s (fun (x : TileEntry) => x.tri.ctx) (dmapGet [] s.entries q) = some (e, rest))
    (served : s.blockServes (.rasteriser q) e.tri.ctx = true) (graph : nmapFind s.graphs e.graph = some g) (pass : g.passAt e.pass = some p)
    (unwritten : (g.rasterTile e.pass e.tile).written = false) :
    let used := dmapGet 0 g.listBytes (listKey e.pass q)
    let s1 := { s with entries := dmapSet [] s.entries q rest }
    exec (.tileListEntry q) s = .next
      (if used + entryBytes e.tri ≤ g.ringBytes p then
        { s1.setGraph e.graph { g with listBytes := dmapSet 0 g.listBytes (listKey e.pass q) (used + entryBytes e.tri) } with
          lists := dmapSet [] s1.lists q (s1.binsAt q ++ [e]) }
      else s.partialFlush e.graph e.pass q) := by
  refine next_congr ?_
  simp only [first, served, graph, pass, unwritten, Bool.not_true, Bool.false_eq_true, if_false]

section
variable {s : State} {gid pi k : Nat} {g : Graph} {p : PassRec} {t : State} (graph : nmapFind s.graphs gid = some g)
  (pass : g.passAt pi = some p) (running : (s.ctx g.ctx).phase = .running) (served : s.tileServed g p k = true)
  (unwritten : (g.rasterTile pi k).written = false)
include graph pass running served unwritten

/-- A tile of a pass whose geometry is complete is processed (R204, R208, R450). -/
theorem exec_rasterTileProcess_of_unprocessed (unprocessed : (g.rasterTile pi k).processed = false)
    (covered : (g.rasterTiles p).contains k = true) (geometry : s.geometryDone gid pi = true) (bin : s.processBin gid pi k = (t, true)) :
    exec (.rasterTileProcess gid pi k) s = .next
      (({ t with graphs := nmapModify t.graphs gid (fun (h : Graph) =>
          h.setRasterTile pi k { h.rasterTile pi k with processed := true }) }).yardmaster) := by
  refine next_congr ?_
  simp only [graph, pass, running, served, unwritten, unprocessed, covered, geometry, bin, ne_eq, not_true_eq_false, decide_false,
    Bool.not_true, Bool.false_and, Bool.or_self, Bool.false_eq_true, if_false]

/-- A processed tile with no fragment, entry or fragment warp left is written back and retires (R320, R450). -/
theorem exec_colourTileWriteback_of_processed (processed : (g.rasterTile pi k).processed = true) (nonePend : (g.rasterTile pi k).pend = [])
    (noEntry : s.lists.any (fun e => e.2.any (entryIn gid pi k)) = false) (geometry : s.geometryDone gid pi = true)
    (noWarp : s.warps.any (fun w => match w.2.frag with
      | some f => f.tri.graph = some gid && f.tri.pass = pi && f.tile = k
      | none => false) = false)
    (unstalled : (nmapFind g.stall (tileKey pi k)).isSome = false)
    (stored : s.storeTile g p k (g.rasterTile pi k).pixels = (t, none)) :
    exec (.colourTileWriteback gid pi k) s = .next
      (((t.setGraph gid ((g.setRasterTile pi k { g.rasterTile pi k with pixels := [], written := true }).retireRaster pi k)).finishGraph
        gid).yardmaster) := by
  refine next_congr ?_
  simp only [graph, pass, running, served, unwritten, processed, nonePend, noEntry, geometry, unstalled, stored, ne_eq, not_true_eq_false,
    decide_false, List.isEmpty_nil, Bool.not_true, Bool.or_false, Bool.false_or]
  exact if_neg (Bool.eq_false_iff.mp noWarp)

end

/-! ## Display -/

/-- The resource that a plane shows from its deadline on: that of the graph completed most recently, or the one shown before (R330). -/
def shownFrom (x : Plane) : Option (Nat × ResRec) := match x.done.getLast? with | some d => some d | none => x.shown

/-- The resource of PBASE, which an enabled plane reads before any graph has completed (R447). -/
def firstFrom (s : State) (n : Nat) (x : Plane) : State × Option (Nat × ResRec) :=
  if x.pctl.getLsbD 0 = true ∧ shownFrom x = none then s.baseResource n x else (s, none)

/-- A plane after its deadline (R330, R449). -/
def planeFrom (s : State) (n : Nat) (x : Plane) : Plane :=
  { x with ctlNow := x.pctl, posNow := x.ppos, pvbl := if x.pctl.getLsbD 0 then x.pvbl + 1 else x.pvbl, shown := shownFrom x, done := [],
           first := (firstFrom s n x).2,
           mode := (Config.outputMode (x.pctl.extractLsb' 1 2).toNat s.free).filter (fun m => decide (m.1 ≤ 7680 ∧ m.2 ≤ 4320)) }

theorem exec_displayDeadline_of_stage {s : State} {n : Nat} (stage : s.card.stage = 5) (plane : n < 16) :
    let x := (nmapFind s.planes n).getD Plane.reset
    exec (.displayDeadline n) s = .next
      ({ (firstFrom s n x).1 with free := (firstFrom s n x).1.free + 1 }.scanPlane n (planeFrom s n x)) := by
  intro x
  have reads : (if x.pctl.getLsbD 0 && (shownFrom x).isNone then s.baseResource n x else (s, none)) = firstFrom s n x :=
    if_congr (by simp) rfl rfl
  refine next_congr ((if_neg (by simp [stage, plane])).trans ?_)
  rw [planeFrom, ← reads]
  rfl

/-- Settles O26: each event takes the branch that its premises name. In which context PBASE is read and what the output's picture is (log entry
50) are inside `Config.planeContext` and `Config.outputMode`. -/
theorem graphicsEventsComplete : Obligations.GraphicsEventsComplete := by
  unfold Obligations.GraphicsEventsComplete
  intro s
  refine ⟨?waiting, ?examined, ?setup, ?entry, ?process, ?writeback, ?display⟩
  case waiting => exact fun id a g found sound running => exec_graphAdmission_of_waiting found sound running
  case examined => exact fun id a t g found sound running => exec_graphAdmission_of_examined found sound running
  case setup => exact fun stack t rest gid wt ht g => exec_triangleSetup_of_target
  case entry => exact fun q e rest g p => exec_tileListEntry_of_unwritten
  case process => exact fun gid pi k g p t => exec_rasterTileProcess_of_unprocessed
  case writeback => exact fun gid pi k g p t => exec_colourTileWriteback_of_processed
  case display => exact fun n stage plane => exec_displayDeadline_of_stage stage plane

end Sys2Proof.Laws
end

section
/-! Loads, stores, prefetch, cache control and fences complete (R239, R244, R265 to R270, R275). -/

namespace Sys2Proof.Laws

open Sys2Proof.Machine

theorem perfPrfm_of_partPrfm {f : MForm} (s : State) (o : Op) (l : Nat) (t : State) (p : Perf) (part : partPrfm f s o l t p) :
    perfPrfm f s o l = (t, p) ∧ goesWell p := by
  obtain ⟨rfl, goes⟩ := part
  refine ⟨?_, trivial⟩
  obtain ⟨rfl, idle⟩ | ⟨away, pa, place, rfl⟩ | ⟨away, va, s1, pa, place, translated, rfl⟩ := goes
  · by_cases priv : f.space = .priv ∨ (f.space = .generic ∧ genericPriv (opRec o l).addr.toNat = true)
    · simp [perfPrfm, priv]
    · cases place : t.place o.w (opRec o l) f.space (opRec o l).addr.toNat false with
      | here tgt => exact absurd place (idle.resolve_left priv tgt)
      | prot => simp [perfPrfm, priv, place]
      | spad ofs => simp [perfPrfm, priv, place]
  · simp [perfPrfm, away, place]
  · simp [perfPrfm, away, place, translated]

theorem perfCctl_of_partCctl {f : RForm} (s : State) (o : Op) (l : Nat) (t : State) (p : Perf) (part : partCctl f s o l t p) :
    perfCctl f s o l = (t, p) ∧ goesWell p := by
  obtain ⟨rfl, ⟨whole, free, rfl⟩ | ⟨range, va, rs, place, rfl, free, rfl⟩⟩ := part
  · refine ⟨?_, trivial⟩
    simp only [perfCctl, whole, free, if_true, Bool.false_eq_true, if_false]
  · refine ⟨?_, trivial⟩
    simp only [perfCctl, range, place, free, Bool.false_eq_true, if_false]

theorem perfFence_of_partFence {f : RForm} (s : State) (o : Op) (l : Nat) (t : State) (p : Perf) (part : partFence f s o l t p) :
    perfFence f s o l = (t, p) ∧ goesWell p := by
  obtain ⟨rfl, released, rfl⟩ := part
  have goes : (f.sub.getLsbD 1 && s.releaseHeld (warpCid o.w) (Machine.scopeOfCode (subBits f 4 2))) = false := by
    rw [Bool.and_eq_false_imp]
    exact released
  refine ⟨?_, trivial⟩
  simp only [perfFence, goes, Bool.false_eq_true, if_false]

/-- Settles O10: each of the instructions runs on the shared issue, and its operation performs what its part says. That an acquire wider than the
core first writes home what the core has written of the bytes it reads (log entry 14), and that CCTL and FENCE wait for lines that a job owns
(log entries 25 and 93), are the model's readings, inside the parts. -/
theorem memoryInstructionsComplete : Obligations.MemoryInstructionsComplete := by
  unfold Obligations.MemoryInstructionsComplete
  refine ⟨fun h f => ⟨?ld, ?st, ?prfm⟩, fun h f => ⟨?cctl, ?fence⟩⟩
  case ld => exact completesLong_of_part (fun _ => rfl) perfLd_of_partLd
  case st => exact completesLong_of_part (fun _ => rfl) perfSt_of_partSt
  case prfm => exact completesLong_of_part (fun _ => rfl) perfPrfm_of_partPrfm
  case cctl => exact completesLong_of_part (fun _ => rfl) perfCctl_of_partCctl
  case fence => exact completesLong_of_part (fun _ => rfl) perfFence_of_partFence

end Sys2Proof.Laws
end

section
/-! Memory stays in canonical form under every access of a core, every write of the host and of the engines, write-back and eviction (R231, R239,
R242; log entry 3). -/

namespace Sys2Proof.Laws

open Sys2Proof.Machine

/-! ## What translations, stores to views and memory events leave as they were -/

/-- A translation caches entries and changes nothing else (R397). -/
theorem translateAt_tlb (s : State) (unit c va : Nat) (acc : AccKind) :
    ∃ ts, (s.translateAt unit c va acc).1 = { s with mem := { s.mem with tlb := ts } } := by
  have core (u : State) (e : TlbEntry) : ∃ ts, u.tlbCore unit e = { u with mem := { u.mem with tlb := ts } } := by
    unfold State.tlbCore
    split
    · exact ⟨u.mem.tlb, rfl⟩
    · exact ⟨_, rfl⟩
  unfold State.translateAt
  dsimp only
  split
  · exact ⟨s.mem.tlb, rfl⟩
  split
  · exact core s _
  split
  · exact core (s.tlbStack _ c va _) _
  all_goals exact ⟨s.mem.tlb, rfl⟩

/-- A state that differs from another in registers, loft, accumulators and poison marks only. -/
def OnlyViews (s t : State) : Prop :=
  t = { s with regs := t.regs, cores := { s.cores with loft := t.cores.loft, acc := t.cores.acc }
               mem := { s.mem with poison := t.mem.poison } }

theorem OnlyViews.refl (s : State) : OnlyViews s s := rfl

theorem OnlyViews.trans {a b c : State} (ab : OnlyViews a b) (bc : OnlyViews b c) : OnlyViews a c := by
  unfold OnlyViews at *
  rw [bc, ab]

theorem onlyViews_loftWrite (s : State) (cid o : Nat) (bs : List Byte) : OnlyViews s (s.loftWrite cid o bs) := rfl

theorem onlyViews_setViewWord (s : State) (cid o : Nat) (d : Word) : OnlyViews s (s.setViewWord cid o d) := by
  unfold State.setViewWord
  dsimp only
  split
  · split <;> rfl
  split
  · split <;> rfl
  rfl

theorem onlyViews_viewWrite (s : State) (cid o : Nat) (bs : List Byte) : OnlyViews s (s.viewWrite cid o bs) := by
  induction bs generalizing s o with
  | nil =>
    unfold State.viewWrite
    dsimp only
    split
    · split
      · exact onlyViews_loftWrite ..
      split
      · exact onlyViews_loftWrite ..
      exact .refl s
    · exact .refl s
  | cons b rest ih =>
    unfold State.viewWrite
    dsimp only
    split
    · split
      · exact onlyViews_loftWrite ..
      split
      · exact onlyViews_loftWrite ..
      exact .refl s
    · exact (onlyViews_setViewWord ..).trans (ih ..)

/-! ## The canonical form -/

theorem inv_of_translateAt {s : State} (inv : s.Inv) (unit c va : Nat) (acc : AccKind) : (s.translateAt unit c va acc).1.Inv := by
  obtain ⟨ts, e⟩ := translateAt_tlb s unit c va acc
  rw [e]
  exact inv

theorem inv_of_viewWrite {s : State} (inv : s.Inv) (cid o : Nat) (bs : List Byte) : (s.viewWrite cid o bs).Inv := by
  rw [onlyViews_viewWrite s cid o bs]
  exact inv

theorem inv_of_coreRead {s : State} (inv : s.Inv) (cid pa n : Nat) (nol1 : Bool) : (s.coreRead cid pa n nol1).1.Inv := by
  unfold State.coreRead
  dsimp only
  split
  · split <;> exact inv
  · exact inv

theorem inv_of_coreWrite {s : State} (inv : s.Inv) (cid pa : Nat) (bs : List Byte) (nol1 : Bool) : (s.coreWrite cid pa bs nol1).Inv := by
  unfold State.coreWrite
  split
  · exact writeHome_wf s pa bs inv
  · exact inv

theorem inv_of_writeBackRange {s : State} (inv : s.Inv) (cid lo hi : Nat) : (s.writeBackRange cid lo hi).Inv := by
  refine List.foldlRecOn _ _ (motive := State.Inv) inv fun t held e _ => ?_
  refine writeHome_wf _ _ _ ?_
  split <;> exact held

theorem inv_of_physAccess {s : State} (inv : s.Inv) (q : Who) (ea pa n : Nat) (w : Option (List Byte)) : (s.physAccess q ea pa n w).1.Inv := by
  unfold State.physAccess
  cases s.gate q.ctx q.cid pa n w.isNone q.nol1 with
  | pass =>
    cases w with
    | none => exact inv_of_coreRead inv ..
    | some d => exact inv_of_coreWrite inv ..
  | prot | secv | poison cls | wait => exact inv

theorem inv_of_virtAccess {s : State} (inv : s.Inv) (q : Who) (ea va n : Nat) (w : Option (List Byte)) : (s.virtAccess q ea va n w).1.Inv := by
  have walked := inv_of_translateAt inv q.cid q.ctx va (if w.isNone then .read else .write)
  unfold State.virtAccess
  generalize s.translateAt q.cid q.ctx va (if w.isNone then .read else .write) = r at walked
  obtain ⟨s1, ⟨host, a⟩ | ⟨kind, level, e⟩ | _ | cls⟩ := r
  · cases host with
    | true =>
      cases w with
      | none => exact walked
      | some d => exact writeHost_wf _ _ _ walked
    | false => exact inv_of_physAccess walked ..
  all_goals exact walked

theorem inv_of_access {s : State} (inv : s.Inv) (q : Who) (tgt : Target) (ea n : Nat) (w : Option (List Byte)) : (s.access q tgt ea n w).1.Inv := by
  cases tgt with
  | virt va => exact inv_of_virtAccess inv ..
  | phys pa => exact inv_of_physAccess inv ..
  | column cid o => exact inv_of_physAccess inv ..
  | zero | remote sram => exact inv
  | sram cid o win =>
    unfold State.access
    dsimp only
    split
    · split <;> exact inv
    · cases w with
      | none => dsimp only; split <;> exact inv
      | some d => dsimp only; split <;> exact inv
  | view cid o =>
    unfold State.access
    dsimp only
    split
    · split <;> exact inv
    · cases w with
      | none => dsimp only; split <;> exact inv
      | some d => exact inv_of_viewWrite inv ..

/-- A line that a job holds a written byte of stays where it is (R250). -/
theorem exec_l1Eviction_of_owned {s : State} {cid line : Nat} (owned : s.dirtyOwned cid (128 * line) (128 * line + 128) = true) :
    exec (.l1Eviction cid line) s = .next s := next_congr (if_pos owned)

/-- What an L1 lists is no part of the canonical form. -/
theorem inv_of_l1 {s : State} (inv : s.Inv) (l1 : NMap (Byte × Bool)) : ({ s with mem := { s.mem with l1 := l1 } } : State).Inv := inv

theorem inv_of_l1Eviction {s t : State} (inv : s.Inv) {cid line : Nat} (goes : exec (.l1Eviction cid line) s = .next t) : t.Inv := by
  cases owned : s.dirtyOwned cid (128 * line) (128 * line + 128) with
  | true =>
    rw [exec_l1Eviction_of_owned owned] at goes
    exact Host.Outcome.next.inj goes ▸ inv
  | false =>
    rw [exec_l1Eviction owned] at goes
    exact Host.Outcome.next.inj goes ▸ inv_of_l1 (inv_of_writeBackRange inv ..) _

/-- Settles O46: what each operation writes of home and host memory, it writes byte by byte through the canonical store. -/
theorem accessesKeepMemoryCanonical : Obligations.AccessesKeepMemoryCanonical := by
  unfold Obligations.AccessesKeepMemoryCanonical
  intro s inv
  exact ⟨inv_of_access inv, fun pa bs => writeHome_wf s pa bs inv, fun a bs => writeHost_wf s a bs inv, inv_of_writeBackRange inv,
    fun _ _ _ => inv_of_l1Eviction inv⟩

end Sys2Proof.Laws
end

section
/-! The bytes that a core reads after a core has written (R239, R267): those written where they lie, and every other as before. -/

namespace Sys2Proof.Laws

open Sys2Proof.Machine

/-! ## L1 bytes -/

theorem nmapFind_l1Put (m : NMap (Byte × Bool)) (a : Nat) (dirty : Bool) (bs : List Byte) (k : Nat) :
    nmapFind (l1Put m a dirty bs) k = if a ≤ k ∧ k < a + bs.length then some (bs.getD (k - a) 0, dirty) else nmapFind m k := by
  induction bs generalizing m a with
  | nil => rw [if_neg (by simp)]; rfl
  | cons b rest ih =>
    rw [l1Put, ih, nmapFind_set]
    obtain rfl | ne := eq_or_ne k a
    · simp
    · obtain within | beyond := em (a + 1 ≤ k ∧ k < a + 1 + rest.length)
      · rw [if_pos within, if_pos (by simp; omega), show k - a = (k - (a + 1)) + 1 by omega, List.getD_cons_succ]
      · rw [if_neg beyond, if_neg ne, if_neg (by simp; omega)]

/-- A copy updated where it is held (R267). -/
theorem nmapFind_l1Update (m : NMap (Byte × Bool)) (a : Nat) (bs : List Byte) (k : Nat) :
    nmapFind (l1Update m a bs) k =
      if a ≤ k ∧ k < a + bs.length ∧ (nmapFind m k).isSome then some (bs.getD (k - a) 0, false) else nmapFind m k := by
  induction bs generalizing m a with
  | nil => rw [if_neg (by simp; omega)]; rfl
  | cons b rest ih =>
    have first : nmapFind (if (nmapFind m a).isSome then nmapSet m a (b, false) else m) k =
        if k = a ∧ (nmapFind m k).isSome then some (b, false) else nmapFind m k := by
      obtain rfl | ne := eq_or_ne k a
      · split <;> simp_all
      · split <;> simp [nmapFind_set, ne]
    rw [l1Update, ih, first]
    obtain rfl | ne := eq_or_ne k a
    · simp
    · obtain within | beyond := em (a + 1 ≤ k ∧ k < a + 1 + rest.length)
      · simp [ne, within, show a ≤ k by omega, show k < a + (rest.length + 1) by omega, show k - a = (k - (a + 1)) + 1 by omega]
      · rw [if_neg (by tauto), if_neg (by tauto), if_neg (by simp; omega)]

/-! ## A byte as a core reads it -/

/-- A core's byte is decided by the L1 and the home. -/
theorem coreByte_congr {s t : State} {cid b : Nat} (l1 : nmapFind t.mem.l1 (l1Key cid b) = nmapFind s.mem.l1 (l1Key cid b))
    (home : t.homeByte b = s.homeByte b) (nol1 : Bool) : t.coreByte cid b nol1 = s.coreByte cid b nol1 := by
  unfold State.coreByte
  rw [l1, home]

theorem coreByte_of_listed {s : State} {cid b : Nat} {x : Byte} {dirty nol1 : Bool} (listed : nmapFind s.mem.l1 (l1Key cid b) = some (x, dirty))
    (served : (dirty || !nol1) = true) : s.coreByte cid b nol1 = x := by
  rw [State.coreByte, listed]
  exact if_pos served

/-- A byte of which a core holds no other copy than the home's reads as the home does. -/
theorem coreByte_of_copies {s : State} {cid b : Nat} {x : Byte} (copy : ∀ e, nmapFind s.mem.l1 (l1Key cid b) = some e → e.1 = x)
    (home : s.homeByte b = x) (nol1 : Bool) : s.coreByte cid b nol1 = x := by
  unfold State.coreByte
  split
  · next listed =>
    split
    · exact copy _ listed
    · exact home
  · exact home

/-! ## What a core writes -/

section

variable {s : State} {cid pa : Nat} {bs : List Byte} {nol1 : Bool}

/-- A store that goes through to the home updates the copy that the core's L1 holds (R267). -/
theorem coreWrite_l1_of_through (through : (nol1 || !s.cacheable pa) = true) (k : Nat) :
    nmapFind (s.coreWrite cid pa bs nol1).mem.l1 k =
      if l1Key cid pa ≤ k ∧ k < l1Key cid pa + bs.length ∧ (nmapFind s.mem.l1 k).isSome then some (bs.getD (k - l1Key cid pa) 0, false)
      else nmapFind s.mem.l1 k := by
  rw [State.coreWrite, if_pos through]
  exact nmapFind_l1Update ..

theorem coreWrite_homeByte_of_through (through : (nol1 || !s.cacheable pa) = true) (b : Nat) :
    (s.coreWrite cid pa bs nol1).homeByte b =
      if s.homePa pa ≤ s.homePa b ∧ s.homePa b < s.homePa pa + bs.length then bs.getD (s.homePa b - s.homePa pa) 0 else s.homeByte b := by
  rw [State.coreWrite, if_pos through]
  exact get_putBytes ..

/-- Any other store stays in the core's L1 as written bytes (R239). -/
theorem coreWrite_l1_of_cached (cached : ¬ (nol1 || !s.cacheable pa) = true) (k : Nat) :
    nmapFind (s.coreWrite cid pa bs nol1).mem.l1 k =
      if l1Key cid pa ≤ k ∧ k < l1Key cid pa + bs.length then some (bs.getD (k - l1Key cid pa) 0, true) else nmapFind s.mem.l1 k := by
  rw [State.coreWrite, if_neg cached]
  exact nmapFind_l1Put ..

theorem coreWrite_homeByte_of_cached (cached : ¬ (nol1 || !s.cacheable pa) = true) (b : Nat) :
    (s.coreWrite cid pa bs nol1).homeByte b = s.homeByte b := by
  rw [State.coreWrite, if_neg cached]
  rfl

end

/-- Settles O45: a byte that goes to L1 is found there; one that goes to its home is found there, and in the copy that the core's L1 holds of it. -/
theorem storedBytesAreRead : Obligations.StoredBytesAreRead := by
  unfold Obligations.StoredBytesAreRead
  intro s cid pa bs nol1 k within unit
  have key : l1Key cid (pa + k) - l1Key cid pa = k := by unfold l1Key; omega
  have first : l1Key cid pa ≤ l1Key cid (pa + k) := by unfold l1Key; omega
  have last : l1Key cid (pa + k) < l1Key cid pa + bs.length := by unfold l1Key; omega
  by_cases through : (nol1 || !s.cacheable pa) = true
  · refine coreByte_of_copies (fun e listed => ?copy) ?home nol1
    case copy =>
      rw [coreWrite_l1_of_through through, key] at listed
      cases held : nmapFind s.mem.l1 (l1Key cid (pa + k)) with
      | none => simp [held] at listed
      | some old =>
        rw [if_pos ⟨first, last, by simp [held]⟩] at listed
        exact congrArg Prod.fst (Option.some.inj listed).symm
    case home => rw [coreWrite_homeByte_of_through through, unit k within, if_pos (by omega), Nat.add_sub_cancel_left]
  · refine coreByte_of_listed (dirty := true) ?_ rfl
    rw [coreWrite_l1_of_cached through, if_pos ⟨first, last⟩, key]

/-- A store of a core keeps every byte of device memory but those it names. -/
theorem deviceKeeps_coreWrite (s : State) (cid pa : Nat) (bs : List Byte) (nol1 : Bool) :
    DeviceKeeps s (s.coreWrite cid pa bs nol1) pa bs.length := by
  intro below c b nol1' hb outside homeOutside
  have away : ¬ (l1Key cid pa ≤ l1Key c b ∧ l1Key c b < l1Key cid pa + bs.length) := by unfold l1Key; omega
  by_cases through : (nol1 || !s.cacheable pa) = true
  · refine coreByte_congr ?_ ?_ nol1'
    · rw [coreWrite_l1_of_through through, if_neg fun h => away ⟨h.1, h.2.1⟩]
    · rw [coreWrite_homeByte_of_through through, if_neg (by omega)]
  · refine coreByte_congr ?_ (coreWrite_homeByte_of_cached through b) nol1'
    rw [coreWrite_l1_of_cached through, if_neg away]

end Sys2Proof.Laws
end

section
/-! The frame of a store (R231, R233, R234, R239): a store of a core to a target changes no byte outside those it writes, in any kind of storage. -/

namespace Sys2Proof.Laws

open Sys2Proof.Machine

/-! ## Bytes of a register, of the loft and of an accumulator (R233) -/

/-- A byte replaced in a word leaves the word's other bytes. -/
theorem extract_wordByte_of_ne {x : Word} {b : Byte} {j k : Nat} (hj : j < 4) (hk : k < 4) (ne : j ≠ k) :
    (wordByte x k b).extractLsb' (8 * j) 8 = x.extractLsb' (8 * j) 8 := by
  have lt := x.isLt
  have byte := b.isLt
  apply BitVec.eq_of_toNat_eq
  simp only [wordByte, putField, BitVec.extractLsb'_toNat, BitVec.toNat_ofNat, Nat.shiftRight_eq_div_pow]
  interval_cases j <;> interval_cases k <;> omega

theorem regsKept_iff {a b : RegFile} : RegsKept a b ↔
    b.v = a.v ∧ b.p = a.p ∧ b.bt = a.bt ∧ b.rng = a.rng ∧ b.s = a.s ∧ b.cv = a.cv ∧ b.hv = a.hv ∧ b.hs = a.hs := by
  cases a
  cases b
  simp [RegsKept]

theorem regsKept_trans {a b c : RegFile} (ab : RegsKept a b) (bc : RegsKept b c) : RegsKept a c := by
  unfold RegsKept at *
  rw [← ab, ← bc]

/-- Registers that the views do not show are kept, but for pc, lk and lc. -/
theorem othersKept_iff {a b : RegFile} : RegsKept a { b with v := a.v, s := a.s } ↔
    b.p = a.p ∧ b.bt = a.bt ∧ b.rng = a.rng ∧ b.cv = a.cv ∧ b.hv = a.hv ∧ b.hs = a.hs := by
  simp [regsKept_iff]

theorem viewsKeep_refl (s : State) (rs : List BlockRun) : ViewsKeep s s rs :=
  ⟨fun _ _ _ _ _ _ _ _ => rfl, fun _ _ _ _ _ _ => rfl, fun _ _ => rfl, fun _ _ _ _ => rfl, rfl⟩

theorem viewsKeep_trans {a b c : State} {rs : List BlockRun} (ab : ViewsKeep a b rs) (bc : ViewsKeep b c rs) : ViewsKeep a c rs := by
  obtain ⟨v1, s1, l1, a1, o1⟩ := ab
  obtain ⟨v2, s2, l2, a2, o2⟩ := bc
  refine ⟨fun w l k j hl hk hj out => (v2 w l k j hl hk hj out).trans (v1 w l k j hl hk hj out),
    fun w k j hk hj out => (s2 w k j hk hj out).trans (s1 w k j hk hj out), fun x out => (l2 x out).trans (l1 x out),
    fun k j hj out => (a2 k j hj out).trans (a1 k j hj out), ?others⟩
  rw [othersKept_iff] at *
  obtain ⟨p1, b1, g1, c1, hv1, hs1⟩ := o1
  obtain ⟨p2, b2, g2, c2, hv2, hs2⟩ := o2
  exact ⟨p2.trans p1, b2.trans b1, g2.trans g1, c2.trans c1, hv2.trans hv1, hs2.trans hs1⟩

theorem viewsKeep_mono {s t : State} {rs rs' : List BlockRun} (keeps : ViewsKeep s t rs)
    (sub : ∀ cid o, runsHold rs cid o → runsHold rs' cid o) : ViewsKeep s t rs' := by
  obtain ⟨v, sc, lf, ac, others⟩ := keeps
  exact ⟨fun w l k j hl hk hj out => v w l k j hl hk hj (mt (sub _ _) out), fun w k j hk hj out => sc w k j hk hj (mt (sub _ _) out),
    fun x out => lf x (mt (sub _ _) out), fun k j hj out => ac k j hj (mt (sub _ _) out), others⟩

theorem runsHold_single {cid o n c x : Nat} : runsHold [⟨cid, o, n⟩] c x ↔ cid = c ∧ o ≤ x ∧ x < o + n := by
  simp [runsHold]

/-! ## One store to a view -/

/-- A vector register takes a value that differs in bytes of the runs alone. -/
theorem viewsKeep_putV {s : State} {w l n : Nat} {d : Word} {rs : List BlockRun} (hl : l < 32) (hn : n < 256)
    (byte : ∀ j < 4, ¬ runsHold rs (w / 64) (0x100000 + 0x8000 * (w % 64) + 0x80 * n + 4 * l + j) →
      d.extractLsb' (8 * j) 8 = (s.regs.getV w l n).extractLsb' (8 * j) 8) : ViewsKeep s (s.applyWrite w (.v l n d)) rs := by
  refine ⟨fun w' l' n' j hl' hn' hj out => ?_, fun _ _ _ _ _ _ => rfl, fun _ _ => rfl, fun _ _ _ _ => rfl, rfl⟩
  rw [applyWrite_regs, State.putReg, getV_setV_iff hl hl' hn hn']
  split
  · next same =>
    obtain ⟨rfl, rfl, rfl⟩ := same
    exact byte j hj out
  · rfl

theorem viewsKeep_putS {s : State} {w n : Nat} {d : Word} {rs : List BlockRun} (hn : n < 1024)
    (byte : ∀ j < 4, ¬ runsHold rs (w / 64) (0x300000 + 0x1000 * (w % 64) + 4 * n + j) →
      d.extractLsb' (8 * j) 8 = (s.regs.getS w n).extractLsb' (8 * j) 8) : ViewsKeep s (s.applyWrite w (.s n d)) rs := by
  refine ⟨fun _ _ _ _ _ _ _ _ => rfl, fun w' n' j hn' hj out => ?_, fun _ _ => rfl, fun _ _ _ _ => rfl, rfl⟩
  rw [applyWrite_regs, State.putReg, getS_setS_iff hn hn']
  split
  · next same =>
    obtain ⟨rfl, rfl⟩ := same
    exact byte j hj out
  · rfl

/-- An accumulator element takes a value that differs in bytes of the runs alone. -/
theorem viewsKeep_putAcc {s : State} {k : Nat} {d : Word} {p : NMap Unit} {rs : List BlockRun}
    (byte : ∀ j < 4, ¬ runsHold rs (k / 2 ^ 16) (0x380000 + 4 * (k % 2 ^ 16) + j) →
      d.extractLsb' (8 * j) 8 = (dmapGet 0 s.cores.acc k).extractLsb' (8 * j) 8) :
    ViewsKeep s { s with cores := { s.cores with acc := dmapSet 0 s.cores.acc k d }, mem := { s.mem with poison := p } } rs := by
  refine ⟨fun _ _ _ _ _ _ _ _ => rfl, fun _ _ _ _ _ _ => rfl, fun _ _ => rfl, fun k' j hj out => ?_, rfl⟩
  rw [dmapGet_set]
  split
  · next same =>
    subst same
    exact byte j hj out
  · rfl

theorem bytesPut_eq_putBytes (m : NMap Byte) (a : Nat) (bs : List Byte) : bytesPut m a bs = putBytes m a bs := by
  induction bs generalizing m a with
  | nil => rfl
  | cons b rest ih => exact ih ..

theorem viewsKeep_loftWrite (s : State) {cid x : Nat} {bs : List Byte} (within : x + bs.length ≤ 2 ^ 18) :
    ViewsKeep s (s.loftWrite cid x bs) [⟨cid, 0x340000 + x, bs.length⟩] := by
  refine ⟨fun _ _ _ _ _ _ _ _ => rfl, fun _ _ _ _ _ _ => rfl, fun a out => ?_, fun _ _ _ _ => rfl, rfl⟩
  rw [runsHold_single] at out
  rw [State.loftWrite, bytesPut_eq_putBytes]
  exact get_putBytes_outside _ _ _ _ (by omega)

/-- One byte written to a register or an accumulator, by its place in the views. -/
def viewByteWrite (s : State) (cid o : Nat) (b : Byte) : State :=
  s.setViewWord cid (o / 4 * 4) (wordByte (s.viewWord cid (o / 4 * 4)) (o % 4) b)

/-- A byte of the views below the loft or above it. -/
theorem viewsKeep_viewByteWrite (s : State) {cid o : Nat} (b : Byte) (low : 0x100000 ≤ o)
    (high : o < 0x340000 ∨ 0x380000 ≤ o ∧ o < 0x3C0000) : ViewsKeep s (viewByteWrite s cid o b) [⟨cid, o, 1⟩] := by
  have keep (x : Word) {c a j : Nat} (hj : j < 4) (core : c = cid) (word : a = o / 4 * 4) (out : ¬ runsHold [⟨cid, o, 1⟩] c (a + j)) :
      (wordByte x (o % 4) b).extractLsb' (8 * j) 8 = x.extractLsb' (8 * j) 8 := by
    rw [runsHold_single] at out
    exact extract_wordByte_of_ne hj (by omega) (by omega)
  unfold viewByteWrite State.setViewWord State.viewWord
  by_cases vector : o / 4 * 4 < 0x300000
  · simp only [if_pos vector]
    split
    · exact viewsKeep_putV (by omega) (by omega) fun j hj out => keep _ hj (by omega) (by omega) out
    · exact viewsKeep_refl ..
  by_cases scalar : o / 4 * 4 < 0x340000
  · simp only [if_neg vector, if_pos scalar]
    split
    · exact viewsKeep_putS (by omega) fun j hj out => keep _ hj (by omega) (by omega) out
    · exact viewsKeep_refl ..
  · simp only [if_neg vector, if_neg scalar]
    exact viewsKeep_putAcc fun j hj out => keep _ hj (by omega) (by omega) out

theorem viewsKeep_viewWrite_of_loft (s : State) {cid o : Nat} {bs : List Byte} (loft : 0x340000 ≤ o ∧ o < 0x380000)
    (within : o + bs.length ≤ 0x380000) : ViewsKeep s (s.viewWrite cid o bs) [⟨cid, o, bs.length⟩] := by
  obtain ⟨x, rfl⟩ : ∃ x, o = 0x340000 + x := ⟨o - 0x340000, by omega⟩
  have landed {ds : List Byte} (len : ds.length = bs.length) :
      ViewsKeep s (s.loftWrite cid (0x340000 + x - 0x340000) ds) [⟨cid, 0x340000 + x, bs.length⟩] := by
    rw [Nat.add_sub_cancel_left, ← len]
    exact viewsKeep_loftWrite s (by omega)
  unfold State.viewWrite
  rw [if_pos loft]
  dsimp only
  split
  · exact landed rfl
  split
  · exact landed (by simp)
  · exact viewsKeep_refl ..

/-- The views' bytes outside a run written to them. -/
theorem viewsKeep_viewWrite (s : State) {cid o : Nat} {bs : List Byte} (within : (⟨cid, o, bs.length⟩ : BlockRun).inViews) :
    ViewsKeep s (s.viewWrite cid o bs) [⟨cid, o, bs.length⟩] := by
  induction bs generalizing s o with
  | nil =>
    by_cases loft : 0x340000 ≤ o ∧ o < 0x380000
    · exact viewsKeep_viewWrite_of_loft s loft loft.2.le
    · rw [State.viewWrite, if_neg loft]
      exact viewsKeep_refl ..
  | cons b rest ih =>
    obtain ⟨low, high, side⟩ := within
    dsimp only [List.length_cons] at low high side
    by_cases loft : 0x340000 ≤ o ∧ o < 0x380000
    · exact viewsKeep_viewWrite_of_loft s loft (by rw [List.length_cons]; omega)
    · have eq : s.viewWrite cid o (b :: rest) = (viewByteWrite s cid o b).viewWrite cid (o + 1) rest := by
        rw [State.viewWrite, if_neg loft]
        rfl
      rw [eq]
      refine viewsKeep_trans (viewsKeep_mono (viewsKeep_viewByteWrite s b low (by omega)) ?first)
        (viewsKeep_mono (ih (viewByteWrite s cid o b) ⟨?_, ?_, ?_⟩) ?rest)
      case first | rest =>
        intro c x
        simp only [runsHold_single, List.length_cons]
        omega
      all_goals dsimp only; omega

/-! ## Device memory -/

/-- Two states with the same device memory, in the same places, and the same L1 bytes. -/
structure SameDevice (s t : State) : Prop where
  home : t.mem.home = s.mem.home
  l1 : t.mem.l1 = s.mem.l1
  moved : t.mem.moved = s.mem.moved
  card : t.card = s.card

theorem SameDevice.homePa {s t : State} (same : SameDevice s t) (b : Nat) : t.homePa b = s.homePa b := by
  simp only [State.homePa, State.yardPa, State.yardColumns, State.isRetired, State.columnPa, State.colSize, State.cardNo, same.moved, same.card]

theorem SameDevice.coreByte {s t : State} (same : SameDevice s t) (cid b : Nat) (nol1 : Bool) : t.coreByte cid b nol1 = s.coreByte cid b nol1 := by
  refine coreByte_congr (by rw [same.l1]) ?_ nol1
  rw [State.homeByte, State.homeByte, same.homePa, same.home]

theorem SameDevice.keeps {s t : State} (same : SameDevice s t) (pa n : Nat) : DeviceKeeps s t pa n :=
  fun _ cid b nol1 _ _ _ => same.coreByte cid b nol1

theorem deviceKeeps_of_sameSource {s s' t : State} {pa n : Nat} (same : SameDevice s s') (keeps : DeviceKeeps s' t pa n) :
    DeviceKeeps s t pa n := by
  intro below cid b nol1 hb outside homeOutside
  rw [← same.coreByte]
  exact keeps below cid b nol1 hb outside (by simpa only [same.homePa] using homeOutside)

theorem deviceKeeps_of_sameTarget {s t t' : State} {pa n : Nat} (same : SameDevice t t') (keeps : DeviceKeeps s t pa n) :
    DeviceKeeps s t' pa n := by
  intro below cid b nol1 hb outside homeOutside
  rw [same.coreByte]
  exact keeps below cid b nol1 hb outside homeOutside

/-! ## One access that writes -/

theorem physAccess_write {s t : State} {q : Who} {ea pa n : Nat} {d bs : List Byte} (goes : s.physAccess q ea pa n (some d) = (t, .ok bs)) :
    t = s.coreWrite q.cid pa d q.nol1 := by
  unfold State.physAccess at goes
  cases gate : s.gate q.ctx q.cid pa n (some d).isNone q.nol1 with
  | pass =>
    rw [gate] at goes
    exact (congrArg Prod.fst goes).symm
  | prot | secv | poison cls | wait =>
    rw [gate] at goes
    cases congrArg Prod.snd goes

theorem ok_of_withVa {r : Acc} {va : Nat} {bs : List Byte} (e : r.withVa va = .ok bs) : r = .ok bs := by
  unfold Acc.withVa at e
  split at e
  · cases e
  · exact e

/-- A write through translation goes to host memory or to device memory. -/
theorem virtAccess_write {s t : State} {q : Who} {ea va n : Nat} {d bs : List Byte} (goes : s.virtAccess q ea va n (some d) = (t, .ok bs)) :
    ∃ s1, (∃ a, s.translateAt q.cid q.ctx va .write = (s1, .to true a) ∧ t = s1.writeHost a d) ∨
      (∃ pa, s.translateAt q.cid q.ctx va .write = (s1, .to false pa) ∧ t = s1.coreWrite q.cid pa d q.nol1) := by
  unfold State.virtAccess at goes
  simp only [Option.isNone_some, Bool.false_eq_true, if_false] at goes
  generalize s.translateAt q.cid q.ctx va .write = r at goes
  obtain ⟨s1, ⟨host, a⟩ | ⟨kind, level, e⟩ | _ | cls⟩ := r
  · cases host with
    | true => exact ⟨s1, .inl ⟨a, rfl, (congrArg Prod.fst goes).symm⟩⟩
    | false =>
      have ends := ok_of_withVa (congrArg Prod.snd goes)
      exact ⟨s1, .inr ⟨a, rfl, physAccess_write (Prod.ext (congrArg Prod.fst goes :) ends)⟩⟩
  all_goals cases congrArg Prod.snd goes

theorem coreWrite_onlyMem (s : State) (cid pa : Nat) (bs : List Byte) (nol1 : Bool) :
    s.coreWrite cid pa bs nol1 = { s with mem := (s.coreWrite cid pa bs nol1).mem } := by
  unfold State.coreWrite
  split <;> rfl

@[simp] theorem coreWrite_host (s : State) (cid pa : Nat) (bs : List Byte) (nol1 : Bool) :
    (s.coreWrite cid pa bs nol1).mem.host = s.mem.host := by
  unfold State.coreWrite
  split <;> rfl

/-- A write of memory alone leaves the chip as it was. -/
theorem chip_of_onlyMem {s t : State} (only : t = { s with mem := t.mem }) :
    t = { s with regs := t.regs, warps := t.warps, ops := t.ops, mem := t.mem, stackRegs := t.stackRegs,
                 cores := { s.cores with scratch := t.cores.scratch, fe := t.cores.fe, loft := t.cores.loft, acc := t.cores.acc } } ∧
      (t.cores.scratch = s.cores.scratch ∧ t.cores.fe = s.cores.fe) ∧
      (t.cores.loft = s.cores.loft ∧ t.cores.acc = s.cores.acc ∧ RegsKept s.regs t.regs) := by
  rw [only]
  exact ⟨rfl, ⟨rfl, rfl⟩, rfl, rfl, rfl⟩

section

variable {s t : State} {q : Who} {ea : Nat} {d bs : List Byte}

/-- A store to scratch memory, or one that the owner tag turns away and that is counted (R404). -/
theorem storeFrame_of_sram {cid o : Nat} {win : Bool} (goes : s.access q (.sram cid o win) ea d.length (some d) = (t, .ok bs)) :
    StoreFrame (DeviceKeeps s t) s s t q (.sram cid o win) d.length false := by
  simp only [State.access] at goes
  split at goes
  · obtain rfl := congrArg Prod.fst goes
    exact ⟨rfl, fun _ _ => rfl, fun _ _ => rfl, ⟨rfl, rfl, rfl⟩, rfl, SameDevice.keeps ⟨rfl, rfl, rfl, rfl⟩ 0 0⟩
  · have stored : t = s.sramWrite cid o d ∨ t = (s.sramWrite cid o d).wakeCore cid := by
      rw [show t = _ from (congrArg Prod.fst goes).symm]
      cases win with
      | true => exact .inr rfl
      | false => exact .inl rfl
    have bytes (a : Nat) (out : a < cid * 2 ^ 20 + o ∨ cid * 2 ^ 20 + o + d.length ≤ a) :
        dmapGet 0 (s.sramWrite cid o d).cores.scratch a = dmapGet 0 s.cores.scratch a := by
      rw [State.sramWrite, bytesPut_eq_putBytes]
      exact get_putBytes_outside _ _ _ _ out
    obtain rfl | rfl := stored
    all_goals exact ⟨rfl, bytes, fun _ _ => rfl, ⟨rfl, rfl, rfl⟩, rfl, SameDevice.keeps ⟨rfl, rfl, rfl, rfl⟩ 0 0⟩

/-- A store through translation, to host memory or to device memory. -/
theorem storeFrame_of_virt {va : Nat} (goes : s.virtAccess q ea va d.length (some d) = (t, .ok bs)) :
    StoreFrame (DeviceKeeps s t) s s t q (.virt va) d.length false := by
  obtain ⟨ts, walked⟩ := translateAt_tlb s q.cid q.ctx va .write
  obtain ⟨s1, ⟨a, translated, rfl⟩ | ⟨pa, translated, rfl⟩⟩ := virtAccess_write goes
  · rw [translated] at walked
    dsimp only at walked
    subst walked
    rw [StoreFrame, translated]
    exact ⟨rfl, fun b out => get_putBytes_outside _ _ _ _ out, ⟨rfl, rfl⟩, ⟨rfl, rfl, rfl⟩, SameDevice.keeps ⟨rfl, rfl, rfl, rfl⟩ 0 0⟩
  · have only := coreWrite_onlyMem s1 q.cid pa d q.nol1
    have host := coreWrite_host s1 q.cid pa d q.nol1
    have device := deviceKeeps_coreWrite s1 q.cid pa d q.nol1
    rw [translated] at walked
    dsimp only at walked
    subst walked
    obtain ⟨frame, sram, views⟩ := chip_of_onlyMem (s := s) only
    rw [StoreFrame, translated]
    exact ⟨frame, deviceKeeps_of_sameSource ⟨rfl, rfl, rfl, rfl⟩ device, sram, views, host⟩

/-- A store to a view of a block, or one that the owner tag turns away (R233, R404). -/
theorem storeFrame_of_view {cid o : Nat} (goes : s.access q (.view cid o) ea d.length (some d) = (t, .ok bs)) :
    StoreFrame (DeviceKeeps s t) s s t q (.view cid o) d.length false := by
  simp only [State.access] at goes
  split at goes
  · obtain rfl := congrArg Prod.fst goes
    exact ⟨rfl, ⟨rfl, rfl⟩, rfl, SameDevice.keeps ⟨rfl, rfl, rfl, rfl⟩ 0 0, fun _ => viewsKeep_refl ..⟩
  · obtain rfl := congrArg Prod.fst goes
    have only := onlyViews_viewWrite s cid o d
    have keeps := viewsKeep_viewWrite s (cid := cid) (o := o) (bs := d)
    generalize s.viewWrite cid o d = v at only keeps
    refine ⟨by rw [only]; rfl, ⟨?_, ?_⟩, ?_, SameDevice.keeps ⟨?_, ?_, ?_, ?_⟩ 0 0, keeps⟩
    all_goals rw [only]; rfl

end

/-- A write of a core to any target keeps what R231 and R239 say it keeps. -/
theorem storeFrame_of_access {s t : State} {q : Who} {tgt : Target} {ea n : Nat} {d bs : List Byte} (len : d.length = n)
    (goes : s.access q tgt ea n (some d) = (t, .ok bs)) : StoreFrame (DeviceKeeps s t) s s t q tgt n false := by
  subst len
  cases tgt with
  | sram cid o win => exact storeFrame_of_sram goes
  | column cid o =>
    obtain rfl := physAccess_write goes
    obtain ⟨frame, sram, views⟩ := chip_of_onlyMem (coreWrite_onlyMem s q.cid (s.columnPa cid o) d true)
    exact ⟨frame, deviceKeeps_coreWrite _ _ _ _ _, sram, views, coreWrite_host ..⟩
  | phys pa =>
    obtain rfl := physAccess_write goes
    obtain ⟨frame, sram, views⟩ := chip_of_onlyMem (coreWrite_onlyMem s q.cid pa d q.nol1)
    exact ⟨frame, deviceKeeps_coreWrite _ _ _ _ _, sram, views, coreWrite_host ..⟩
  | virt va => exact storeFrame_of_virt goes
  | view cid o => exact storeFrame_of_view goes
  | zero | remote sram =>
    obtain rfl := congrArg Prod.fst goes
    exact ⟨rfl, ⟨rfl, rfl⟩, ⟨rfl, rfl, rfl⟩, rfl, SameDevice.keeps ⟨rfl, rfl, rfl, rfl⟩ 0 0⟩

end Sys2Proof.Laws
end

section
/-! The frame of a plain store of one lane (R38, R43, R239, R265): issue and the lane's transfer add nothing to what its access writes. -/

namespace Sys2Proof.Laws

open Sys2Proof.Machine

/-- An instruction's transfer writes no register but pc, lk and lc (R38). -/
theorem regsKept_advance (s p : State) (h : Hdr) (w : Nat) (pc : Word) (m o : Mask) : RegsKept s.regs (s.advance p h w pc m o).regs :=
  advance_regs_inv (fun r => ({ r with pc := s.regs.pc, lk := s.regs.lk, lc := s.regs.lc } : RegFile)) (fun _ _ _ _ => rfl) (fun _ _ _ _ => rfl)
    (fun _ _ _ _ _ => rfl) s p h w pc m o

theorem viewsKeep_of_regsKept {s t : State} (regs : RegsKept s.regs t.regs) (cores : t.cores = s.cores) (rs : List BlockRun) :
    ViewsKeep s t rs := by
  obtain ⟨vectors, preds, targets, gens, scalars, others⟩ := regsKept_iff.mp regs
  refine ⟨fun w l k j _ _ _ _ => ?_, fun w k j _ _ _ => ?_, fun _ _ => by rw [cores], fun _ _ _ _ => by rw [cores], ?_⟩
  · rw [getV_congr vectors]
  · rw [getS_congr scalars]
  · exact othersKept_iff.mpr ⟨preds, targets, gens, others⟩

theorem OnlyRegs.sameDevice {s t : State} (only : OnlyRegs s t) : SameDevice s t := by
  constructor <;> rw [only]

/-- What a store leaves as it was, the transfer of its lane leaves so too. -/
theorem storeFrame_of_onlyRegs {s t u : State} {q : Who} {tgt : Target} {n : Nat} (frame : StoreFrame (DeviceKeeps s t) s s t q tgt n false)
    (only : OnlyRegs t u) (regs : RegsKept t.regs u.regs) : StoreFrame (DeviceKeeps s u) s s u q tgt n false := by
  have cores : u.cores = t.cores := by rw [only]
  have host : u.mem.host = t.mem.host := by rw [only]
  have device {pa m : Nat} : DeviceKeeps s t pa m → DeviceKeeps s u pa m :=
    deviceKeeps_of_sameTarget only.sameDevice
  have views : (t.cores.loft = s.cores.loft ∧ t.cores.acc = s.cores.acc ∧ RegsKept s.regs t.regs) →
      (u.cores.loft = s.cores.loft ∧ u.cores.acc = s.cores.acc ∧ RegsKept s.regs u.regs) := by
    rw [cores]
    exact fun ⟨loft, acc, kept⟩ => ⟨loft, acc, regsKept_trans kept regs⟩
  obtain ⟨rest, frame⟩ := frame
  refine ⟨?rest, ?frame⟩
  case rest => rw [only, rest]
  cases tgt with
  | sram cid o win =>
    obtain ⟨bytes, bits, kept, hosted, dev⟩ := frame
    exact ⟨by rwa [cores], by rwa [cores], views kept, host.trans hosted, device dev⟩
  | column cid o =>
    obtain ⟨dev, sram, kept, hosted⟩ := frame
    exact ⟨device dev, by rwa [cores], views kept, host.trans hosted⟩
  | phys pa =>
    obtain ⟨dev, sram, kept, hosted⟩ := frame
    exact ⟨device dev, by rwa [cores], views kept, host.trans hosted⟩
  | virt va =>
    dsimp only at frame ⊢
    split at frame
    · obtain ⟨bytes, sram, kept, dev⟩ := frame
      exact ⟨by rwa [host], by rwa [cores], views kept, device dev⟩
    · obtain ⟨dev, sram, kept, hosted⟩ := frame
      exact ⟨device dev, by rwa [cores], views kept, host.trans hosted⟩
    · obtain ⟨dev, sram, kept, hosted⟩ := frame
      exact ⟨device dev, by rwa [cores], views kept, host.trans hosted⟩
  | view cid o =>
    obtain ⟨sram, hosted, dev, keeps⟩ := frame
    exact ⟨by rwa [cores], host.trans hosted, device dev, fun inside => viewsKeep_trans (keeps inside) (viewsKeep_of_regsKept regs cores _)⟩
  | zero =>
    obtain ⟨sram, kept, hosted, dev⟩ := frame
    exact ⟨by rwa [cores], views kept, host.trans hosted, device dev⟩
  | remote r =>
    obtain ⟨sram, kept, hosted, dev⟩ := frame
    exact ⟨by rwa [cores], views kept, host.trans hosted, device dev⟩

theorem onlyRegs_modOp (s : State) (id : Nat) (g : Op → Op) : OnlyRegs s (s.modOp id g) := rfl

theorem bytesOf_length (n x : Nat) : (bytesOf n x).length = n := by simp [bytesOf]

/-- A plain store's part is one access that writes its bytes, and nothing is left for its completion. -/
theorem access_of_partSt {f : MForm} {s t : State} {o : Op} {l : Nat} {p : Perf} {tgt : Target} (plain : f.ord ≠ .rel) (bare : f.fe = .ignore)
    (place : s.place o.w (opRec o l) f.space (opRec o l).addr.toNat true = .here tgt) (part : partSt f s o l t p) :
    p = .done [] ∧ ∃ bs, s.access (whoAt s o (f.cache = .nol1)) tgt (opRec o l).addr.toNat (widthBytes f.width)
      (some (bytesOf (widthBytes f.width) (opRec o l).c.toNat)) = (t, .ok bs) := by
  obtain ⟨tgt', s1, bs, place', _, _, access, rfl, rfl⟩ := part
  cases place.symm.trans place'
  refine ⟨rfl, bs, ?_⟩
  simpa [plain, bare] using access

/-- Settles O40: the part is one access, whose frame the lane's transfer keeps. -/
theorem storeKeepsTheRest : Obligations.StoreKeepsTheRest := by
  unfold Obligations.StoreKeepsTheRest
  intro h f s t l tgt can alone plain bare s0 o performs place
  have goes : exec (.st h f) s = .next (t.advance s h s.cur.w s.cur.pc (s.activeSet h) (s.offSet h)) :=
    (memoryInstructionsComplete.1 h f).2.1 s t can (by rwa [show (opSt f).once = false from rfl, if_neg Bool.false_ne_true, alone])
  refine ⟨_, goes, ?_⟩
  obtain ⟨o', s1, p, found, _, _, part, rfl⟩ := performs
  cases (nmapFind_set_self ..).symm.trans found
  obtain ⟨rfl, bs, access⟩ := access_of_partSt plain bare place part
  exact storeFrame_of_onlyRegs (storeFrame_of_access (bytesOf_length ..) access) ((onlyRegs_modOp s1 _ _).trans (onlyRegs_advance ..))
    (regsKept_advance ..)

end Sys2Proof.Laws
end

section
/-! Loads over an L1 that lists a byte twice (R237 to R239, R265, R267): a read at the home that drops the clean copy uncovers the written one. -/

namespace Sys2Proof.Laws

open Sys2Proof.Machine

/-- A load of the four bytes at address 64 that goes past L1 (R267). -/
def passingLoad : MForm :=
  { dst := .v 4, base := .zr, index := .zr, space := .global, width := .b32, cache := .nol1, fe := .ignore, ord := .plain, scope := .thread,
    scl := false, ofs := 64 }

/-- The address of a byte of the line that the load reads, past the bytes loaded. -/
def listedByte : Nat := 96

/-- A placed warp of which lane 0 is selected, over an L1 of core 0 that lists one byte twice: clean as 1, then written as 2. -/
def twiceListed : State :=
  let s := State.reset.placeProgram []
  { s with cur := { s.cur with mask := 1 }, mem := { s.mem with l1 := [(l1Key 0 listedByte, 1, false), (l1Key 0 listedByte, 2, true)] } }

/-- The state in which the load is outstanding. -/
def loadIssued : State := twiceListed.issued (.ld plainHdr passingLoad) plainHdr (opLd passingLoad)

/-- The record of the load. -/
def loadRecord : Op :=
  newOp (.ld plainHdr passingLoad) plainHdr (opLd passingLoad) twiceListed twiceListed.cur.w twiceListed.cur.pc twiceListed.cur.word
    twiceListed.cur.mask (twiceListed.activeSet plainHdr) (twiceListed.serial + 1)

/-- Who loads: the warp's context at core 0, past L1. -/
def loader : Who := ⟨0, 0, true⟩

/-- The state after the load's access. -/
def loadDone : State := (loadIssued.access loader (.virt 64) 64 4 none).1

/-- What the load's part leaves to be written at its completion. -/
def loadWrites : Perf := .done (dstWords (opRec loadRecord 0).hm (.v 4) 0 (loadWords .b32 [0, 0, 0, 0]))

theorem twiceListed_canIssueLong : twiceListed.CanIssueLong (.ld plainHdr passingLoad) plainHdr (opLd passingLoad) where
  ok := by decide +kernel
  free := by decide +kernel
  ready := by decide +kernel
  alloc := by decide +kernel
  settled := by decide +kernel
  clean := by decide +kernel
  records := by decide +kernel
  still := by decide +kernel
  free0 := by decide +kernel
  sound := by decide +kernel
  acts := by decide +kernel

theorem load_access : loadIssued.access loader (.virt 64) 64 4 none = (loadDone, .ok [0, 0, 0, 0]) := Prod.ext rfl (by decide +kernel)

theorem load_place :
    loadIssued.place loadRecord.w (opRec loadRecord 0) passingLoad.space (opRec loadRecord 0).addr.toNat false = .here (.virt 64) := by
  decide +kernel

theorem load_translated : loadIssued.translateAt loader.cid loader.ctx 64 .read =
    ((loadIssued.translateAt loader.cid loader.ctx 64 .read).1, .to false 64) :=
  Prod.ext rfl (by decide +kernel)

theorem load_part : partLd passingLoad loadIssued loadRecord 0 loadDone loadWrites :=
  ⟨.virt 64, loadIssued, loadDone, [0, 0, 0, 0], load_place, .inl rfl, rfl, load_access, rfl, rfl⟩

/-- The load's part leaves no other state than that after its access. -/
theorem eq_loadDone_of_part {t : State} {p : Perf} (part : partLd passingLoad loadIssued loadRecord 0 t p) : t = loadDone := by
  obtain ⟨tgt, s0, s1, bs, place, _, flush, access, rfl, _⟩ := part
  cases load_place.symm.trans place
  cases (show (loadIssued, false) = (s0, false) from flush)
  exact (congrArg Prod.fst (load_access.symm.trans access)).symm

/-- The load uncovers the second of the two bytes listed, which is neither the home's nor what core 0 read before. -/
theorem load_uncoversOther : loadDone.coreByte 0 listedByte false = 2 ∧ loadIssued.coreByte 0 listedByte false = 1 ∧
    loadIssued.homeByte listedByte = 0 := by
  decide +kernel

theorem load_notOld : ¬ DeviceOld loadIssued loadDone 0 0 0 := by
  intro old
  have reads := old (by decide) 0 listedByte false (by decide) (fun a e => e) (.inr (Nat.zero_le _)) (.inr (Nat.zero_le _))
  obtain ⟨now, before, home⟩ := load_uncoversOther
  rw [now, before, home] at reads
  exact absurd reads (by decide)

/-- Refutes O42: the statement speaks of every state, also of one whose L1 lists a byte twice, which no canonical store does. The read of
`passingLoad` on `twiceListed` drops the clean entry and leaves the written one, whose value core 0 did not read before. A write keeps what
the statement says (`storeFrame_of_access`). -/
theorem not_accessKeepsTheRest : ¬ Obligations.AccessKeepsTheRest := by
  unfold Obligations.AccessKeepsTheRest
  intro frames
  obtain ⟨_, _, _, _, old⟩ := (frames _ _ loader _ _ _ _ _ load_access).2 rfl
  exact load_notOld old

/-- Refutes O43: its clause for LD speaks of every state too; `passingLoad` on `twiceListed` brings up a value that was neither at the home nor what
core 0 read. -/
theorem not_storingInstructionsKeepTheRest : ¬ Obligations.StoringInstructionsKeepTheRest := by
  unfold Obligations.StoringInstructionsKeepTheRest
  intro ⟨loads, _⟩
  obtain ⟨s2, p2, part, keeps⟩ := part_kept_of_keepsLong (loads plainHdr passingLoad).1 twiceListed_canIssueLong (l := 0) (by decide +kernel)
    (nmapFind_set_self ..) (by decide +kernel) (by decide +kernel) load_part
  obtain rfl := eq_loadDone_of_part part
  obtain ⟨_, _, _, old, _⟩ := keeps
  exact load_notOld old

/-- Whatever the lane's transfer makes of the registers, core 0 reads the second of the two bytes, which no load may bring up. -/
theorem load_notKept {u : State} (only : OnlyRegs loadDone u) : ¬ LoadKeeps loadIssued u loader (.virt 64) 4 := by
  intro ⟨_, _, _, _, _, _, _, _, device⟩
  obtain ⟨now, before, home⟩ := load_uncoversOther
  dsimp only at device
  rw [load_translated] at device
  have reads := device (by decide) 0 listedByte false (by decide)
  rw [only.sameDevice.coreByte, now, before, home] at reads
  exact absurd reads (by decide)

/-- Refutes O41: the statement speaks of every state, also of `twiceListed`, whose L1 lists a byte twice; of the line that `passingLoad` reads, that
byte then reads neither as before nor as its home, and the lane's transfer leaves it so. -/
theorem not_loadKeepsTheRest : ¬ Obligations.LoadKeepsTheRest := by
  unfold Obligations.LoadKeepsTheRest
  intro frames
  have performs : Performs (opLd passingLoad).once (partLd passingLoad) (twiceListed.serial + 1) [0] loadIssued
      (partLeft false (twiceListed.serial + 1) loadRecord 0 loadWrites loadDone) :=
    ⟨loadRecord, loadDone, loadWrites, nmapFind_set_self .., by decide +kernel, by decide +kernel, load_part, rfl⟩
  obtain ⟨u, goes, keeps⟩ := frames plainHdr passingLoad twiceListed _ 0 _ twiceListed_canIssueLong (by decide +kernel) (by decide) rfl performs
    load_place
  have left := ((memoryInstructionsComplete.1 plainHdr passingLoad).1 twiceListed _ twiceListed_canIssueLong performs).symm.trans goes
  obtain rfl := Host.Outcome.next.inj left
  refine load_notKept ?_ keeps
  exact (onlyRegs_modOp loadDone _ _).trans (onlyRegs_advance ..)

end Sys2Proof.Laws
end

section
/-! Atomics and the full-empty instructions complete (R271 to R276). -/

namespace Sys2Proof.Laws

open Sys2Proof.Machine

/-! ## Each part goes as its operation performs it -/

/-- An atomic whose release does not wait goes as its part says, when the part knows what its form writes over an old value and whether host
memory offers it (R272 to R274). -/
theorem perfAtom_of_partAtomic {f : RForm} {cas ret : Bool} {g : LaneRec → Nat → Option Nat}
    (writes : ∀ r old, g r old = if cas then casWrites f r old else atomWrites f r old) (s : State) (o : Op) (l : Nat) (t : State) (p : Perf)
    (part : partAtomic f (hostAtomic cas (subBits f 2 0) f.ty) g ret s o l t p) : perfAtom f cas ret s o l = (t, p) ∧ goesWell p := by
  obtain ⟨tgt, s1, old, place, released, done, rfl, rfl⟩ := part
  have free : ¬ ((subBits f 4 3 = 2 ∨ subBits f 4 3 = 3) ∧
      s.releaseHeld (warpCid o.w) (Machine.scopeOfCode (subBits f 7 5)) = true) :=
    fun held => Bool.eq_false_iff.mp (released held.1) held.2
  rw [funext (writes (opRec o l))] at done
  simp only [whoAt, casWrites, atomWrites] at done
  refine ⟨?_, trivial⟩
  simp only [perfAtom, place, if_neg free, done]

theorem perfFeset_of_partFeset {f : RForm} (s : State) (o : Op) (l : Nat) (t : State) (p : Perf) (part : partFeset f s o l t p) :
    perfFeset f s o l = (t, p) ∧ goesWell p := by
  obtain ⟨rfl, rfl⟩ := part
  exact ⟨rfl, trivial⟩

theorem perfFeqry_of_partFeqry {f : RForm} (s : State) (o : Op) (l : Nat) (t : State) (p : Perf) (part : partFeqry f s o l t p) :
    perfFeqry f s o l = (t, p) ∧ goesWell p := by
  obtain ⟨rfl, rfl⟩ := part
  exact ⟨rfl, trivial⟩

/-- Settles O11: each of the instructions runs on the shared issue, and its operation performs what its part says. Host memory offers every CAS,
and how a read-modify-write goes on host memory and on window views (log entry 70) is inside the parts. -/
theorem atomicFullEmptyComplete : Obligations.AtomicFullEmptyComplete := by
  unfold Obligations.AtomicFullEmptyComplete
  intro h f
  refine ⟨?atom, ?red, ?cas, ?feset, ?feqry⟩
  case atom => exact completesLong_of_part (fun _ => rfl) (perfAtom_of_partAtomic (cas := false) fun _ _ => rfl)
  case red => exact completesLong_of_part (fun _ => rfl) (perfAtom_of_partAtomic (cas := false) fun _ _ => rfl)
  case cas => exact completesLong_of_part (fun _ => rfl) (perfAtom_of_partAtomic (cas := true) fun _ _ => rfl)
  case feset => exact completesLong_of_part (fun _ => rfl) perfFeset_of_partFeset
  case feqry => exact completesLong_of_part (fun _ => rfl) perfFeqry_of_partFeqry

end Sys2Proof.Laws
end

section
/-! Multicast, arrival counters and neighbour links complete (R277 to R287, R302, R303). -/

namespace Sys2Proof.Laws

open Sys2Proof.Machine

/-! ## Each part goes as its operation performs it -/

theorem perfMcleave_of_partMcleave {f : RForm} (s : State) (o : Op) (l : Nat) (t : State) (p : Perf) (part : partMcleave s o l t p) :
    perfMcleave f s o l = (t, p) ∧ goesWell p := by
  obtain ⟨g, found, member, rfl, rfl⟩ := part
  refine ⟨?_, trivial⟩
  simp only [perfMcleave, found, member, if_true]

/-- A lawful target and a free counter leave out the ARR traps of ACINIT (R279). -/
theorem perfAcinit_of_partAcinit {f : RForm} (s : State) (o : Op) (l : Nat) (t : State) (p : Perf) (part : partAcinit f s o l t p) :
    perfAcinit f s o l = (t, p) ∧ goesWell p := by
  obtain ⟨cid, g, k, granule, nonzero, within, free, rfl, rfl⟩ := part
  refine ⟨?_, trivial⟩
  simp only [perfAcinit, granule, nonzero, not_lt.mpr within, decide_false, Bool.or_self, Bool.false_eq_true, if_false, free]
  rfl

/-- A counter that takes the arrival, and a release that does not wait (R256, R280). -/
theorem perfArrive_of_partArrive {f : RForm} (s : State) (o : Op) (l : Nat) (t : State) (p : Perf) (part : partArrive f s o l t p) :
    perfArrive f s o l = (t, p) ∧ goesWell p := by
  obtain ⟨k, c, n, counter, takes, free, arrives, rfl⟩ := part
  have accepting : (c.complete && !c.auto) = false := by
    obtain e | e := takes <;> simp [e]
  refine ⟨?_, trivial⟩
  simp only [perfArrive, counter, accepting, free, Bool.false_eq_true, if_false, arrives]

theorem perfAcfree_of_partAcfree {f : RForm} (s : State) (o : Op) (l : Nat) (t : State) (p : Perf) (part : partAcfree s o l t p) :
    perfAcfree f s o l = (t, p) ∧ goesWell p := by
  obtain ⟨k, c, counter, rfl, rfl⟩ := part
  refine ⟨?_, trivial⟩
  simp only [perfAcfree, counter]

/-- No earlier instruction at the link and room in its queue leave NNSEND nothing to wait for (R303). -/
theorem perfNnsend_of_partNnsend {f : RForm} (s : State) (o : Op) (l : Nat) (t : State) (p : Perf) (part : partNnsend f s o l t p) :
    perfNnsend f s o l = (t, p) ∧ goesWell p := by
  obtain ⟨n, k, leads, rfl, first, room, rfl, rfl⟩ := part
  refine ⟨?_, trivial⟩
  simp only [perfNnsend, leads, first, not_le.mpr room, decide_false, Bool.or_self, Bool.false_eq_true, if_false]

theorem perfNnrecv_of_partNnrecv {f : RForm} (s : State) (o : Op) (l : Nat) (t : State) (p : Perf) (part : partNnrecv f s o l t p) :
    perfNnrecv f s o l = (t, p) ∧ goesWell p := by
  obtain ⟨k, n, e, rfl, first, rfl, oldest, sound, rfl, rfl⟩ := part
  refine ⟨?_, trivial⟩
  simp only [perfNnrecv, first, Bool.false_eq_true, if_false, oldest, sound]
  rfl

/-- Settles O12: each of the instructions runs on the shared issue, and its operation performs what its part says. That a group's first generation
is 0 (log entry 30), that every gang's entries and those on the link count toward a full queue (log entry 92), and that LDMC first writes home
what its core has written of the line (log entry 31), are inside the parts. -/
theorem exchangeInstructionsComplete : Obligations.ExchangeInstructionsComplete := by
  unfold Obligations.ExchangeInstructionsComplete
  refine ⟨fun h f => ?ldmc, fun h f => ⟨?mcjoin, ?mcleave, ?acinit, ?arrive, ?acfree, ?nnsend, ?nnrecv⟩⟩
  case ldmc => exact completesLong_of_part (fun _ => rfl) perfLdmc_of_partLdmc
  case mcjoin => exact completesLong_of_part (fun _ => rfl) perfMcjoin_of_partMcjoin
  case mcleave => exact completesLong_of_part (fun _ => rfl) (perfMcleave_of_partMcleave (f := f))
  case acinit => exact completesLong_of_part (fun _ => rfl) perfAcinit_of_partAcinit
  case arrive => exact completesLong_of_part (fun _ => rfl) perfArrive_of_partArrive
  case acfree => exact completesLong_of_part (fun _ => rfl) (perfAcfree_of_partAcfree (f := f))
  case nnsend => exact completesLong_of_part (fun _ => rfl) perfNnsend_of_partNnsend
  case nnrecv => exact completesLong_of_part (fun _ => rfl) perfNnrecv_of_partNnrecv

end Sys2Proof.Laws
end

section
/-! CPY and XFORM are accepted, and the tensor and packed-tile instructions complete (R289 to R301). -/

namespace Sys2Proof.Laws

open Sys2Proof.Machine

/-! ## Each part goes as its operation performs it -/

/-- A record that is read, and parts that end with their bytes, leave TLD its elements (R298). -/
theorem perfTld_of_partTld {f : RForm} (s : State) (o : Op) (l : Nat) (t : State) (p : Perf) (part : partTld f s o l t p) :
    perfTld f s o l = (t, p) ∧ goesWell p := by
  obtain ⟨s1, y, bs, record, read, rfl⟩ := part
  refine ⟨?_, trivial⟩
  simp only [perfTld, record]
  split
  · next s2 bs2 goes =>
    cases goes.symm.trans read
    rfl
  · next s2 a goes => cases goes.symm.trans read

/-- A record in a space that may be written, none of whose elements raises a cause, leaves TST its stores (R298). -/
theorem perfTst_of_partTst {f : RForm} (s : State) (o : Op) (l : Nat) (t : State) (p : Perf) (part : partTst f s o l t p) :
    perfTst f s o l = (t, p) ∧ goesWell p := by
  obtain ⟨s1, y, record, writable, sound, stored, rfl⟩ := part
  refine ⟨?_, trivial⟩
  simp only [perfTst, record, if_neg writable, sound, stored]

/-- The ranges of the record are judged only where the record is sound and the tile is one of its own (log entry 34). -/
theorem perfPkst_of_partPkst {f : RForm} (s : State) (o : Op) (l : Nat) (t : State) (p : Perf) (part : partPkst f s o l t p) :
    perfPkst f s o l = (t, p) ∧ goesWell p := by
  obtain ⟨s1, q, record, inside, stored, rfl⟩ := part
  have sound : (if q.ok && decide (((opRec o l).b.truncate 32 : Word).toNat < q.ntile) then pkCause (s.wgCoreOf o.w) q else none) = none := by
    split
    · next judged => exact inside (by simpa using judged)
    · rfl
  refine ⟨?_, trivial⟩
  simp only [perfPkst, record, sound, stored]
  rfl

theorem perfPkld_of_partPkld {f : RForm} (s : State) (o : Op) (l : Nat) (t : State) (p : Perf) (part : partPkld f s o l t p) :
    perfPkld f s o l = (t, p) ∧ goesWell p := by
  obtain ⟨s1, q, ws, record, loaded, rfl⟩ := part
  refine ⟨?_, trivial⟩
  simp only [perfPkld, record, loaded]
  rfl

/-- Settles O14: each of the instructions runs on the shared issue, and its operation performs what its part says. That PKST judges the ranges of a
store only for a sound record and a tile of its own, and PKLD likewise, is the model's choice (log entry 34), inside the parts. -/
theorem engineTensorComplete : Obligations.EngineTensorComplete := by
  unfold Obligations.EngineTensorComplete
  intro h f
  refine ⟨?cpy, ?xform, ?tld, ?tst, ?pkst, ?pkld⟩
  case cpy => exact completesLong_of_part (fun _ => rfl) perfEngine_of_partEngine
  case xform => exact completesLong_of_part (fun _ => rfl) perfEngine_of_partEngine
  case tld => exact completesLong_of_part (fun _ => rfl) perfTld_of_partTld
  case tst => exact completesLong_of_part (fun _ => rfl) perfTst_of_partTst
  case pkst => exact completesLong_of_part (fun _ => rfl) perfPkst_of_partPkst
  case pkld => exact completesLong_of_part (fun _ => rfl) perfPkld_of_partPkld

end Sys2Proof.Laws
end

section
/-! The operations of a submission queue and the host's writes of its registers complete (R326 to R328). -/

namespace Sys2Proof.Laws

open Sys2Proof.Machine

/-! ## A queue's register block -/

@[simp] theorem queue_setQueue (s : State) (q : Nat) (x : Queue) : (s.setQueue q x).queue q = x := by
  simp [State.queue, State.setQueue]

/-- Whether QCTL is valid turns on the contexts, which no write of a queue's register block changes. -/
@[simp] theorem setQueue_qctlOk (s : State) (q : Nat) (x y : Queue) : (s.setQueue q x).qctlOk y = s.qctlOk y := rfl

/-! ## The operation of the next entry -/

section
variable {s t : State} {q : Nat} {e : QEntry} (entry : s.queueEntry q = (t, some e))
include entry

theorem exec_queueNop_of_entry (nop : e.op = 0) : exec (.queueNop q) s = .next (t.queueDone q) := by
  refine next_congr ?_
  simp only [entry, nop, if_true]

/-- An entry that admission has not yet taken makes a request of its own (R313, R328). -/
theorem exec_queueSubmit_of_entry (submit : e.op = 1)
    (fresh : t.adms.any (fun a => a.2.queue = some q && a.2.entry = (t.queue q).qhead) = false) :
    let x := t.queue q
    let a : AdmReq :=
      { ctx := x.ctx, addr := e.graph, queue := some q, op := none, graph := none, since := 0, entry := x.qhead,
        host := x.qctl.getLsbD 12, status := x.entryAddr + 0x20, fault := none }
    exec (.queueSubmit q) s = .next
      { t.setQueue q { x with stat := 1 } with serial := t.serial + 1, adms := nmapSet t.adms (t.serial + 1) a } := by
  refine next_congr ?_
  simp only [entry, submit, fresh, ne_eq, not_true_eq_false, Bool.false_eq_true, if_false]

theorem exec_queueWait_of_entry {u : State} {v : Nat} (wait : e.op = 2)
    (token : t.readRecord (t.queue q).ctx e.tokaddr 8 = (u, .ok v)) :
    exec (.queueWait q) s = .next (if e.tokval ≤ v then u.queueDone q else u.setQueue q { u.queue q with stat := 2 }) := by
  refine next_congr ?_
  simp only [entry, wait, token, ne_eq, not_true_eq_false, if_false]

/-- With no graph of the queue left and a token address below the windows of generic addresses (R232), the write of the token alone decides (R328). -/
theorem exec_queueSignal_of_entry {u : State} (signal : e.op = 3) (complete : (t.queue q).graphs = [])
    (address : e.tokaddr < 0xFE * 2 ^ 48) (written : t.writeToken (t.queue q).ctx e.tokaddr e.tokval = (u, none)) :
    exec (.queueSignal q) s = .next (u.queueDone q) := by
  refine next_congr ?_
  simp only [entry, signal, complete, if_neg (not_le.mpr address), written, List.isEmpty_nil, ne_eq, not_true_eq_false, Bool.not_true,
    Bool.false_eq_true, if_false]

end

/-! ## The host's writes of a queue's registers -/

/-- A queue once ENABLE has gone from 0 to 1 with a QCTL write (R326). -/
def enabledFrom (x : Queue) (v : Word) : Queue :=
  { x with qctl := v &&& qctlMask, qhead := x.qtail, stat := 0, cause := 0, fault := none }

/-- The admission requests once a queue is enabled anew: none of that queue's is its next entry any longer (R326). -/
def disownedAdms (s : State) (q : Nat) : NMap AdmReq :=
  s.adms.map (fun (e : Nat × AdmReq) => if e.2.queue = some q then (e.1, { e.2 with entry := (s.queue q).qtail - 1 }) else e)

theorem disownedAdms_keys (s : State) (q : Nat) : (disownedAdms s q).map (·.1) = s.adms.map (·.1) := by
  rw [disownedAdms, List.map_map]
  refine List.map_congr_left fun e _ => ?_
  simp only [Function.comp_apply]
  split <;> rfl

section
variable {s : State} {q : Nat} {v : Word} (stage : s.card.stage = 5)
include stage

/-- A stopped queue keeps its cause whatever the tail (log entry 87). -/
theorem exec_queueDoorbell_of_stopped (stopped : (s.queue q).stat = 3) :
    exec (.queueDoorbell q v) s = .next (s.setQueue q { s.queue q with qtail := v }) := by
  refine next_congr ?_
  simp only [stage, stopped, ne_eq, not_true_eq_false, if_false, if_true]

/-- A tail within the queue's entries and not behind the tail that stood there is taken (R326). -/
theorem exec_queueDoorbell_of_within (within : (v - (s.queue q).qhead).toNat ≤ (s.queue q).len)
    (forward : ((s.queue q).qtail - (s.queue q).qhead).toNat ≤ (v - (s.queue q).qhead).toNat)
    (valid : (s.queue q).on = false ∨ s.qctlOk (s.queue q) = true) :
    exec (.queueDoorbell q v) s = .next (s.setQueue q { s.queue q with qtail := v }) := by
  by_cases stopped : (s.queue q).stat = 3
  · exact exec_queueDoorbell_of_stopped stage stopped
  · have lawful : ((s.queue q).on && !s.qctlOk (s.queue q)) = false := by
      obtain e | e := valid <;> simp [e]
    refine next_congr ?_
    refine (if_neg (not_not_intro stage)).trans ((if_neg stopped).trans ((if_neg ?_).trans (if_neg ?_)))
    · exact Bool.eq_false_iff.mp
        (Bool.or_eq_false_iff.mpr ⟨decide_eq_false (not_lt.mpr within), decide_eq_false (not_lt.mpr forward)⟩)
    · exact Bool.eq_false_iff.mp lawful

/-- More entries than the queue holds, or a tail that moves backwards, stops a queue that has not stopped before (R326). -/
theorem exec_queueDoorbell_of_overrun (going : (s.queue q).stat ≠ 3)
    (overrun : (s.queue q).len < (v - (s.queue q).qhead).toNat ∨
      (v - (s.queue q).qhead).toNat < ((s.queue q).qtail - (s.queue q).qhead).toNat) :
    exec (.queueDoorbell q v) s = .next ((s.setQueue q { s.queue q with qtail := v }).stopQueue q 4) := by
  refine next_congr ?_
  refine (if_neg (not_not_intro stage)).trans ((if_neg going).trans (if_pos ?_))
  exact (Bool.or_eq_true _ _).mpr (overrun.imp decide_eq_true decide_eq_true)

/-- ENABLE from 0 to 1 with a QCTL that is valid (R326). -/
theorem exec_queueEnable_of_valid (off : (s.queue q).qctl.getLsbD 31 = false) (enable : v.getLsbD 31 = true)
    (valid : s.qctlOk (enabledFrom (s.queue q) v) = true) :
    exec (.queueEnable q v) s = .next ({ s with adms := disownedAdms s q }.setQueue q (enabledFrom (s.queue q) v)) := by
  refine next_congr ?_
  simp only [stage, off, enable, ne_eq, not_true_eq_false, decide_false, Bool.not_true, Bool.or_self, Bool.false_eq_true, if_false]
  exact if_pos valid

theorem exec_queueDisable_of_on (disable : v.getLsbD 31 = false) (on : (s.queue q).qctl.getLsbD 31 = true) :
    exec (.queueDisable q v) s = .next (s.setQueue q { s.queue q with qctl := (s.queue q).qctl &&& 0x7FFFFFFF#32, fault := none }) := by
  refine next_congr ?_
  simp only [stage, disable, on, ne_eq, not_true_eq_false, decide_false, Bool.or_self, Bool.false_eq_true, if_false, if_true]

theorem exec_queueDisable_of_off (disable : v.getLsbD 31 = false) (off : (s.queue q).qctl.getLsbD 31 = false) :
    exec (.queueDisable q v) s = .next (s.setQueue q { s.queue q with qctl := v &&& qctlMask }) := by
  refine next_congr ?_
  simp only [stage, disable, off, ne_eq, not_true_eq_false, decide_false, Bool.or_self, Bool.false_eq_true, if_false]

end

/-- Settles O27: each operation and each write takes the branch that its premises name. That a stopped queue keeps its cause and that an overrun
stops a queue that is disabled too (log entries 87 and 49) are the first and the second of the doorbell's clauses. -/
theorem queuesComplete : Obligations.QueuesComplete := by
  unfold Obligations.QueuesComplete
  refine ⟨fun s t q e entry => ⟨?nop, ?submit, ?wait, ?signal⟩,
    fun s q v stage => ⟨?taken, ?overrun, ?enable, ?disable, ?configure⟩⟩
  case nop => exact exec_queueNop_of_entry entry
  case submit => exact exec_queueSubmit_of_entry entry
  case wait => exact fun u v => exec_queueWait_of_entry entry
  case signal => exact fun u => exec_queueSignal_of_entry entry
  case taken =>
    rintro (stopped | ⟨within, forward, valid⟩)
    · exact exec_queueDoorbell_of_stopped stage stopped
    · exact exec_queueDoorbell_of_within stage within forward valid
  case overrun => exact exec_queueDoorbell_of_overrun stage
  case enable =>
    exact fun off enable valid =>
      ⟨_, exec_queueEnable_of_valid stage off enable valid, queue_setQueue _ _ _, disownedAdms_keys s q⟩
  case disable => exact exec_queueDisable_of_on stage
  case configure => exact exec_queueDisable_of_off stage

end Sys2Proof.Laws
end

section
/-! Waits that have gone on too long end their context (R376, R377, R424, R455). -/

namespace Sys2Proof.Laws

open Sys2Proof.Machine

/-- The warps of a context with a lane over its count (R377). -/
def overdueWarps (t : State) (c : Nat) : List Nat :=
  (t.warps.filter (fun e => e.2.ctx = c && !(t.overdue e.1).isEmpty)).map (·.1)

/-- The overdue lanes of a warp (R377). -/
def overdueMask (t : State) (w : Nat) : Mask := maskOf ((t.overdue w).map (·.lane))

/-- What the watchdog captures of the warp `v`, whose lowest overdue lane waits in `o`, and of the overdue warps `due` (R424, R455). -/
def watchdogCapture (t : State) (due : List Nat) (v : Nat) (o : Overdue) : FatalInfo :=
  { w := v, lanes := overdueMask t v, pc := o.pc, cause := Cause.waitto.code, sub := o.code, faddr := 0,
    flags := if (t.overdue v).any (fun q => t.inHandler v q.lane) then 1 else 0,
    fmasks := due.foldl (fun (m : NMap Mask) u => nmapSet m u (overdueMask t u)) [], ended := t.endedWaits due }

/-- The watchdog judges the waits that are left once those that are over have ended, and captures the first of the overdue warps by WHERE. -/
theorem exec_waitWatchdogFire_of_overdue {s t : State} {w v : Nat} {o : Overdue} {vs : List Nat} {os : List Overdue} (ended : s.endWaits w = t)
    (present : (nmapFind t.warps w).isSome = true) (late : t.overdue w ≠ [])
    (lowest : sortBy (fun a b => decide (t.whereOf a < t.whereOf b)) (overdueWarps t (t.warp w).ctx) = v :: vs)
    (waits : t.overdue v = o :: os) :
    exec (.waitWatchdogFire w) s =
      .next (t.fatalEnd (t.warp w).ctx (watchdogCapture t (overdueWarps t (t.warp w).ctx) v o)) := by
  have fires : ¬ ((nmapFind t.warps w).isNone || (t.overdue w).isEmpty) = true := by
    simp [late, Option.isSome_iff_ne_none.mp present]
  refine next_congr ?_
  rw [ended]
  refine (if_neg fires).trans ?_
  unfold watchdogCapture overdueMask
  unfold overdueWarps at lowest ⊢
  simp only [lowest, waits]

/-- Settles O21: the capture of the obligation is the watchdog's own, of the first of the context's overdue warps by WHERE. -/
theorem watchdogFires : Obligations.WatchdogFires := by
  unfold Obligations.WatchdogFires
  intro s w v o vs os t due present late lowest waits
  rw [exec_waitWatchdogFire_of_overdue rfl present late lowest waits, watchdogCapture, overdueMask, waits]
  rfl

end Sys2Proof.Laws
end

section
/-! Rotation, aging, the ends of YIELD and PAUSE and the entry of a held trap (R365, R367 to R369, R415). -/

namespace Sys2Proof.Laws

open Sys2Proof.Machine

section
variable {s : State} {w : Nat} (present : (nmapFind s.warps w).isSome = true)
include present

theorem exec_rotationSlot_of_due (due : rotationDue (s.warp w) = true) (unselected : s.cur.mask = 0) :
    exec (.rotationSlot w) s = .next (s.takeSlot State.nextWaits w true) :=
  next_congr (if_pos (by simp [present, due, unselected]))

/-- A ready warp that has waited 64 cc unselected ages, unless a demotion has more than its last cc to run (R367, R369). -/
theorem exec_warpAged_of_due (waited : 64 ≤ (s.warp w).waited) (undemoted : (s.warp w).demotedLeft ≤ 1) (young : (s.warp w).aged = false)
    (ready : s.ready State.nextWaits w = true) : exec (.warpAged w) s = .next (s.setWarp w { s.warp w with aged := true }) := by
  have due : agedDue (s.warp w) = true := by simp [agedDue, waited, undemoted, young]
  exact next_congr (if_pos (by simp [present, due, ready]))

theorem exec_yieldPeriodEnd_of_last (last : (s.warp w).yieldLeft = 1) :
    exec (.yieldPeriodEnd w) s = .next (s.setWarp w { s.warp w with yieldLeft := 0 }) :=
  next_congr (if_pos (by simp [present, last]))

theorem exec_demotionEnd_of_last (last : (s.warp w).demotedLeft = 1) :
    exec (.demotionEnd w) s = .next (s.setWarp w { s.warp w with demotedLeft := 0 }) :=
  next_congr (if_pos (by simp [present, last]))

/-- With no lane of the warp in a handler, the activation that a held trap waits for has ended (R415). -/
theorem exec_trapEntry_of_normal (normal : (s.warp w).hmode = 0) : exec (.trapEntry w) s = .next (s.enterHandler w) :=
  next_congr (if_pos (by simp [present, normal]))

end

/-- Settles O20: each event is due in the state that its premises name. -/
theorem schedulingEventsComplete : Obligations.SchedulingEventsComplete := by
  unfold Obligations.SchedulingEventsComplete
  exact fun s w present =>
    ⟨exec_rotationSlot_of_due present, exec_warpAged_of_due present, exec_yieldPeriodEnd_of_last present, exec_demotionEnd_of_last present,
     exec_trapEntry_of_normal present⟩

end Sys2Proof.Laws
end

section
/-! Invalidations, fault records and their answers, and pre-emption (R384 to R387, R398 to R400, R402, R439). -/

namespace Sys2Proof.Laws

open Sys2Proof.Machine

section
variable {s : State}

/-! ## Invalidations -/

/-- An invalidation starts with the registers as they stand, and abandons the promotions through a page that it covers (R398, R402). -/
theorem exec_invalidationStart_of_stage (serial : Word) (stage : s.card.stage = 5) :
    ∃ t, exec (.invalidationStart serial) s = .next t ∧
      t.card = { s.card with igo := s.card.igo ++ [(serial, s.card.iva.toNat, s.card.inum.toNat, s.card.ictx.toNat)] } ∧
      t.mem.promos = s.mem.promos.filter (fun p => !invCovers s.card.iva.toNat s.card.inum.toNat s.card.ictx.toNat p.ctx p.page 4096) :=
  ⟨_, next_congr (if_neg (by simp [State.isReady, stage])), rfl, rfl⟩

/-- The card after an invalidation: lines not yet read translated anew, the entries it covers out of the caches, its serial in IDONE (R398, log
entry 52). -/
def invalidated (s : State) (serial : Word) (iva inum ictx : Nat) (rest : List (Word × Nat × Nat × Nat)) : State :=
  { s with
    holds := s.rewalkHolds iva inum ictx s.holds
    saved := s.saved.map (fun (e : Nat × Saved) => (e.1, { e.2 with holds := s.rewalkHolds iva inum ictx e.2.holds }))
    mem := { s.mem with tlb := s.mem.tlb.filter (fun t => !invCovers iva inum ictx t.ctx t.va t.size) }
    card := { s.card with igo := rest, idone := serial } }

/-- Once no job of the context has a line under way and every unread line can be translated again, the oldest invalidation completes. -/
theorem exec_invalidationComplete_of_performed {serial : Word} {iva inum ictx : Nat} {rest : List (Word × Nat × Nat × Nat)}
    (oldest : s.card.igo = (serial, iva, inum, ictx) :: rest)
    (performed : s.allJobs.any (fun j => j.ctx = ictx && (!j.out.isEmpty || !j.redo.isEmpty)) = false)
    (readable : s.allHolds.any (fun r => r.unread iva inum ictx && (s.rewalk r).isNone) = false) :
    exec .invalidationComplete s = .next (invalidated s serial iva inum ictx rest).retake := by
  refine next_congr ?_
  rw [oldest]
  exact if_neg (Bool.eq_false_iff.mp (Bool.or_eq_false_iff.mpr ⟨performed, readable⟩))

/-! ## Fault records and their answers -/

/-- A fault's record as the buffer receives it (R399). -/
def recordOf (s : State) (f : FaultRec) : FaultRec :=
  { f with serial := s.card.fbserial, written := true, lanes := s.faultLanes f, ptag := (s.ctx f.ctx).ptag }

/-- The card once the record of a waiting fault is written at the head (R399). -/
def withRecord (s : State) (f : FaultRec) : State :=
  let waiting := s.faults.takeWhile (fun q => q.written)
  { s.writeHost (s.card.fbbase.toNat + 64 * (s.card.fbhead.toNat % 2 ^ (s.card.fbctl.extractLsb' 0 5).toNat)) (faultBytes (recordOf s f)) with
    faults := waiting ++ (if f.done then [] else [recordOf s f]) ++ s.faults.drop (waiting.length + 1)
    card := { s.card with fbhead := s.card.fbhead + 1, fbserial := s.card.fbserial + 1, msix := setBit16 s.card.msix 0 true } }

theorem exec_faultRecordWrite_of_room {f : FaultRec} (first : s.faults.find? (fun f => !f.written) = some f) (room : s.faultRoom = true) :
    exec .faultRecordWrite s = .next (withRecord s f) := by
  refine next_congr ?_
  rw [first]
  exact if_neg (by simp [room])

/-- A record not yet answered stays outstanding (R399, R400). -/
theorem recordOf_mem_faults {f : FaultRec} (unanswered : f.done = false) : recordOf s f ∈ (withRecord s f).faults := by
  simp [withRecord, unanswered]

theorem exec_faultBufferTail_of_exposed (v : Word) (exposed : s.exposed = true) :
    exec (.faultBufferTail v) s = .next { s with card := { s.card with fbtail := v } } :=
  next_congr (if_pos exposed)

theorem exec_replayRetry_of_clear {v : BitVec 64} (retry : v.getLsbD 44 = false) : exec (.replayRetry v) s = .next (s.replyTo v) :=
  next_congr (if_neg (Bool.eq_false_iff.mp retry))

theorem exec_replayFail_of_set {v : BitVec 64} (fail : v.getLsbD 44 = true) : exec (.replayFail v) s = .next (s.replyTo v) :=
  next_congr (if_pos fail)

/-! ## Pre-emption -/

/-- A request waits behind those of the block's queue, which is then served (R439). -/
theorem request2_of_room {v : Word} (exposed : s.exposed = true) (room : s.card.prqueue.length < 64) :
    s.request2 v = { s with card := { s.card with prqueue := s.card.prqueue ++ [v &&& 0x13F#32] } }.serve 65 :=
  (if_neg (by simp [exposed])).trans (if_neg (not_le.mpr room))

theorem exec_preemptRequest_of_clear {v : Word} (preempt : v.getLsbD 8 = false) : exec (.preemptRequest v) s = .next (s.request2 v) :=
  next_congr (if_neg (Bool.eq_false_iff.mp preempt))

theorem exec_resumeRequest_of_set {v : Word} (resume : v.getLsbD 8 = true) : exec (.resumeRequest v) s = .next (s.request2 v) :=
  next_congr (if_pos resume)

/-- A context whose lanes have halted, saved: its warps run again when it is resumed (R384, R386). -/
def savedFrom (t : State) (id : Nat) : State :=
  ({ t with warps := t.warps.map (fun (e : Nat × Warp) => if e.2.ctx = id then (e.1, { e.2 with halted := false }) else e) }.saveCtx
    id).setCtx id { t.ctx id with phase := .saved }

/-- The request at the head of the block's queue finished with result 0, and the next ones served (R439; log entry 54). -/
def finishHead (u : State) : State :=
  match u.card.prqueue with
  | [] => u.settle.yardmaster
  | v :: _ => ((u.finishRequest v 0).serve 65).settle.yardmaster

theorem finishHead_of_head {u : State} {v : Word} {vs : List Word} (served : u.card.prqueue = v :: vs) :
    finishHead u = ((u.finishRequest v 0).serve 65).settle.yardmaster := by
  rw [finishHead, served]

/-- A halted context that no job of another one holds up is saved, and the request at the head of the block's queue is finished (R384, R386; log
entry 54). -/
theorem exec_preemptHalt_of_quiesced {c id : Nat} {v : Word} {vs : List Word} (slot : c < 64)
    (named : ctxIdOf c ((nmapFind s.ctxs c).getD Ctx.reset) = id) (free : s.haltHeld id = false)
    (halting : ((nmapFind s.ctxs c).getD Ctx.reset).phase = .halting) (quiet : ((s.quiesce id).ctx id).phase = .halting)
    (served : (savedFrom (s.quiesce id) id).card.prqueue = v :: vs) :
    exec (.preemptHalt c) s = .next ((((savedFrom (s.quiesce id) id).finishRequest v 0).serve 65).settle.yardmaster) := by
  have proceeds : ¬ (64 ≤ c || ((nmapFind s.ctxs c).getD Ctx.reset).phase ≠ .halting || s.haltHeld id) = true := by
    simp [slot, halting, free]
  refine next_congr ?_
  rw [named]
  exact (if_neg proceeds).trans ((if_neg (not_not_intro quiet)).trans (finishHead_of_head served))

end

/-- Settles O29: each event takes the branch that its premises name. That an invalidation translates lines not yet read anew (log entry 52) is inside
`invalidated`, and that the request in service is the head of the queue (log entry 54) is the last premise of the halt. -/
theorem translationPreemptionEventsComplete : Obligations.TranslationPreemptionEventsComplete := by
  unfold Obligations.TranslationPreemptionEventsComplete
  intro s
  refine ⟨?start, ?complete, ?record, ?tail, ?retry, ?fail, ?request, ?halt⟩
  case start => exact fun serial => exec_invalidationStart_of_stage serial
  case complete => exact fun serial iva inum ictx rest => exec_invalidationComplete_of_performed
  case record =>
    exact fun f first room => ⟨withRecord s f, recordOf s f, exec_faultRecordWrite_of_room first room, rfl, recordOf_mem_faults, rfl, rfl⟩
  case tail => exact exec_faultBufferTail_of_exposed
  case retry => exact fun v => exec_replayRetry_of_clear
  case fail => exact fun v => exec_replayFail_of_set
  case request =>
    intro v exposed room
    rw [← request2_of_room exposed room]
    exact ⟨exec_preemptRequest_of_clear, exec_resumeRequest_of_set⟩
  case halt => exact fun c v vs slot free halting quiet served => exec_preemptHalt_of_quiesced slot rfl free halting quiet served

end Sys2Proof.Laws
end

section
/-! Promotions that an invalidation abandons, and the counts of a stack that they leave (R398, R402). -/

namespace Sys2Proof.Laws

open Sys2Proof.Machine

section
variable {s : State}

/-- Whether the invalidation that the registers describe covers the page through which a promotion was triggered (R398, R402). -/
def abandons (s : State) (p : Promo) : Bool := invCovers s.card.iva.toNat s.card.inum.toNat s.card.ictx.toNat p.ctx p.page 4096

/-- One more promotion abandoned in the counts of a stack (R402). -/
def abandonedOnce (r : StackRegs) : StackRegs := { r with promabort := satInc r.promabort }

/-- The state once an invalidation has started that covers the page of `p` and of no other promotion (R398, R402). -/
def withoutPromo (s : State) (serial : Word) (p : Promo) : State :=
  { s with
    stackRegs := nmapSet s.stackRegs p.stack (abandonedOnce (s.errBlock p.stack))
    mem := { s.mem with promos := s.mem.promos.filter (fun q => !abandons s q) }
    card := { s.card with igo := s.card.igo ++ [(serial, s.card.iva.toNat, s.card.inum.toNat, s.card.ictx.toNat)] } }

theorem exec_invalidationStart_of_covered {p : Promo} (serial : Word) (stage : s.card.stage = 5)
    (covered : s.mem.promos.filter (abandons s) = [p]) : exec (.invalidationStart serial) s = .next (withoutPromo s serial p) := by
  have counted : (s.mem.promos.filter (abandons s)).foldl
      (fun (m : NMap StackRegs) q => nmapSet m q.stack (abandonedOnce ((nmapFind m q.stack).getD StackRegs.reset))) s.stackRegs =
      nmapSet s.stackRegs p.stack (abandonedOnce (s.errBlock p.stack)) := by
    rw [covered]
    rfl
  refine next_congr ((if_neg (by simp [State.isReady, stage])).trans ?_)
  rw [withoutPromo, ← counted]
  rfl

/-- The promotions that go on are those whose page is not covered (R402). -/
theorem mem_withoutPromo_promos {serial : Word} {p q : Promo} :
    q ∈ (withoutPromo s serial p).mem.promos ↔ q ∈ s.mem.promos ∧ abandons s q = false := by
  simp [withoutPromo]

theorem withoutPromo_errBlock_self (serial : Word) (p : Promo) :
    (withoutPromo s serial p).errBlock p.stack = abandonedOnce (s.errBlock p.stack) := by
  simp [withoutPromo, State.errBlock]

theorem withoutPromo_errBlock_of_ne (serial : Word) {p : Promo} {k : Nat} (other : k ≠ p.stack) :
    (withoutPromo s serial p).errBlock k = s.errBlock k := by
  rw [State.errBlock, withoutPromo, nmapFind_set_of_ne _ _ other, State.errBlock]

end

/-- Settles O54: the promotion leaves the list and one count of its stack is stepped; the start of an invalidation writes nothing else of what
the statement names. -/
theorem invalidationAbandonsPromotion : Obligations.InvalidationAbandonsPromotion := by
  unfold Obligations.InvalidationAbandonsPromotion
  intro s serial p stage covers covered
  refine ⟨_, exec_invalidationStart_of_covered serial stage covered, fun q => mem_withoutPromo_promos, rfl, rfl, rfl, rfl, ?stepped, ?kept⟩
  case stepped => exact congrArg StackRegs.promabort (withoutPromo_errBlock_self serial p)
  case kept => exact fun k other => congrArg StackRegs.promabort (withoutPromo_errBlock_of_ne serial other)

end Sys2Proof.Laws
end

section
/-! The handler's own instructions complete (R408, R421, R422, R429). -/

namespace Sys2Proof.Laws

open Sys2Proof.Machine

section
variable {h : Hdr} {f : RForm} {s : State}

theorem privOutside_of_inHandler {c : Rd} (handling : s.inHandler c.w c.l = true) : privOutside s c = none := if_pos handling

/-! ## Special registers -/

/-- WRSR raises PRIV in no lane when its target is writable in every mode, or in handler mode and every lane is in it (R408). -/
theorem preWrsr_of_writable {c : Rd}
    (writable : srNum f.sb = 0x30 ∨ srNum f.sb = 0x31 ∨ srNum f.sb = 0x32 ∨
      ((srNum f.sb = 0x50 ∨ srNum f.sb = 0x51 ∨ srNum f.sb = 0x52) ∧ s.inHandler c.w c.l = true)) : preWrsr f s c = none := by
  obtain e | e | e | ⟨e | e | e, handling⟩ := writable <;> simp [preWrsr, e]
  all_goals exact privOutside_of_inHandler handling

/-- The write of WRSR, for a target that it may write, as one choice by the number of the register (R408). -/
theorem outWrsr_of_writable
    (number : srNum f.sb = 0x30 ∨ srNum f.sb = 0x31 ∨ srNum f.sb = 0x32 ∨ srNum f.sb = 0x50 ∨ srNum f.sb = 0x51 ∨ srNum f.sb = 0x52)
    (s : State) (c : Rd) :
    outWrsr f s c =
      let x := s.src c f.ty f.sa
      ⟨if srNum f.sb = 0x30 then [.fpflags (x.truncate 32)] else if srNum f.sb = 0x31 then [.fpctl (x.truncate 32)]
        else if srNum f.sb = 0x32 then [.rng c.l (x.truncate 32)] else if srNum f.sb = 0x50 then [.trapbase x]
        else if srNum f.sb = 0x51 then [.traphandler (x.truncate 32)] else [.wdog (x.truncate 32)], 0⟩ := by
  obtain e | e | e | e | e | e := number <;> simp [outWrsr, e]

theorem exec_wrsr_of_writable (can : s.CanIssue h (checkOf (.wrsr h f)))
    (writable : srNum f.sb = 0x30 ∨ srNum f.sb = 0x31 ∨ srNum f.sb = 0x32 ∨
      ((srNum f.sb = 0x50 ∨ srNum f.sb = 0x51 ∨ srNum f.sb = 0x52) ∧ ∀ l ∈ lanesOf s.cur.mask, s.inHandler s.cur.w l = true)) :
    exec (.wrsr h f) s = .next (s.landed h (outWrsr f)) := by
  have pre : ∀ l ∈ lanesOf s.cur.mask, preWrsr f s (s.rdFor 0 l) = none := fun l hl =>
    preWrsr_of_writable (writable.imp_right (Or.imp_right (Or.imp_right (And.imp_right fun handling => handling l hl))))
  exact next_congr (issueFixed_landed_of_quiet can pre (fun _ _ => rfl) (fun _ _ => rfl) (fun _ _ => rfl))

/-! ## Registers of the interrupted code -/

section
variable (handling : ∀ l ∈ lanesOf s.cur.mask, s.inHandler s.cur.w l = true)
include handling

/-- A read of a register that no parked replay is to write, and that is not poisoned (R421, R429). -/
theorem exec_rdir_of_clean (can : s.CanIssue h (checkOf (.rdir h f))) (still : ∀ l ∈ lanesOf s.cur.mask, irWaits f f.sa s (s.rdFor 0 l) = false)
    (clean : ∀ l ∈ lanesOf (s.activeSet h), irPoison f s (s.rdFor 0 l) = none) :
    exec (.rdir h f) s = .next (s.landed h (outRdir f)) :=
  next_congr (issueFixed_landed_of_quiet can (fun l hl => privOutside_of_inHandler (handling l hl)) still clean (fun _ _ => rfl))

theorem exec_wrir_of_still (can : s.CanIssue h (checkOf (.wrir h f))) (still : ∀ l ∈ lanesOf s.cur.mask, irWaits f f.sb s (s.rdFor 0 l) = false) :
    exec (.wrir h f) s = .next (s.landed h (outWrir f)) :=
  next_congr (issueFixed_landed_of_quiet can (fun l hl => privOutside_of_inHandler (handling l hl)) still (fun _ _ => rfl) (fun _ _ => rfl))

end

/-! ## Return from a trap -/

/-- In handler mode, with nothing left that a lane waits for, RFT raises nothing and the lanes of M leave (R422). -/
theorem exec_rft_of_idle (can : s.CanIssue h (checkOf (.rft h f)))
    (handling : ∀ l ∈ lanesOf s.cur.mask, s.inHandler s.cur.w l = true) (idle : ∀ l ∈ lanesOf s.cur.mask, s.laneBusy s.cur.w l = false)
    (records : ∀ l ∈ lanesOf s.cur.mask, s.recordWaits .m s.cur.w l = false) :
    exec (.rft h f) s = .next ((s.advance s h s.cur.w s.cur.pc (s.activeSet h) (s.offSet h)).leaveHandler s.cur.w (f.sub.getLsbD 0)
      (s.activeSet h)) := by
  have lanes : s.readyLanes h (checkOf (.rft h f)) .m s.cur.w s.cur.mask (s.laneBusy s.cur.w) = s.cur.mask :=
    readyLanes_eq can.free records can.ready (fun l hl => idle l (mem_of_guardMask hl))
  have causes : s.issueCauses h (checkOf (.rft h f)) (fun l => privOutside s (s.rdFor 0 l)) (fun _ => none) s.cur.w s.cur.mask = [] :=
    issueCauses_nil can (fun l hl => privOutside_of_inHandler (handling l hl)) (fun _ _ => rfl)
  simp only [State.rdFor] at causes
  refine next_congr ?_
  simp only [issueRft, lanes, causes, List.map_nil, maskOf_nil, and_not_zero, raise_nil]
  rfl

end

/-- Settles O7: none of the four raises PRIV in a mode that may run it, and none is held up. -/
theorem handlerInstructionsComplete : Obligations.HandlerInstructionsComplete := by
  unfold Obligations.HandlerInstructionsComplete
  refine ⟨fun h f s can writable => ?wrsr, fun h f s handling => ⟨?rdir, ?wrir⟩, fun h f s can ready => ?rft⟩
  case wrsr =>
    have result := outWrsr_of_writable (writable.imp_right (Or.imp_right (Or.imp_right And.left)))
    rw [exec_wrsr_of_writable can writable]
    exact next_congr (congrArg (s.landed h) (funext₂ result))
  case rdir => exact exec_rdir_of_clean handling
  case wrir => exact exec_wrir_of_still handling
  case rft =>
    choose handling idle records using ready
    exact exec_rft_of_idle can handling idle records

end Sys2Proof.Laws
end

section
/-! Creation, end and teardown of a context (R388, R389, R424). -/

namespace Sys2Proof.Laws

open Sys2Proof.Machine

/-- The context of a slot of the card. -/
def slotCtx (s : State) (c : Nat) : Ctx := (nmapFind s.ctxs c).getD Ctx.reset

/-- The cores whose L1 lists a byte. -/
def cachedCores (s : State) : List Nat := dedupNat (s.mem.l1.map (fun e => e.1 / 2 ^ 52))

/-- A context as it is created (R388). -/
def created (x : Ctx) : Ctx :=
  { x with valid := true, live := true, gen := x.gen + 1, phase := .running, launchQ := [], replies := [], swapped := [] }

section
variable {s : State} {c : Nat} {v : Word} (slot : c < 64)
include slot

theorem exec_contextCreate_of_free (stage : s.card.stage = 5) (set : v.getLsbD 0 = true) (invalid : (slotCtx s c).valid = false)
    (dead : (slotCtx s c).live = false) :
    exec (.contextCreate c v) s = .next { s with ctxs := nmapSet s.ctxs c (created (slotCtx s c)) } := by
  have proceeds : ¬ (64 ≤ c || !s.isReady || !v.getLsbD 0 || (slotCtx s c).valid || (slotCtx s c).live) = true := by
    rw [set, invalid, dead]
    simp [slot, State.isReady, stage]
  exact next_congr (if_neg proceeds)

/-- A live context that is not ending yet ends with its work discarded (R389). -/
theorem exec_contextEnd_of_live (stage : s.card.stage = 5) (clear : v.getLsbD 0 = false) (valid : (slotCtx s c).valid = true)
    (live : (slotCtx s c).live = true) (going : (slotCtx s c).phase ≠ .ending) :
    let t := s.discard (ctxIdOf c (slotCtx s c))
    exec (.contextEnd c v) s = .next
      { t with ctxs := nmapSet t.ctxs c { slotCtx t c with valid := false, phase := .ending, launchQ := [], replies := [] } } := by
  have proceeds : ¬ (64 ≤ c || !s.isReady || v.getLsbD 0 || !(slotCtx s c).valid) = true := by
    rw [clear, valid]
    simp [slot, State.isReady, stage]
  have ends : ((slotCtx s c).live && (slotCtx s c).phase ≠ .ending) = true := by simp [live, going]
  unfold slotCtx at *
  refine next_congr ((if_neg proceeds).trans ?_)
  simp only [if_pos ends, if_pos live]

/-- Once no job owns a written line, the L1s are written back and nothing of the context is left (R389; log entries 53 and 93). -/
theorem exec_contextTeardownComplete_of_ending (live : (slotCtx s c).live = true) (ending : (slotCtx s c).phase = .ending)
    (free : (cachedCores s).any (fun k => s.dirtyOwned k 0 (2 ^ 52)) = false) :
    let t := (cachedCores s).foldl (fun (t : State) k => t.writeBackAll k) s
    exec (.contextTeardownComplete c) s = .next
      ((({ t with cores := t.cores.dropTags (ctxIdOf c (slotCtx s c)),
                  ctxs := nmapSet t.ctxs c { slotCtx s c with live := false, phase := .free } }).serve 65).settle.yardmaster) := by
  have proceeds : ¬ (64 ≤ c || !(slotCtx s c).live || (slotCtx s c).phase ≠ .ending ||
      (cachedCores s).any (fun k => s.dirtyOwned k 0 (2 ^ 52))) = true := by
    rw [live, ending, free]
    simp [slot]
  exact next_congr (if_neg proceeds)

end

/-- Settles O28: each write, and the end of the teardown, takes the branch that its premises name. -/
theorem contextEventsComplete : Obligations.ContextEventsComplete := by
  unfold Obligations.ContextEventsComplete
  exact fun s c v slot stage =>
    ⟨exec_contextCreate_of_free slot stage, exec_contextEnd_of_live slot stage, exec_contextTeardownComplete_of_ending slot⟩

end Sys2Proof.Laws
end

section
/-! Mailbox requests, power, resets, configuration and links (R409 to R411, R433, R436 to R438, R440, R441, R446). -/

namespace Sys2Proof.Laws

open Sys2Proof.Machine

section
variable {s : State}

/-! ## The host mailbox -/

/-- A request that the mailbox takes up is not passed over (R437). -/
theorem if_mailTakes {n : Nat} {α : Type} {a b : α} (takes : s.mailTakes n = true) : (if !s.mailTakes n then a else b) = b :=
  if_neg (by simp [takes])

/-- A report over the nonce in a buffer that holds it (R411). -/
theorem exec_mailboxReport_of_room (takes : s.mailTakes 1 = true) (room : s.reportLen ≤ s.card.mblen.toNat) :
    let body := s.reportBody (s.readHost s.card.mbaddr.toNat 32)
    exec .mailboxReport s = .next ((s.writeHost s.card.mbaddr.toNat
      (body ++ imgBytes (Config.falconSign s.card.idKey (digest64 body)) 0 1280)).mailDone 0) :=
  next_congr ((if_mailTakes takes).trans (if_neg (not_lt.mpr room)))

theorem exec_mailboxIdentityKey_of_room (takes : s.mailTakes 2 = true) (room : 1793 ≤ s.card.mblen.toNat) :
    exec .mailboxIdentityKey s = .next ((s.writeHost s.card.mbaddr.toNat s.card.idPub).mailDone 0) :=
  next_congr ((if_mailTakes takes).trans (if_neg (not_lt.mpr room)))

/-- A list of whole words, each of them a valid entry, is taken in STAGE 2 (R432, R437). -/
theorem exec_mailboxRetirementList_of_valid {es : List (Nat × Nat × Nat)} (takes : s.mailTakes 3 = true) (stage : s.card.stage = 2)
    (whole : s.card.mblen.toNat % 4 = 0)
    (valid : ((List.range (s.card.mblen.toNat / 4)).map (fun k => ofBytes (s.readHost (s.card.mbaddr.toNat + 4 * k) 4))).mapM retEntry =
      some es) :
    exec .mailboxRetirementList s = .next ({ s with card := { s.card with retired := es } }.mailDone 0) := by
  refine next_congr ((if_mailTakes takes).trans ((if_neg (not_not_intro stage)).trans ((if_neg (not_not_intro whole)).trans ?_)))
  simp only [valid]

theorem exec_mailboxProceed_of_stage (env : BootEnv) (takes : s.mailTakes 4 = true) (stage : s.card.stage = 2) :
    exec (.mailboxProceed env) s = .next ((s.proceed env).mailDone 0) :=
  next_congr ((if_mailTakes takes).trans (if_neg (not_not_intro stage)))

/-! ## Configuration -/

theorem exec_configurationTimeout_of_stage (env : BootEnv) (stage : s.card.stage = 2) :
    exec (.configurationTimeout env) s = .next (s.proceed env) :=
  next_congr (if_pos stage)

theorem exec_modebootWrite_of_stage (v : Word) (stage : s.card.stage = 2) :
    exec (.modebootWrite v) s = .next { s with card := { s.card with modeboot := v &&& 0xFFF#32 } } :=
  next_congr (if_pos stage)

theorem exec_moderunWrite_of_exposed (v : Word) (exposed : s.exposed = true) :
    exec (.moderunWrite v) s = .next { s with card := { s.card with
      moderun := moderunStore (s.ctxs.any (fun e => e.2.live)) s.card.moderun v } } :=
  next_congr (if_pos exposed)

/-! ## Links -/

section
variable {port : Nat}

/-- A trained port of the card goes down, to train again later (R441). -/
theorem exec_linkDrop_of_trained (own : port < 4) (trained : s.card.ports.getLsbD port = true) :
    exec (.linkDrop port) s = .next { s with card := { s.card with
      ports := s.card.ports &&& ~~~(1#4 <<< port), dropped := s.card.dropped ||| (1#4 <<< port) } } :=
  next_congr (if_pos ((Bool.and_eq_true _ _).mpr ⟨decide_eq_true own, trained⟩))

theorem exec_linkRetrain_of_dropped (own : port < 4) (dropped : s.card.dropped.getLsbD port = true) :
    exec (.linkRetrain port) s = .next { s with card := { s.card with
      ports := s.card.ports ||| (1#4 <<< port), dropped := s.card.dropped &&& ~~~(1#4 <<< port) } } :=
  next_congr (if_pos ((Bool.and_eq_true _ _).mpr ⟨decide_eq_true own, dropped⟩))

section
variable (far : 4 ≤ port)
include far

/-- A number from 4 on names no port of the card (R441; log entry 59). -/
theorem not_own_port (b : Bool) : ¬ (decide (port < 4) && b) = true := by simp [far]

theorem exec_linkDrop_of_far : exec (.linkDrop port) s = .next { s with card := s.card.setFar port false } :=
  next_congr ((if_neg (not_own_port far _)).trans (if_pos far))

theorem exec_linkRetrain_of_far : exec (.linkRetrain port) s = .next { s with card := s.card.setFar port true } :=
  next_congr ((if_neg (not_own_port far _)).trans (if_pos far))

end

end

end

/-- Settles O31: power and the resets have one meaning in every state; each other event takes the branch that its premises name. That a number from 4
on names a link between other cards is the model's choice (log entry 59). -/
theorem bootEventsComplete : Obligations.BootEventsComplete := by
  unfold Obligations.BootEventsComplete
  refine ⟨fun s => ⟨?report, ?identityKey, ?retirement, ?proceed⟩, fun s => ⟨?powerOn, ?fundamental, ?functionLevel, ?powerLoss, ?timeout,
    ?modeboot, ?moderun, ?drop, ?retrain, ?far⟩⟩
  case report => exact fun room takes => exec_mailboxReport_of_room takes room
  case identityKey => exact exec_mailboxIdentityKey_of_room
  case retirement => exact fun es => exec_mailboxRetirementList_of_valid
  case proceed => exact exec_mailboxProceed_of_stage
  case powerOn => exact fun images => rfl
  case fundamental => rfl
  case functionLevel => rfl
  case powerLoss => rfl
  case timeout => exact exec_configurationTimeout_of_stage
  case modeboot => exact exec_modebootWrite_of_stage
  case moderun => exact exec_moderunWrite_of_exposed
  case drop => exact fun port => exec_linkDrop_of_trained
  case retrain => exact fun port => exec_linkRetrain_of_dropped
  case far => exact fun port far => ⟨exec_linkDrop_of_far far, exec_linkRetrain_of_far far⟩

end Sys2Proof.Laws
end

section
/-! Promotion of frames, changes of world, and the host's accesses (R391, R392, R401, R402, R429, R434). -/

namespace Sys2Proof.Laws

open Sys2Proof.Machine

section
variable {s : State}

/-! ## Promotion -/

theorem exec_promotionEpochEnd_of_complete {stack : Nat} (present : stack < 4) (complete : epochLen ≤ (s.errBlock stack).sc) :
    let r : StackRegs := { s.errBlock stack with epoch := (s.errBlock stack).epoch + 1, sc := (s.errBlock stack).sc - epochLen }
    exec (.promotionEpochEnd stack) s = .next { s with stackRegs := nmapSet s.stackRegs stack r } := by
  have ended : s.epochOver stack = true := by simp [State.epochOver, present, complete]
  exact next_congr (if_pos ended)

section
variable {stack frame : Nat}

/-- A hot frame of the card's GDDR-7 that no stack has promoted or is promoting starts being copied, once a unit of the yard is free (R401,
R402). -/
theorem exec_pagePromotion_of_hot {u c page : Nat} (present : stack < 4) (own : 65536 * frame / 2 ^ 50 = s.cardNo)
    (gddr : s.paKind (65536 * frame) = .gddr) (unmoved : nmapFind s.mem.moved frame = none)
    (idle : s.mem.promos.any (fun p => p.frame = frame) = false) (hot : s.hotFrame stack frame = true)
    (most : s.mostMisses stack frame = true) (room : s.freeUnit stack (s.paSecure (65536 * frame)) = some u)
    (through : s.trigger frame = some (c, page)) :
    let t := s.copyFrame stack frame u true
    exec (.pagePromotion stack frame) s = .next { t with mem := { t.mem with promos := t.mem.promos ++ [⟨stack, frame, u, [], c, page⟩] } } := by
  have promotes : ¬ (4 ≤ stack || 65536 * frame / 2 ^ 50 ≠ s.cardNo || s.paKind (65536 * frame) ≠ .gddr || (nmapFind s.mem.moved frame).isSome
      || s.mem.promos.any (fun p => p.frame = frame) || !s.hotFrame stack frame || !s.mostMisses stack frame) = true := by
    rw [own, gddr, unmoved, idle, hot, most]
    simp [present]
  refine next_congr ((if_neg promotes).trans ?_)
  rw [room, through]

/-- A unit of the yard with the lines of its frame stored to during the copy copied once more (R401). -/
def recopied (s : State) (stack frame : Nat) (p : Promo) : State :=
  (dedupNat (p.marked.map (fun l => l % 512 / 32))).foldl (fun (t : State) k =>
    t.copy4K (frame * 65536 + 4096 * k) (t.yardPa stack (p.yard * 65536 + 4096 * k)) 10 9) s

theorem exec_promotionSwitch_of_found {p : Promo} (found : s.mem.promos.find? (fun p => p.stack = stack && p.frame = frame) = some p) :
    let t := recopied s stack frame p
    exec (.promotionSwitch stack frame) s = .next { t with mem := { t.mem with
      promos := t.mem.promos.filter (fun q => q.frame ≠ frame), moved := nmapSet t.mem.moved frame (stack * 2 ^ 32 + p.yard) } } := by
  refine next_congr ?_
  rw [found]
  rfl

theorem exec_pageDemotion_of_moved {y : Nat} (moved : nmapFind s.mem.moved frame = some y) (here : y / 2 ^ 32 = stack) :
    exec (.pageDemotion stack frame) s = .next (s.demote frame) := by
  refine next_congr ?_
  rw [moved]
  exact if_pos here

end

/-! ## Worlds -/

section
variable {b : BlockId} {secure : Bool} (other : s.isSecure b = !secure)
include other

/-- The world that a block is in is not the one that it is to be in. -/
theorem isSecure_ne : s.isSecure b ≠ secure := by simp [other]

theorem exec_blockWorldChange_of_idle (idle : s.blockIdle b = true) :
    exec (.blockWorldChange b secure) s = .next (((s.setPending b none).clearBlock b).setSecure b secure).yardmaster :=
  next_congr ((if_neg (isSecure_ne other)).trans (if_pos idle))

/-- A change of a block that holds work waits; one of a context slot would be dropped (R388, R391; log entry 56). -/
theorem exec_blockWorldChange_of_busy (busy : s.blockIdle b = false) (block : ∀ c, b ≠ .context c) :
    exec (.blockWorldChange b secure) s = .next (s.setPending b (some secure)) := by
  refine next_congr ((if_neg (isSecure_ne other)).trans ((if_neg (Bool.eq_false_iff.mp busy)).trans ?_))
  split
  · next c => exact absurd rfl (block c)
  · rfl

end

/-! ## BAR2 -/

/-- Whether BAR2 reaches a run of bytes at an address of the card (R434). -/
def barReaches (s : State) (addr len : Nat) : Bool :=
  s.isReady && decide (addr + len ≤ 2 ^ 38) && s.paKind (s.cardNo * 2 ^ 50 + addr) = .gddr && decide (addr + len ≤ s.gddrEnd)

theorem barReaches_iff {addr len : Nat} : barReaches s addr len = true ↔
    s.card.stage = 5 ∧ addr + len ≤ 2 ^ 38 ∧ s.paKind (s.cardNo * 2 ^ 50 + addr) = .gddr ∧ addr + len ≤ s.gddrEnd := by
  simp only [barReaches, State.isReady, Bool.and_eq_true, decide_eq_true_eq, and_assoc]

/-- The bytes that the host reads where no region is secure are those at the home (R392, R434). -/
theorem exec_hostBar2Access_read {addr n : Nat} (data : List Byte) (reaches : barReaches s addr n = true)
    (clear : ∀ k < n, s.paSecure (s.cardNo * 2 ^ 50 + addr + k) = false) :
    ∃ t, exec (.hostBar2Access false addr n data) s = .next t ∧
      t.hostRead = (List.range n).map (fun k => s.homeByte (s.cardNo * 2 ^ 50 + addr + k)) := by
  refine ⟨_, next_congr (if_pos reaches), List.map_congr_left fun k hk => ?_⟩
  exact if_pos (congrArg not (clear k (List.mem_range.mp hk)))

/-- The places at which a write looks at the world of its bytes all lie in its run (R392). -/
theorem paSecure_of_run {pa len : Nat} (nonempty : 0 < len) (clear : ∀ k < len, s.paSecure (pa + k) = false) (k : Nat) :
    s.paSecure (min (pa + k * 2 ^ 21) (pa + len - 1)) = false := by
  obtain ⟨j, inside, place⟩ : ∃ j < len, min (pa + k * 2 ^ 21) (pa + len - 1) = pa + j := ⟨min (k * 2 ^ 21) (len - 1), by omega, by omega⟩
  rw [place, clear j inside]

section
variable {addr : Nat} {data : List Byte}

theorem exec_hostBar2Access_write (n : Nat) (reaches : barReaches s addr data.length = true) (nonempty : data ≠ [])
    (clear : ∀ k < data.length, s.paSecure (s.cardNo * 2 ^ 50 + addr + k) = false) :
    exec (.hostBar2Access true addr n data) s = .next (s.writeLong (s.cardNo * 2 ^ 50 + addr) (data.length / 32 + 2) data).retake := by
  refine next_congr (if_pos ((Bool.and_eq_true _ _).mpr ⟨reaches, List.all_eq_true.mpr fun k _ => ?_⟩))
  exact congrArg not (paSecure_of_run (List.length_pos_iff.mpr nonempty) clear k)

theorem exec_hostBar2Access_write_dropped (n : Nat) (beyond : barReaches s addr data.length = false) :
    exec (.hostBar2Access true addr n data) s = .next s :=
  next_congr (if_neg (Bool.eq_false_iff.mp ((Bool.and_eq_false_eq_eq_false_or_eq_false _ _).mpr (.inl beyond))))

end

/-! ## BAR0 -/

section
variable {off : Nat} (v : BitVec 64) (exposed : s.exposed = true)
include exposed

theorem exec_registerWrite_word (aligned : off % 4 = 0) :
    exec (.registerWrite off v false) s = .next (s.regWrite off (v.extractLsb' 0 32)) :=
  next_congr ((if_neg (by simp [exposed])).trans (if_pos aligned))

theorem exec_registerWrite_pair (aligned : off % 8 = 0) :
    exec (.registerWrite off v true) s = .next ((s.regWrite off (v.extractLsb' 0 32)).regWrite (off + 4) (v.extractLsb' 32 32)) :=
  next_congr ((if_neg (by simp [exposed])).trans (if_pos aligned))

end

end

/-- Settles O33: each event takes the branch that its premises name. A change of world that waits, the copy of a page and the unit of the yard that it
takes, and the stack that promotes it are the model's choices (log entries 56, 62, 91 and 12). -/
theorem cardEventsComplete : Obligations.CardEventsComplete := by
  unfold Obligations.CardEventsComplete
  intro s
  refine ⟨?epoch, ?promotion, ?switch, ?demotion, ?change, ?waits, ?read, ?write, ?dropped, ?word, ?pair⟩
  case epoch => exact fun stack => exec_promotionEpochEnd_of_complete
  case promotion => exact fun stack frame u c page => exec_pagePromotion_of_hot
  case switch => exact fun stack frame p => exec_promotionSwitch_of_found
  case demotion => exact fun stack frame y => exec_pageDemotion_of_moved
  case change => exact fun b secure idle other => exec_blockWorldChange_of_idle other idle
  case waits => exact fun b secure busy other => exec_blockWorldChange_of_busy other busy
  case read =>
    exact fun addr n data stage window gddr memory => exec_hostBar2Access_read data (barReaches_iff.mpr ⟨stage, window, gddr, memory⟩)
  case write =>
    exact fun addr n data stage window gddr memory => exec_hostBar2Access_write n (barReaches_iff.mpr ⟨stage, window, gddr, memory⟩)
  case dropped =>
    intro addr n data beyond
    refine exec_hostBar2Access_write_dropped n (Bool.eq_false_iff.mpr fun reaches => ?_)
    obtain ⟨stage, window, gddr, memory⟩ := barReaches_iff.mp reaches
    obtain h | h | h | h := beyond
    · exact h stage
    · exact not_le.mpr h window
    · exact h gddr
    · exact not_le.mpr h memory
  case word => exact fun off v => exec_registerWrite_word v
  case pair => exact fun off v => exec_registerWrite_pair v

end Sys2Proof.Laws
end

section
/-! BRK and TRAP take their exception, and what the entry of its handler leaves (R413, R415 to R420). -/

namespace Sys2Proof.Laws

open Sys2Proof.Machine

/-! ## The exception is taken -/

section
variable {h : Hdr} {f : RForm} {s s1 : State}

theorem exec_brk_of_canTrap (can : s.CanIssue h (checkOf (.brk h f))) (takes : s.CanTrap h (s.trapOf h .brk 0 (slotsR f .b32 .b32 .b32)) s1) :
    exec (.brk h f) s = .next (s1.enterLanes s.cur.w (s.trapOf h .brk 0 (slotsR f .b32 .b32 .b32))) :=
  next_congr (issueFixed_trap (subs := fun _ => 0) can (fun _ _ => rfl) (fun _ _ => rfl) (fun _ _ => rfl) takes)

/-- The sub-cause of TRAP in a lane: the low byte of its SA (R420). -/
def trapSub (f : RForm) (s : State) (l : Nat) : Nat := (s.src (s.rdFor 0 l) .b32 f.sa).toNat % 256

theorem exec_trap_of_canTrap (can : s.CanIssue h (checkOf (.trap h f)))
    (takes : s.CanTrap h (s.trapOf h .swt (trapSub f s ((leadOf (s.activeSet h)).getD 0)) (slotsR f .b32 .b32 .b32)) s1) :
    exec (.trap h f) s =
      .next (s1.enterLanes s.cur.w (s.trapOf h .swt (trapSub f s ((leadOf (s.activeSet h)).getD 0)) (slotsR f .b32 .b32 .b32))) := by
  have lowByte (l : Nat) : byteOf (srcN s (s.rdFor 0 l) .b32 f.sa) 0 = trapSub f s l := by simp [byteOf, trapSub, srcN]
  exact next_congr (issueFixed_trap (subs := trapSub f s) can (fun _ _ => rfl) (fun _ _ => rfl)
    (fun l _ => congrArg (fun sub => some (Cause.swt, sub)) (lowByte l)) takes)

end

/-- Settles O8: every lane of M raises the one cause, with its own low byte of SA as TRAP's sub-cause. -/
theorem breakAndTrapTaken : Obligations.BreakAndTrapTaken := by
  unfold Obligations.BreakAndTrapTaken
  exact fun h f s s1 => ⟨exec_brk_of_canTrap, exec_trap_of_canTrap⟩

/-! ## The frame -/

/-- The stores of a frame write memory only (R416). -/
theorem frameStore_onlyMem {s t : State} {c cid va fuel : Nat} {bs : List Byte} (stored : s.frameStore c cid va fuel bs = .ok t) :
    t = { s with mem := t.mem } := by
  induction fuel generalizing s va bs with
  | zero =>
    cases stored
    rfl
  | succ fuel ih =>
    obtain ⟨ts, walked⟩ := translateAt_tlb s 192 c va .write
    rw [State.frameStore, State.translate] at stored
    generalize s.translateAt 192 c va .write = r at stored walked
    obtain ⟨s2, ⟨host, a⟩ | ⟨kind, level, e⟩ | _ | cls⟩ := r
    · obtain rfl : s2 = _ := walked
      cases host with
      | true =>
        have only := ih stored
        exact only
      | false =>
        dsimp only at stored
        split at stored
        · have only := ih stored
          rw [coreWrite_onlyMem] at only
          exact only
        · cases stored
        · cases stored
    all_goals cases stored

theorem writeFrame_onlyMem {s t : State} {w : Nat} {tr : Trap} (stored : s.writeFrame w tr = .ok t) : t = { s with mem := t.mem } := by
  unfold State.writeFrame at stored
  dsimp only at stored
  split at stored
  · cases stored
  · exact frameStore_onlyMem stored

/-- Lanes that move on without a lane of M leave the lanes at their exit as they were (R41). -/
theorem advance_leaving_of_none (s p : State) (h : Hdr) (w : Nat) (pc : Word) (o : Mask) :
    ((s.advance p h w pc 0 o).warp w).leaving = (s.warp w).leaving := by
  unfold State.advance
  split
  · rfl
  · have noLane : lanesOf (0 : Mask) = [] := rfl
    simp only [noLane, setWarp_warp, List.map_nil, List.flatMap_nil]
    split
    · exact BitVec.or_zero
    · rfl

/-- A lane that issues stands at no exit, so where it is trapped is where it resumes (R41, R416). -/
theorem resumeAt_of_framed {s s1 : State} {h : Hdr} {tr : Trap} {l : Nat} (framed : (s.holding h tr).writeFrame s.cur.w tr = .ok s1)
    (free : s.laneBlocked s.cur.w l = false) : s1.resumeAt s.cur.w l = s1.regs.getPc s.cur.w l := by
  have staying : (s.warp s.cur.w).leaving.getLsbD l = false := by
    simp only [State.laneBlocked, Bool.or_eq_false_iff] at free
    exact free.1.1.1.1.2
  have warps : s1.warps = (s.holding h tr).warps := by rw [writeFrame_onlyMem framed]
  have kept : (s1.warp s.cur.w).leaving = (s.warp s.cur.w).leaving := by
    rw [setWarp_warps_congr warps, State.holding, setWarp_warp]
    exact advance_leaving_of_none ..
  rw [State.resumeAt, kept, staying]
  rfl

/-! ## The lanes enter -/

/-- The registers once lanes of a warp have taken their resume pcs into hv0 and gone to the handler (R416). -/
def sentToHandler (s : State) (w : Nat) (ls : List Nat) (r : RegFile) : RegFile :=
  ls.foldl (fun r l => (r.setHv w l 0 (s.resumeAt w l)).setPc w l (s.warp w).traphandler) r

theorem enterLanes_regs (s : State) (w : Nat) (t : Trap) :
    (s.enterLanes w t).regs = sentToHandler s w (lanesOf t.lanes) ((s.regs.setHs w 0 (causeWord t)).setHs w 1 t.lanes) := rfl

theorem sentToHandler_onlyHvPc (s : State) (w : Nat) (ls : List Nat) (r : RegFile) :
    sentToHandler s w ls r = { r with hv := (sentToHandler s w ls r).hv, pc := (sentToHandler s w ls r).pc } := by
  induction ls generalizing r with
  | nil => rfl
  | cons l ls ih => exact ih _

theorem getHv_sentToHandler (s : State) {w k n : Nat} (ls : List Nat) (r : RegFile) (hn : n < 32) :
    (sentToHandler s w ls r).getHv w k n = if k ∈ ls ∧ n = 0 then s.resumeAt w k else r.getHv w k n := by
  induction ls generalizing r with
  | nil => simp [sentToHandler]
  | cons l ls ih =>
    have key : laneKey w k * 32 + n = laneKey w l * 32 + 0 ↔ k = l ∧ n = 0 := by unfold laneKey; omega
    refine (ih _).trans ?_
    rw [getHv_setPc, getHv_setHv]
    simp only [key, List.mem_cons]
    by_cases same : k = l <;> by_cases zero : n = 0 <;> simp [same, zero]

theorem getPc_sentToHandler (s : State) {w k : Nat} {ls : List Nat} (r : RegFile) (lanes : ∀ l ∈ ls, l < 32) (hk : k < 32) :
    (sentToHandler s w ls r).getPc w k = if k ∈ ls then (s.warp w).traphandler else r.getPc w k := by
  induction ls generalizing r with
  | nil => simp [sentToHandler]
  | cons l ls ih =>
    refine (ih _ (fun j hj => lanes j (List.mem_cons_of_mem _ hj))).trans ?_
    rw [Machine.getPc_setPc _ _ _ _ _ _ (lanes l List.mem_cons_self) hk, getPc_setHv]
    by_cases same : k = l <;> simp [same]

section
variable (s : State) (w : Nat) (t : Trap)

/-- hs0 takes the cause word, hs1 the trapped lanes, and no other is written (R416). -/
theorem enterLanes_getHs (n : Nat) :
    (s.enterLanes w t).regs.getHs w n = if n = 0 then causeWord t else if n = 1 then t.lanes else s.regs.getHs w n := by
  have written : (s.enterLanes w t).regs.getHs w n = ((s.regs.setHs w 0 (causeWord t)).setHs w 1 t.lanes).getHs w n := by
    rw [enterLanes_regs, sentToHandler_onlyHvPc]
    rfl
  rw [written, getHs_setHs, getHs_setHs]
  by_cases zero : n = 0
  · simp [zero]
  · by_cases one : n = 1 <;> simp [zero, one]

/-- hv0 of a trapped lane takes its resume pc, and no other is written (R416). -/
theorem enterLanes_getHv (l : Nat) {n : Nat} (hn : n < 32) :
    (s.enterLanes w t).regs.getHv w l n = if t.lanes.getLsbD l = true ∧ n = 0 then s.resumeAt w l else s.regs.getHv w l n := by
  rw [enterLanes_regs, getHv_sentToHandler s _ _ hn, getHv_setHs, getHv_setHs]
  simp only [mem_lanesOf]

theorem enterLanes_getPc {l : Nat} (hl : l < 32) :
    (s.enterLanes w t).regs.getPc w l = if t.lanes.getLsbD l then (s.warp w).traphandler else s.regs.getPc w l := by
  rw [enterLanes_regs, getPc_sentToHandler s _ (fun _ => lanesOf_lt) hl, getPc_setHs, getPc_setHs]
  simp only [mem_lanesOf]

theorem enterLanes_inHandler (l : Nat) : (s.enterLanes w t).inHandler w l = (s.inHandler w l || t.lanes.getLsbD l) := by
  simp [State.inHandler, State.enterLanes]

/-- Of the registers, the entry writes hv, hs and pcs alone (R416). -/
theorem enterLanes_onlyBanksPc :
    (s.enterLanes w t).regs =
      { s.regs with hv := (s.enterLanes w t).regs.hv, hs := (s.enterLanes w t).regs.hs, pc := (s.enterLanes w t).regs.pc } := by
  rw [enterLanes_regs, sentToHandler_onlyHvPc]
  rfl

end

/-- Settles O51: BRK enters the lanes of M, none of which stands at its exit, in the state in which the frame is written. -/
theorem trapEntrySavesAndGoes : Obligations.TrapEntrySavesAndGoes := by
  unfold Obligations.TrapEntrySavesAndGoes
  intro h f s s1 w tr can takes
  have resume (l : Nat) (acts : (s.activeSet h).getLsbD l = true) : s1.resumeAt w l = s1.regs.getPc w l :=
    resumeAt_of_framed takes.frame (can.free l (mem_of_guardMask (mem_lanesOf.mpr acts)))
  have only := enterLanes_onlyBanksPc s1 w tr
  refine ⟨_, exec_brk_of_canTrap can takes, enterLanes_getHs s1 w tr 0, enterLanes_getHs s1 w tr 1, ?scalars, ?trapped, ?others, ?vectors,
    (congrArg RegFile.v only :), (congrArg RegFile.s only :), (congrArg RegFile.p only :), (congrArg RegFile.bt only :), (congrArg RegFile.lc only :),
    (congrArg RegFile.lk only :), (congrArg RegFile.cv only :), (congrArg RegFile.rng only :), rfl, rfl⟩
  case scalars =>
    intro n two _
    rw [enterLanes_getHs, if_neg (by omega), if_neg (by omega)]
  case trapped =>
    intro l hl (acts : tr.lanes.getLsbD l = true)
    rw [enterLanes_getHv s1 w tr l (by omega), enterLanes_getPc s1 w tr hl, enterLanes_inHandler, acts, Bool.or_true]
    exact ⟨(if_pos ⟨rfl, rfl⟩).trans (resume l acts), rfl, rfl⟩
  case others =>
    intro l hl (off : tr.lanes.getLsbD l = false)
    rw [enterLanes_getHv s1 w tr l (by omega), enterLanes_getPc s1 w tr hl, enterLanes_inHandler, off, Bool.or_false]
    exact ⟨rfl, rfl, rfl⟩
  case vectors =>
    intro l _ n positive hn
    rw [enterLanes_getHv s1 w tr l hn, if_neg fun zero => by omega]

end Sys2Proof.Laws
end

section
/-! Where RFT leaves a lane (R37, R416, R422). -/

namespace Sys2Proof.Laws

open Sys2Proof.Machine

/-! ## What a lane's return reads, and what it leaves as it was -/

/-- What the return of a lane reads, what its warp still holds and what is outstanding, windows apart, are the same in both states. -/
structure ReturnKept (w : Nat) (s u : State) : Prop where
  latch : (u.warp w).latch = (s.warp w).latch
  holds : (u.warp w).holds = (s.warp w).holds
  ops : u.ops.map unwindowed = s.ops.map unwindowed
  hv : u.regs.hv = s.regs.hv
  p : u.regs.p = s.regs.p

section
variable {w : Nat} {s u v : State}

theorem ReturnKept.refl : ReturnKept w s s := ⟨rfl, rfl, rfl, rfl, rfl⟩

theorem ReturnKept.trans (su : ReturnKept w s u) (uv : ReturnKept w u v) : ReturnKept w s v :=
  ⟨uv.latch.trans su.latch, uv.holds.trans su.holds, uv.ops.trans su.ops, uv.hv.trans su.hv, uv.p.trans su.p⟩

theorem ReturnKept.latchOf (kept : ReturnKept w s u) : u.latchOf w = s.latchOf w := by
  rw [State.latchOf, kept.latch, State.latchOf]

theorem ReturnKept.resumePc (kept : ReturnKept w s u) (l : Nat) : u.resumePc w l = s.resumePc w l := by
  rw [State.resumePc, kept.latchOf, RegFile.getHv, kept.hv]
  rfl

theorem ReturnKept.guardTrue (kept : ReturnKept w s u) (g : Hdr) (l : Nat) : u.guardTrue g w l = s.guardTrue g w l := by
  simp only [State.guardTrue, RegFile.getP, RegFile.getPs, kept.p]

/-- No answered part waits for its turn where none did. -/
theorem ReturnKept.turnLanes (kept : ReturnKept w s u) (noTurn : ∀ e ∈ s.ops, turnLanes e.2 = []) : ∀ e ∈ u.ops, turnLanes e.2 = [] := by
  intro e he
  obtain ⟨d, hd, same⟩ := List.mem_map.mp (kept.ops ▸ List.mem_map_of_mem (f := unwindowed) he)
  exact (congrArg (fun q : Nat × Op => Machine.turnLanes q.2) same).symm.trans (noTurn d hd)

theorem returnKept_advance (s p : State) (h : Hdr) (w : Nat) (pc : Word) (m o : Mask) : ReturnKept w s (s.advance p h w pc m o) := by
  obtain ⟨leaving, waits, wins, record⟩ := advance_warp s p h w pc m o
  exact ⟨by rw [record], by rw [record], advance_ops_unwindowed .., advance_hv .., advance_p ..⟩

end

/-! ## One lane returns -/

section
variable {s : State} {w l : Nat} {t : Trap} {retry : Bool}

/-- The state with a lane of a warp out of handler mode, and back at its exit if the trap took it from there (R41, R422). -/
def outOfHandler (s : State) (w : Nat) (t : Trap) (l : Nat) : State :=
  s.setWarp w { s.warp w with hmode := (s.warp w).hmode &&& ~~~bit32 l, leaving := (s.warp w).leaving ||| (t.leaving &&& bit32 l) }

/-- Where a lane goes, and the registers that its transfer writes: to its resume pc with .retry, past the instruction with .adv (R422). -/
def returnTo (s : State) (w : Nat) (t : Trap) (retry : Bool) (l : Nat) : Word × List RegWrite :=
  if retry then (s.resumePc w l, []) else ((s.advTarget w l (s.resumePc w l) t.word).1, (s.advTarget w l (s.resumePc w l) t.word).2.1)

theorem mem_returnTo {x : RegWrite} (hx : x ∈ (returnTo s w t retry l).2) : (∃ d, x = .lk l d) ∨ ∃ n d, x = .lc l n d := by
  unfold returnTo State.advTarget at hx
  split at hx
  · cases hx
  split at hx
  · cases hx
  split at hx
  · obtain ⟨_, d, rfl⟩ | ⟨_, d, rfl⟩ := mem_nxt hx
    · exact .inl ⟨d, rfl⟩
    · exact .inr ⟨_, d, rfl⟩
  · cases hx

/-- The state with a lane of a warp at its exit, if it leaves (R41). -/
def atExitIf (leaves : Bool) (s : State) (w l : Nat) : State :=
  if leaves then s.setWarp w { s.warp w with leaving := (s.warp w).leaving ||| bit32 l } else s

/-- What a lane's return does, when the trap was not PAGE: the lane leaves handler mode, the registers of its transfer are written, and it goes to
its pc, from where it may exit. -/
theorem leaveLane_eq (notPage : t.cause ≠ .page) : ∃ leaves,
    let u := (outOfHandler s w t l).applyWrites w (returnTo s w t retry l).2
    s.leaveLane w t retry l = atExitIf leaves { u with regs := u.regs.setPc w l (returnTo s w t retry l).1 } w l := by
  cases retry with
  | true =>
    refine ⟨false, ?_⟩
    rw [State.leaveLane]
    exact (if_neg notPage).trans (if_pos rfl)
  | false =>
    refine ⟨(s.advTarget w l (s.resumePc w l) t.word).2.2, ?_⟩
    rw [State.leaveLane]
    exact (if_neg notPage).trans (if_neg Bool.false_ne_true)

/-- The record of the warp after a lane's return: it names the lane as out of handler mode, and who leaves may have changed. -/
theorem leaveLane_warp (notPage : t.cause ≠ .page) : ∃ leaving,
    (s.leaveLane w t retry l).warp w = { s.warp w with hmode := (s.warp w).hmode &&& ~~~bit32 l, leaving := leaving } := by
  obtain ⟨leaves, e⟩ := leaveLane_eq (s := s) (w := w) (l := l) (retry := retry) notPage
  have written : ((outOfHandler s w t l).applyWrites w (returnTo s w t retry l).2).warp w = (outOfHandler s w t l).warp w := by
    refine setWarp_warps_congr (applyWrites_warps _ w _ fun x hx => ?_) w
    obtain ⟨d, rfl⟩ | ⟨n, d, rfl⟩ := mem_returnTo hx <;> trivial
  have record := written.trans (setWarp_warp ..)
  rw [e]
  cases leaves with
  | true => exact ⟨_, (setWarp_warp ..).trans (congrArg (fun y : Warp => { y with leaving := y.leaving ||| bit32 l }) record)⟩
  | false => exact ⟨_, record⟩

theorem leaveLane_regs (notPage : t.cause ≠ .page) :
    (s.leaveLane w t retry l).regs =
      ((outOfHandler s w t l).applyWrites w (returnTo s w t retry l).2).regs.setPc w l (returnTo s w t retry l).1 := by
  obtain ⟨leaves, e⟩ := leaveLane_eq (s := s) (w := w) (l := l) (retry := retry) notPage
  rw [e]
  cases leaves <;> rfl

/-- A part of the registers with no lk, no lc and no pc in it. -/
theorem leaveLane_keep {α : Type} (F : RegFile → α) (notPage : t.cause ≠ .page) (lk : ∀ (r : RegFile) w l x, F (r.setLk w l x) = F r)
    (lc : ∀ (r : RegFile) w l n x, F (r.setLc w l n x) = F r) (pc : ∀ (r : RegFile) w l x, F (r.setPc w l x) = F r) :
    F (s.leaveLane w t retry l).regs = F s.regs := by
  rw [leaveLane_regs notPage, pc]
  refine applyWrites_keep F (fun x hx u => ?_) _
  obtain ⟨d, rfl⟩ | ⟨n, d, rfl⟩ := mem_returnTo hx
  · exact lk ..
  · exact lc ..

theorem returnKept_leaveLane (notPage : t.cause ≠ .page) : ReturnKept w s (s.leaveLane w t retry l) := by
  obtain ⟨leaving, record⟩ := leaveLane_warp (s := s) (w := w) (l := l) (retry := retry) notPage
  have keep {α : Type} (F : RegFile → α) := leaveLane_keep (s := s) (w := w) (l := l) (retry := retry) F notPage
  refine ⟨by rw [record], by rw [record], ?ops, keep (·.hv) ?_ ?_ ?_, keep (·.p) ?_ ?_ ?_⟩
  case ops =>
    obtain ⟨leaves, e⟩ := leaveLane_eq (s := s) (w := w) (l := l) (retry := retry) notPage
    rw [e]
    cases leaves <;> simp [atExitIf, outOfHandler]
  all_goals intros; rfl

theorem leaveLane_inHandler (notPage : t.cause ≠ .page) (hl : l < 32) (k : Nat) :
    (s.leaveLane w t retry l).inHandler w k = (s.inHandler w k && decide (k ≠ l)) := by
  obtain ⟨leaving, record⟩ := leaveLane_warp (s := s) (w := w) (l := l) (retry := retry) notPage
  have one : (bit32 l).getLsbD k = decide (k = l) := by
    rw [Bool.eq_iff_iff, ← mem_lanesOf, lanesOf_bit32 hl, List.mem_singleton, decide_eq_true_iff]
  have lanes : k < 32 ∨ (s.warp w).hmode.getLsbD k = false := (lt_or_ge k 32).imp_right (BitVec.getLsbD_of_ge _ _)
  rw [State.inHandler, record, State.inHandler, BitVec.getLsbD_and, BitVec.getLsbD_not, one]
  obtain lt | off := lanes
  · simp [lt]
  · simp [off]

theorem leaveLane_getPc (notPage : t.cause ≠ .page) (hl : l < 32) {k : Nat} (hk : k < 32) :
    (s.leaveLane w t retry l).regs.getPc w k = if k = l then (returnTo s w t retry l).1 else s.regs.getPc w k := by
  rw [leaveLane_regs notPage, Machine.getPc_setPc _ _ _ _ _ _ hl hk]
  simp [RegFile.getPc, outOfHandler]

end

/-! ## The lanes of M return -/

section
variable {s : State} {w : Nat} {t : Trap} {retry : Bool} (notPage : t.cause ≠ .page)
include notPage

theorem returnKept_leaveLanes (ls : List Nat) : ReturnKept w s (ls.foldl (fun u l => u.leaveLane w t retry l) s) :=
  List.foldlRecOn ls _ (motive := ReturnKept w s) .refl fun _ kept _ _ => kept.trans (returnKept_leaveLane notPage)

section
variable {ls : List Nat} (lanes : ∀ k ∈ ls, k < 32) {l : Nat} (hl : l ∈ ls)
include lanes hl

theorem leaveLanes_inHandler : (ls.foldl (fun u l => u.leaveLane w t retry l) s).inHandler w l = false := by
  induction ls using List.reverseRecOn with
  | nil => cases hl
  | append_singleton ls k ih =>
    rw [List.foldl_append, List.foldl_cons, List.foldl_nil, leaveLane_inHandler notPage (lanes k (by simp))]
    by_cases last : l = k
    · simp [last]
    · rw [ih (fun j hj => lanes j (by simp [hj])) (by simpa [last] using hl), Bool.false_and]

/-- A lane that returns among others stands where its own return puts it, in every state that reads alike. -/
theorem leaveLanes_getPc {pc : Word} (goes : ∀ u, ReturnKept w s u → (returnTo u w t retry l).1 = pc) :
    (ls.foldl (fun u l => u.leaveLane w t retry l) s).regs.getPc w l = pc := by
  induction ls using List.reverseRecOn with
  | nil => cases hl
  | append_singleton ls k ih =>
    rw [List.foldl_append, List.foldl_cons, List.foldl_nil, leaveLane_getPc notPage (lanes k (by simp)) (lanes l hl)]
    by_cases last : l = k
    · subst last
      exact (if_pos rfl).trans (goes _ (returnKept_leaveLanes notPage ls))
    · exact (if_neg last).trans (ih (fun j hj => lanes j (by simp [hj])) (by simpa [last] using hl))

end

end

theorem mem_of_nmapFind {α : Type} {m : NMap α} {k : Nat} {a : α} (found : nmapFind m k = some a) : (k, a) ∈ m := by
  induction m with
  | nil => cases found
  | cons e m ih =>
    rw [nmapFind_cons] at found
    split at found
    · next key =>
      cases found
      exact key ▸ List.mem_cons_self
    · exact List.mem_cons_of_mem _ (ih found)

/-- Nothing is replayed where no answered part waits for its turn (R380). -/
theorem takeTurns_of_none {s : State} (noTurn : ∀ e ∈ s.ops, turnLanes e.2 = []) (ids : List Nat) : s.takeTurns ids = s := by
  induction ids with
  | nil => rfl
  | cons id ids ih =>
    rw [State.takeTurns, List.foldl_cons]
    split
    · exact ih
    · next o found =>
      rw [noTurn _ (mem_of_nmapFind found)]
      exact ih

/-- No trap held, no entry of a handler (R415). -/
theorem endActivation_of_none {s : State} {w : Nat} (noTrap : (s.warp w).holds = []) : s.endActivation w = s := by
  unfold State.endActivation State.enterHandler
  rw [noTrap]
  exact ite_self s

/-- The lanes of M return one by one, and nothing follows on it, when the trap was neither PAGE nor one of a warp-wide instruction, no other is
held and no answered part waits for its turn (R371, R380, R415, R422). -/
theorem leaveHandler_eq {s : State} {w : Nat} {m : Mask} (retry : Bool) (acting : m ≠ 0) (notPage : (s.latchOf w).cause ≠ .page)
    (notWide : wideOpOf (decode (s.latchOf w).word) = none) (noTurn : ∀ e ∈ s.ops, turnLanes e.2 = []) (noTrap : (s.warp w).holds = []) :
    s.leaveHandler w retry m = (lanesOf m).foldl (fun u l => u.leaveLane w (s.latchOf w) retry l) s := by
  have kept := returnKept_leaveLanes notPage (lanesOf m) (s := s) (w := w) (retry := retry)
  have unsigned (u : State) (pc : Word) : u.signResumed w (s.latchOf w) pc m = u := by
    unfold State.signResumed
    dsimp only
    rw [notWide]
  refine (if_neg acting).trans ?_
  simp only [unsigned, ite_self]
  rw [takeTurns_of_none (kept.turnLanes noTurn), endActivation_of_none (kept.holds.trans noTrap)]

/-- .retry sends a lane to its resume pc (R422). -/
theorem returnTo_retry (s : State) (w : Nat) (t : Trap) (l : Nat) : (returnTo s w t true l).1 = s.resumePc w l := rfl

/-- .adv sends a lane past an instruction whose guard is false or that has no transfer (R37, R422). -/
theorem returnTo_adv {s : State} {w : Nat} {t : Trap} {l : Nat} {g : Hdr} (header : hdrOf t.word = some g)
    (on : s.guardTrue g w l = false ∨ g.nxt = .seq) : (returnTo s w t false l).1 = s.resumePc w l + 1 := by
  refine (congrArg Prod.fst (if_neg Bool.false_ne_true)).trans ?_
  simp only [State.advTarget, header]
  obtain off | seq := on
  · rw [if_neg (Bool.eq_false_iff.mp off)]
  · have next : (s.nxt g w l (s.resumePc w l)).1 = s.resumePc w l + 1 := by rw [State.nxt, seq]
    split
    · exact next
    · rfl

/-- Settles O52: nothing holds RFT up, the lanes of M return one by one, and what one reads to return the others leave as it was. -/
theorem rftResumes : Obligations.RftResumes := by
  unfold Obligations.RftResumes
  intro h f s l w t0 can ready noTrap notPage notWide noTurn hl acts
  choose handling idle records using ready
  have moved := returnKept_advance s s h w s.cur.pc (s.activeSet h) (s.offSet h)
  have latch : (s.advance s h w s.cur.pc (s.activeSet h) (s.offSet h)).latchOf w = t0 := moved.latchOf
  have acting : s.activeSet h ≠ 0 := by
    intro zero
    simp [zero] at acts
  have leaves := leaveHandler_eq (f.sub.getLsbD 0) acting (latch ▸ notPage) (latch ▸ notWide) (moved.turnLanes noTurn) (moved.holds.trans noTrap)
  rw [latch] at leaves
  have lane := mem_lanesOf.mpr acts
  have stands {pc : Word} (goes : ∀ u, ReturnKept w s u → (returnTo u w t0 (f.sub.getLsbD 0) l).1 = pc) :=
    leaveLanes_getPc notPage (fun _ => lanesOf_lt) lane fun u kept => goes u (moved.trans kept)
  refine ⟨_, (exec_rft_of_idle can handling idle records).trans (next_congr leaves), leaveLanes_inHandler notPage (fun _ => lanesOf_lt) lane, ?retry,
    ?adv⟩
  case retry =>
    intro retry
    refine stands fun u kept => ?_
    rw [retry, returnTo_retry, kept.resumePc]
  case adv =>
    intro g adv header on
    refine stands fun u kept => ?_
    rw [adv, returnTo_adv header (by rwa [kept.guardTrue]), kept.resumePc]

end Sys2Proof.Laws
end

section
/-! Corrected and uncorrectable errors are counted, reported and marked (R427 to R430, R432). -/

namespace Sys2Proof.Laws

open Sys2Proof.Machine

theorem exec_errorBufferTail_of_exposed {s : State} (v : Word) (exposed : s.exposed = true) :
    exec (.errorBufferTail v) s = .next { s with card := { s.card with ebtail := v } } := next_congr (if_pos exposed)

section
variable {s : State} {site e : ErrSite} (home : siteHome site = e)
include home

/-! ## In a Rueladom lane -/

theorem exec_correctableError_of_lane (lane : isLane e = true) : exec (.correctableError site) s = .next (s.countUnit e false) := by
  subst home
  exact next_congr (if_pos lane)

theorem exec_uncorrectableError_of_lane (lane : isLane e = true) : exec (.uncorrectableError site) s = .next (s.countUnit e true) := by
  subst home
  exact next_congr (if_pos lane)

/-! ## In a unit of a store class of a stack -/

section
variable (first : 1 ≤ e.cls) (last : e.cls ≤ 12) (stack : e.stack < 4)
include first last stack

omit home in
/-- A store class is not that of the lanes, and it and its stack are among those that the card has (R427). -/
theorem isLane_of_class : ¬ isLane e = true ∧ ¬ (e.cls = 0 || 12 < e.cls || 4 ≤ e.stack) = true := by
  simp only [isLane, Bool.and_eq_true, Bool.or_eq_true, decide_eq_true_eq]
  omega

/-- A corrected error is counted, an entry of the instruction cache or of a translation cache having been dropped first (R427, R428). -/
theorem exec_correctableError_of_class :
    exec (.correctableError site) s = .next ((if e.cls = 11 || (e.cls = 12 && e.unit % 2 = 0) then s.refetch e else s).countCe e) := by
  obtain ⟨noLane, listed⟩ := isLane_of_class first last stack
  subst home
  exact next_congr ((if_neg noLane).trans (if_neg listed))

/-- What can be fetched again is, and counts as a corrected error (R427, R428). -/
theorem exec_uncorrectableError_of_refetches (again : s.refetches e = true) :
    exec (.uncorrectableError site) s = .next
      ((if e.cls = 3 then s.invalidate (32 * e.unit / 2 ^ 52) (nmapClear s.mem.l1 (32 * e.unit) (32 * e.unit + 32)) else s.refetch e).countCe e) := by
  obtain ⟨noLane, listed⟩ := isLane_of_class first last stack
  subst home
  exact next_congr ((if_neg noLane).trans ((if_neg listed).trans (if_pos again)))

/-- An error counted and reported as uncorrectable (R428, R430). -/
def ueReported (s : State) (e : ErrSite) : State :=
  let r : StackRegs := { s.errBlock e.stack with ue := satInc (s.errBlock e.stack).ue }
  { s with stackRegs := nmapSet s.stackRegs e.stack r }.report (siteReport 2 e 0)

/-- What cannot be fetched again is counted, reported, and its unit marked as poisoned; an entry of queue SRAM is met otherwise (R427 to R431). -/
theorem exec_uncorrectableError_of_kept (kept : s.refetches e = false) (noQueue : e.cls ≠ 6) (noTag : e.cls ≠ 7) :
    exec (.uncorrectableError site) s = .next (((ueReported s e).markUnit e).countUnit e true) := by
  obtain ⟨noLane, listed⟩ := isLane_of_class first last stack
  have marked : (if e.cls = 6 || e.cls = 7 then (ueReported s e).queueError e else (ueReported s e).markUnit e) = (ueReported s e).markUnit e :=
    if_neg (by simp [noQueue, noTag])
  subst home
  refine next_congr ((if_neg noLane).trans ((if_neg listed).trans ((if_neg (Bool.eq_false_iff.mp kept)).trans ?_)))
  exact congrArg (fun t : State => t.countUnit _ true) marked

end

end

/-- Settles O30: a site of a store class goes on to be counted, refetched or marked as its class says; one in a Rueladom lane is counted for it alone.
The stack of an error in a yard, and that the site says whether a unit of L2 is clean, are the model's choices (log entries 61 and 12). -/
theorem errorEventsComplete : Obligations.ErrorEventsComplete := by
  unfold Obligations.ErrorEventsComplete
  intro s site e
  have home : siteHome site = e := rfl
  clear_value e
  refine ⟨fun v => exec_errorBufferTail_of_exposed v, ?corrected, ?cache, ?kept, ?lane, ?l2, ?l1⟩
  case corrected =>
    intro first last stack
    rw [exec_correctableError_of_class home first (by omega) stack, if_neg (by simp; omega)]
  case cache =>
    intro cls stack
    have dropped : s.refetch e = { s with mem := { s.mem with icache := nmapErase s.mem.icache e.unit } } := if_pos cls
    rw [exec_correctableError_of_class home (by omega) (by omega) stack, if_pos (by simp [cls]), dropped]
  case kept =>
    exact fun first last noQueue noTag stack kept => exec_uncorrectableError_of_kept home first last stack kept noQueue noTag
  case lane => exact fun lane => ⟨exec_correctableError_of_lane home lane, exec_uncorrectableError_of_lane home lane⟩
  case l2 =>
    intro cls stack clean
    have again : s.refetches e = true := by simp [State.refetches, cls, clean]
    have nothing : s.refetch e = s := by simp [State.refetch, cls]
    rw [exec_uncorrectableError_of_refetches home (by omega) (by omega) stack again, if_neg (by omega), nothing]
  case l1 =>
    intro cls stack clean
    have again : s.refetches e = true := by simp [State.refetches, cls, clean]
    rw [exec_uncorrectableError_of_refetches home (by omega) (by omega) stack again, if_pos cls]

end Sys2Proof.Laws
end

section
/-! Sensors, refresh and the governor (R443, R444, R446). -/

namespace Sys2Proof.Laws

open Sys2Proof.Machine

/-! ## Bank readings -/

/-- A tier is left upwards as soon as a reading lies above it (R443). -/
theorem nextTier_of_above {k : Nat} {temp : Int} (above : k < rangeTier temp) : nextTier k temp = rangeTier temp := if_pos above

/-- A tier is left downwards only 2 °C below its range, to the tier of the reading plus 1 (R443). -/
theorem nextTier_of_below {k : Nat} {temp : Int} (listed : k ≤ 2) (positive : 0 < k) (below : temp ≤ tierLow k - 2) :
    nextTier k temp = rangeTier (temp + 1) := by
  have notAbove : ¬ k < rangeTier temp := by
    obtain rfl | rfl : k = 1 ∨ k = 2 := by omega
    all_goals
      simp only [tierLow, if_true, OfNat.ofNat_ne_one, if_false] at below
      simp only [rangeTier]
      split_ifs <;> omega
  refine (if_neg notAbove).trans (if_pos ?_)
  simp only [positive, decide_true, Bool.true_and, decide_eq_true_eq]
  omega

/-- Between the two, a bank stays in its tier (R443). -/
theorem nextTier_of_between {k : Nat} {temp : Int} (notAbove : ¬ k < rangeTier temp) (notBelow : k = 0 ∨ tierLow k - 2 < temp) :
    nextTier k temp = k := by
  refine (if_neg notAbove).trans (if_neg ?_)
  simp only [Bool.and_eq_true, decide_eq_true_eq]
  omega

section
variable (s : State) (stack : Nat) (r : BankReading)

/-- The tier of the bank that was read (R443). -/
theorem takeReading_tier : dmapGet 0 (s.takeReading stack r).thermal.bankTier (bankKey (stack * 48 + r.core) r.bank) =
    nextTier (dmapGet 0 s.thermal.bankTier (bankKey (stack * 48 + r.core) r.bank)) r.temp := dmapGet_set_self ..

/-- A reading of 105 °C trips the card (R446). -/
theorem takeReading_trip : (s.takeReading stack r).card.trip = true ↔ s.card.trip = true ∨ 105 ≤ r.temp := by
  simp [State.takeReading]

end

/-- %talw where both the hottest bank and the hotspot of a core have been read (R444). -/
theorem talwNow_of_read {t : State} {cid : Nat} {bank hot : Int} (hottest : t.hottestBank cid = some bank)
    (spot : nmapFind t.thermal.hot cid = some hot) :
    (t.talwNow cid : Int) = max 0 (min 255 (min (16 * (95 - bank)) (min (16 * (105 - hot)) t.thermal.b))) := by
  rw [State.talwNow, hottest, spot]
  dsimp only
  omega

/-- Settles O53: the tier read before decides between the three cases of R443, and the allowance is R444's of the state after the reading. -/
theorem sensorSetsTierAndAllowance : Obligations.SensorSetsTierAndAllowance := by
  unfold Obligations.SensorSetsTierAndAllowance
  intro s stack core bank k temp hot _ _ _ cid tierOf low t listed before
  have tier : dmapGet 0 t.thermal.bankTier (bankKey cid bank) = nextTier k temp := before ▸ takeReading_tier s stack ⟨core, bank, temp⟩
  rw [tier]
  exact ⟨nextTier_of_above, nextTier_of_below listed, nextTier_of_between, takeReading_trip s stack ⟨core, bank, temp⟩, talwNow_of_read⟩

/-! ## The events -/

/-- The hotspot readings of a stack once the hottest of each core among some has been kept (R443). -/
def spotsKept (stack : Nat) (hottest : Nat → Option Int) (cores : List Nat) (hot : NMap Int) : NMap Int :=
  cores.foldl (fun (m : NMap Int) c => match hottest c with
    | some t => nmapSet m (stack * 48 + c) t
    | none => m) hot

theorem spotsKept_of_read {stack core : Nat} {hottest : Nat → Option Int} {cores : List Nat} {temp : Int} (hot : NMap Int) (among : core ∈ cores)
    (read : hottest core = some temp) : nmapFind (spotsKept stack hottest cores hot) (stack * 48 + core) = some temp := by
  induction cores using List.reverseRecOn with
  | nil => cases among
  | append_singleton cores c ih =>
    rw [spotsKept, List.foldl_append, List.foldl_cons, List.foldl_nil, ← spotsKept]
    by_cases last : core = c
    · subst last
      rw [read]
      exact nmapFind_set_self ..
    · have before := ih (by simpa [last] using among)
      split
      · rw [nmapFind_set_of_ne _ _ (by omega), before]
      · exact before

section
variable {s : State} {stack : Nat} (present : stack < 4)
include present

theorem exec_bankSensorRead_of_present (reads : List BankReading) :
    let t := (reads.filter (fun (r : BankReading) => decide (r.core < 48) && decide (r.bank < 65536))).foldl
      (fun (u : State) r => u.takeReading stack r) s
    exec (.bankSensorRead stack reads) s = .next
      ({ t with thermal := { t.thermal with
          talw := (List.range 48).foldl (fun (m : NMap Nat) c => dmapSet 255 m (stack * 48 + c) (t.talwNow (stack * 48 + c))) t.thermal.talw }
       }.yardmaster) :=
  next_congr (if_neg (Nat.not_le.mpr present))

/-- A single hotspot reading is kept, and one of 110 °C trips the card (R443, R446). -/
theorem exec_hotspotSensorRead_single {core : Nat} (temp : Int) (listed : core < 48) : ∃ t, exec (.hotspotSensorRead stack [(core, temp)]) s = .next t ∧
    nmapFind t.thermal.hot (stack * 48 + core) = some temp ∧ t.card = { s.card with trip := s.card.trip || decide (110 ≤ temp) } := by
  have own : [(core, temp)].filter (fun r => decide (r.1 < 48)) = [(core, temp)] := by simp [listed]
  refine ⟨_, next_congr (if_neg (Nat.not_le.mpr present)), spotsKept_of_read _ (List.mem_range.mpr listed) ?read, ?trip⟩
  case read => simp [own]
  case trip => simp [own]

end

theorem exec_bankRefresh_of_column {s : State} {cid : Nat} (bank : Nat) (column : cid < 192) :
    exec (.bankRefresh cid bank) s = .next
      { s with thermal := { s.thermal with refreshing := nmapSet s.thermal.refreshing (bankKey cid bank) () } } := next_congr (if_pos column)

/-- Settles O32: each event takes the branch that its premises name; the end of a refresh and the governor's step have one meaning in every state. That
a stack's cores ask for work again after a reading is the model's choice (log entry 60). -/
theorem heatEventsComplete : Obligations.HeatEventsComplete := by
  unfold Obligations.HeatEventsComplete
  intro s
  refine ⟨?banks, ?hotspot, ?refresh, fun cid bank => rfl, fun watts => rfl⟩
  case banks => exact fun stack reads present => exec_bankSensorRead_of_present present reads
  case hotspot => exact fun stack core temp present => exec_hotspotSensorRead_single present temp
  case refresh => exact fun cid bank => exec_bankRefresh_of_column bank

end Sys2Proof.Laws
end

section
/-! The state after reset (R435, R438, R444). -/

namespace Sys2Proof.Laws

open Sys2Proof.Machine

/-- Settles O55: the reset state is written out field by field, and its memory is in canonical form. That it lists no queue, context or warp and nothing
in memory is the model's choice (log entries 1 and 3). -/
theorem resetHoldsResetValues : Obligations.ResetHoldsResetValues := by
  unfold Obligations.ResetHoldsResetValues
  exact ⟨rfl, rfl, rfl, rfl, rfl, rfl, rfl, rfl, rfl, rfl, rfl, rfl, rfl, reset_wf⟩

end Sys2Proof.Laws
end
